-- ==== Sys2Proof/Word.lean ====
section
/-!
DEFINITION. The word types of the Gymir 7424: bytes, 32-bit instruction words and lane registers, 64-bit uniform
registers and addresses (R6, R26 of spec/01 and spec/02).
-/
namespace Sys2Proof

/-- One byte of memory. -/
abbrev Byte := BitVec 8
/-- One instruction word, or the content of one lane register. -/
abbrev Word := BitVec 32
/-- The content of one uniform register, a virtual address, or a control register. -/
abbrev DWord := BitVec 64

end Sys2Proof
end

