-- ==== Sys2Proof/Machine/Bits.lean ====
section
/-!
DEFINITION. Sparse stores and small list helpers. A store maps natural-number keys to bit vectors; a key that is not
listed reads as zero. The canonical form lists keys in rising order and no zero, so that equal stores are equal data.
Memory, scratch and every register file are such stores.
-/
namespace Sys2Proof.Machine

/-- A store of `w`-bit values (DESIGN CHOICE, log 8). -/
abbrev Sparse (w : Nat) := List (Nat × BitVec w)

/-- The value at a key; zero where nothing is listed. -/
def spGet {w : Nat} (m : Sparse w) (k : Nat) : BitVec w :=
  match m with
  | [] => 0
  | (k', v) :: t => if k' = k then v else spGet t k

/-- Drops every entry of a key. -/
def spDel {w : Nat} (m : Sparse w) (k : Nat) : Sparse w :=
  match m with
  | [] => []
  | (k', v) :: t => if k' = k then spDel t k else (k', v) :: spDel t k

/-- Lists a value at its place in key order. -/
def spIns {w : Nat} (m : Sparse w) (k : Nat) (v : BitVec w) : Sparse w :=
  match m with
  | [] => [(k, v)]
  | (k', v') :: t =>
    if k < k' then (k, v) :: (k', v') :: t
    else if k' = k then (k, v) :: t
    else (k', v') :: spIns t k v

/-- Writes one key; zero is what an unlisted key reads as, so writing zero drops the entry. -/
def spSet {w : Nat} (m : Sparse w) (k : Nat) (v : BitVec w) : Sparse w :=
  if v = 0 then spDel m k else spIns m k v

/-- Every key of the list lies above `lo`, keys rise strictly and no value is zero. -/
def spWfFrom {w : Nat} (lo : Nat) (m : Sparse w) : Bool :=
  match m with
  | [] => true
  | (k, v) :: t => decide (lo ≤ k) && (v != 0) && spWfFrom (k + 1) t

/-- The canonical form of a store. -/
def spWf {w : Nat} (m : Sparse w) : Bool := spWfFrom 0 m

/-- Drops every key from `lo` up to but not including `hi`. -/
def spClear {w : Nat} (m : Sparse w) (lo hi : Nat) : Sparse w :=
  match m with
  | [] => []
  | (k, v) :: t => if lo ≤ k ∧ k < hi then spClear t lo hi else (k, v) :: spClear t lo hi

/-- Entries of the keys `k + i` on, `n` of them, with the values of a function. -/
def spRun {w : Nat} (f : Nat → BitVec w) (k i n : Nat) : Sparse w :=
  match n with
  | 0 => []
  | j + 1 => if f i = 0 then spRun f k (i + 1) j else (k + i, f i) :: spRun f k (i + 1) j

/-- Gives the `n` keys from `k` the values of a function. -/
def spFill {w : Nat} (m : Sparse w) (k n : Nat) (f : Nat → BitVec w) : Sparse w :=
  (m.filter fun e => decide (e.1 < k)) ++ spRun f k 0 n ++ m.filter fun e => decide (k + n ≤ e.1)

/-- `n` bytes from `a`, least significant first (R122). -/
def readLE (m : Sparse 8) (a n : Nat) : Nat :=
  match n with
  | 0 => 0
  | k + 1 => (spGet m a).toNat + 256 * readLE m (a + 1) k

/-- Writes the low `n` bytes of `v` at `a`, least significant first (R122). -/
def writeLE (m : Sparse 8) (a n v : Nat) : Sparse 8 :=
  match n with
  | 0 => m
  | k + 1 => writeLE (spSet m a (BitVec.ofNat 8 v)) (a + 1) k (v / 256)

/-- The element at an index, or a default. -/
def listGet {α : Type} (d : α) (l : List α) (n : Nat) : α :=
  match l, n with
  | [], _ => d
  | x :: _, 0 => x
  | _ :: t, k + 1 => listGet d t k

/-- Changes the element at an index; a list too short is left as it is. -/
def listModify {α : Type} (f : α → α) (l : List α) (n : Nat) : List α :=
  match l, n with
  | [], _ => []
  | x :: t, 0 => f x :: t
  | x :: t, k + 1 => x :: listModify f t k

/-- Applies a function to every element together with its index, counted from `n`. -/
def mapIdxFrom {α β : Type} (f : Nat → α → β) (n : Nat) (l : List α) : List β :=
  match l with
  | [] => []
  | x :: t => f n x :: mapIdxFrom f (n + 1) t

/-- The natural numbers from `n`, `k` of them. -/
def upFrom (n k : Nat) : List Nat :=
  match k with
  | 0 => []
  | j + 1 => n :: upFrom (n + 1) j

/-- Applies a function to every element that passes a test. -/
def mapWhere {α : Type} (p : α → Bool) (f : α → α) (l : List α) : List α :=
  match l with
  | [] => []
  | x :: t => (if p x then f x else x) :: mapWhere p f t

/-- The first element that passes a test. -/
def findFirst {α : Type} (p : α → Bool) (l : List α) : Option α :=
  match l with
  | [] => none
  | x :: t => if p x then some x else findFirst p t

/-- Puts an element before the first that it may precede. -/
def sortInto {α : Type} (le : α → α → Bool) (x : α) : List α → List α
  | [] => [x]
  | y :: t => if le x y then x :: y :: t else y :: sortInto le x t
/-- The elements in order, equals as they stood. -/
def sortBy {α : Type} (le : α → α → Bool) (l : List α) : List α := l.foldr (sortInto le) []

/-- How many elements pass a test. -/
def countWhere {α : Type} (p : α → Bool) (l : List α) : Nat :=
  match l with
  | [] => 0
  | x :: t => (if p x then 1 else 0) + countWhere p t

/-- Does one bit of a lane mask stand. -/
def inMask (m : BitVec 64) (lane : Nat) : Bool := m.getLsbD lane

/-- The mask of the lanes below 64 that pass a test. -/
def maskOf (p : Nat → Bool) : BitVec 64 :=
  (upFrom 0 64).foldl (fun acc i => if p i then acc ||| (1#64 <<< i) else acc) 0

/-- The lanes of a mask, ascending. -/
def lanesOf (m : BitVec 64) : List Nat := (upFrom 0 64).filter (inMask m)

/-- The lowest lane of a mask. -/
def lowestLane (m : BitVec 64) : Nat :=
  match lanesOf m with
  | [] => 0
  | l :: _ => l

/-- Bits `[hi:lo]` of a word as a number. -/
def field {w : Nat} (x : BitVec w) (lo len : Nat) : Nat := (x.toNat / 2 ^ lo) % 2 ^ len

/-- Replaces the bits of `x` that stand in `mask` by those of `y`. -/
def mergeBits {w : Nat} (mask x y : BitVec w) : BitVec w := (x &&& ~~~mask) ||| (y &&& mask)

/-- Ones in bits `lo` to `lo + len - 1`. -/
def onesAt (w lo len : Nat) : BitVec w := BitVec.ofNat w ((2 ^ len - 1) * 2 ^ lo)

/-- Number of one bits. -/
def popCount (x : BitVec w) : Nat := countWhere (fun i => x.getLsbD i) (upFrom 0 w)

/-- A number of leading zero bits. -/
def leadingZeros (x : BitVec w) : Nat :=
  match (upFrom 0 w).find? (fun i => x.getLsbD (w - 1 - i)) with
  | some i => i
  | none => w

/-- A number of trailing zero bits. -/
def trailingZeros (x : BitVec w) : Nat :=
  match (upFrom 0 w).find? (fun i => x.getLsbD i) with
  | some i => i
  | none => w

/-- The bits in reverse order. -/
def reverseBits (x : BitVec w) : BitVec w :=
  BitVec.ofNat w ((upFrom 0 w).foldl (fun acc i => if x.getLsbD i then acc + 2 ^ (w - 1 - i) else acc) 0)

/-- Adds a number to a list once. -/
def addOnce (l : List Nat) (n : Nat) : List Nat := if l.contains n then l else l ++ [n]

end Sys2Proof.Machine
end

