-- ==== Sys2Proof/Machine/Fp.lean ====
section
/-!
DEFINITION. Floating-point formats, exact values, rounding and the fused sum (R60 to R68 of spec/04). Every finite value
is an exact dyadic number; nothing is rounded but by `roundTo`.
-/
namespace Sys2Proof.Machine

/-- The floating-point formats of R60. -/
inductive Fmt where
  | fp32 | bf16 | fp16 | e4m3 | e5m2 | e2m1
  deriving DecidableEq, Repr

/-- Exponent bits. -/
def Fmt.ebits : Fmt → Nat
  | .fp32 => 8 | .bf16 => 8 | .fp16 => 5 | .e4m3 => 4 | .e5m2 => 5 | .e2m1 => 2
/-- Fraction bits. -/
def Fmt.mbits : Fmt → Nat
  | .fp32 => 23 | .bf16 => 7 | .fp16 => 10 | .e4m3 => 3 | .e5m2 => 2 | .e2m1 => 1
/-- Exponent bias. -/
def Fmt.bias : Fmt → Nat
  | .fp32 => 127 | .bf16 => 127 | .fp16 => 15 | .e4m3 => 7 | .e5m2 => 15 | .e2m1 => 1
/-- Place of the sign bit. -/
def Fmt.signBit (f : Fmt) : Nat := f.ebits + f.mbits
/-- Code of the largest finite magnitude (R60). -/
def Fmt.maxFinite : Fmt → Nat
  | .fp32 => 0x7F7FFFFF | .bf16 => 0x7F7F | .fp16 => 0x7BFF | .e4m3 => 0x7E | .e5m2 => 0x7B | .e2m1 => 0x7
/-- Whether the format has infinities (R60). -/
def Fmt.hasInf : Fmt → Bool
  | .fp32 => true | .bf16 => true | .fp16 => true | .e4m3 => false | .e5m2 => true | .e2m1 => false
/-- Code of positive infinity; meaningful where the format has one. -/
def Fmt.infCode (f : Fmt) : Nat := (2 ^ f.ebits - 1) * 2 ^ f.mbits
/-- The default NaN (R62). E2M1 has none. -/
def Fmt.nanCode : Fmt → Nat
  | .fp32 => 0x7FC00000 | .bf16 => 0x7FC0 | .fp16 => 0x7E00 | .e4m3 => 0x7F | .e5m2 => 0x7E | .e2m1 => 0
/-- Exponent of the least subnormal: a code `c` below the second normal binade is `c · 2^minExp`. -/
def Fmt.minExp (f : Fmt) : Int := 1 - (f.bias : Int) - (f.mbits : Int)

/-- What a pattern stands for (R61): a finite value is `(-1)^neg · m · 2^e`, zero keeping its sign. -/
inductive Val where
  | nan
  | inf (neg : Bool)
  | fin (neg : Bool) (m : Nat) (e : Int)
  deriving DecidableEq, Repr

/-- The value of a pattern (R60, R61). -/
def decodeFp (f : Fmt) (bits : Nat) : Val :=
  let neg := (bits / 2 ^ f.signBit) % 2 == 1
  let ex := (bits / 2 ^ f.mbits) % 2 ^ f.ebits
  let fr := bits % 2 ^ f.mbits
  if ex == 0 then .fin neg fr f.minExp
  else if f.hasInf && ex == 2 ^ f.ebits - 1 then
    if fr == 0 then .inf neg else .nan
  else if f == .e4m3 && ex == 15 && fr == 7 then .nan
  else .fin neg (fr + 2 ^ f.mbits) (f.minExp + (ex : Int) - 1)

/-- The value of an FP32 register. -/
def val32 (x : BitVec 32) : Val := decodeFp .fp32 x.toNat

/-- Is the value a NaN. -/
def Val.isNan : Val → Bool
  | .nan => true
  | _ => false

/-- The value with its sign flipped. -/
def Val.negate : Val → Val
  | .nan => .nan
  | .inf s => .inf (!s)
  | .fin s m e => .fin (!s) m e

/-! Flags, in the order of R8: invalid, divide-by-zero, overflow, underflow, inexact. -/

/-- The five flags of one coefficient. -/
abbrev Flags5 := BitVec 5
def flagInvalid : Flags5 := 1
def flagDivZero : Flags5 := 2
def flagOverflow : Flags5 := 4
def flagUnderflow : Flags5 := 8
def flagInexact : Flags5 := 16

/-- A result: the pattern of the destination format, and the flags. -/
structure Fres where
  bits : Nat
  flags : Flags5
  deriving DecidableEq, Repr

/-- The default NaN without a flag. -/
def nanRes (f : Fmt) : Fres := ⟨f.nanCode, 0⟩
/-- The default NaN with invalid. -/
def invalidRes (f : Fmt) : Fres := ⟨f.nanCode, flagInvalid⟩
/-- A pattern with a sign. -/
def signed (f : Fmt) (neg : Bool) (code : Nat) : Nat := if neg then code + 2 ^ f.signBit else code

/-- Rounding modes (R64). -/
inductive Mode where
  | rne | rtz | floor | ceil
  deriving DecidableEq, Repr

/-- Should the magnitude `q + r/d` go up, in a mode, for a sign. -/
def roundUp (mode : Mode) (neg : Bool) (q r d : Nat) : Bool :=
  match mode with
  | .rne => decide (d < 2 * r) || (2 * r == d && q % 2 == 1)
  | .rtz => false
  | .floor => neg && r != 0
  | .ceil => !neg && r != 0

/-- `n · 2^k` over a denominator: numerator and denominator as natural numbers. -/
def scale2 (n d : Nat) (k : Int) : Nat × Nat :=
  if 0 ≤ k then (n * 2 ^ k.toNat, d) else (n, d * 2 ^ (-k).toNat)

/-- The binary exponent of `n/d · 2^e`: the `k` with `2^k ≤ n/d · 2^e < 2^(k+1)`, for nonzero `n` and `d`. -/
def exponentOf (n d : Nat) (e : Int) : Int :=
  let k : Int := (Nat.log2 n : Int) - (Nat.log2 d : Int)
  let (a, b) := scale2 n d (-k)
  if a < b then k - 1 + e else k + e

/-- A magnitude rounded to a multiple of `2^q`: the multiple, and whether it is exact. -/
def roundAt (mode : Mode) (neg : Bool) (n d : Nat) (e q : Int) : Nat × Bool :=
  let (a, b) := scale2 n d (e - q)
  let t := a / b
  let r := a % b
  (if roundUp mode neg t r b then t + 1 else t, r == 0)

/-- What a finite overflow delivers: an infinity, or the largest finite value (R63, R65). -/
inductive Over where
  | toInf | saturate
  deriving DecidableEq, Repr

/-- Rounds the nonzero exact value `(-1)^neg · n/d · 2^e` to a format, RNE, with the flags of R63 and, when the
destination saturates, R65. -/
def roundTo (f : Fmt) (ov : Over) (neg : Bool) (n d : Nat) (e : Int) : Fres :=
  let k := exponentOf n d e
  let qU := k - (f.mbits : Int)
  let (mU, _) := roundAt .rne neg n d e qU
  let q := if qU < f.minExp then f.minExp else qU
  let (m, exact) := roundAt .rne neg n d e q
  let code := m + (q - f.minExp).toNat * 2 ^ f.mbits
  if f.maxFinite < code then
    match ov with
    | .toInf => ⟨signed f neg f.infCode, flagOverflow ||| flagInexact⟩
    | .saturate => ⟨signed f neg f.maxFinite, flagOverflow ||| flagInexact⟩
  else
    let tiny := (exponentOf mU 1 qU) < f.minExp + (f.mbits : Int)
    let fl : Flags5 := if exact then 0 else if tiny then flagUnderflow ||| flagInexact else flagInexact
    ⟨signed f neg code, fl⟩

/-- Rounds a value to a format: R63 where overflow gives an infinity, R65 where it saturates. -/
def roundVal (f : Fmt) (ov : Over) (v : Val) : Fres :=
  match v with
  | .nan => nanRes f
  | .inf s =>
    match ov with
    | .toInf => ⟨signed f s f.infCode, 0⟩
    | .saturate => ⟨signed f s f.maxFinite, flagInexact⟩
  | .fin s 0 _ => ⟨signed f s 0, 0⟩
  | .fin s m e => roundTo f ov s m 1 e

/-! The fused sum (R66). -/

/-- A term of a sum: a value, or a product of values. `invalid` is 0·∞ without a NaN factor. -/
inductive Term where
  | nan
  | invalid
  | inf (neg : Bool)
  | fin (neg : Bool) (m : Nat) (e : Int)
  deriving DecidableEq, Repr

/-- A value as a term. -/
def Val.term : Val → Term
  | .nan => .nan
  | .inf s => .inf s
  | .fin s m e => .fin s m e

/-- The term times a value. -/
def Term.mul (t : Term) (v : Val) : Term :=
  match t, v with
  | .nan, _ => .nan
  | _, .nan => .nan
  | .invalid, _ => .invalid
  | .inf s, .inf s' => .inf (s != s')
  | .inf s, .fin s' m _ => if m == 0 then .invalid else .inf (s != s')
  | .fin s m _, .inf s' => if m == 0 then .invalid else .inf (s != s')
  | .fin s m e, .fin s' m' e' => .fin (s != s') (m * m') (e + e')

/-- The product of two values as a term. -/
def mulTerm (a b : Val) : Term := a.term.mul b

/-- The term with its sign flipped. -/
def Term.negate : Term → Term
  | .nan => .nan
  | .invalid => .invalid
  | .inf s => .inf (!s)
  | .fin s m e => .fin (!s) m e

/-- The least exponent of the finite terms. -/
def leastExp (ts : List Term) (e0 : Int) : Int :=
  ts.foldl (fun acc t => match t with | .fin _ _ e => if e < acc then e else acc | _ => acc) e0

/-- The exact sum of the finite terms in units of `2^e`, `e` no greater than any of their exponents. -/
def sumAt (ts : List Term) (e : Int) : Int :=
  ts.foldl (fun acc t =>
    match t with
    | .fin s m e' =>
      let v : Int := (m * 2 ^ (e' - e).toNat : Nat)
      if s then acc - v else acc + v
    | _ => acc) 0

/-- Is the term a zero of negative sign. -/
def Term.negZero : Term → Bool
  | .fin s m _ => s && m == 0
  | _ => false

/-- The exact value of a sum, by the cases of R66 in their order. -/
def exactSum (ts : List Term) : Term :=
  if ts.any (fun t => t == .nan) then .nan
  else if ts.any (fun t => t == .invalid) || (ts.any (fun t => t == .inf true) && ts.any (fun t => t == .inf false))
  then .invalid
  else if ts.any (fun t => t == .inf true) then .inf true
  else if ts.any (fun t => t == .inf false) then .inf false
  else
    let e := leastExp ts 0
    let s := sumAt ts e
    if s == 0 then .fin (!ts.isEmpty && ts.all Term.negZero) 0 0
    else .fin (decide (s < 0)) s.natAbs e

/-- A term rounded once. -/
def roundTerm (f : Fmt) (ov : Over) (t : Term) : Fres :=
  match t with
  | .nan => nanRes f
  | .invalid => invalidRes f
  | .inf s => roundVal f ov (.inf s)
  | .fin s m e => roundVal f ov (.fin s m e)

/-- FusedSum of R66. -/
def fusedSum (f : Fmt) (ts : List Term) : Fres := roundTerm f .toInf (exactSum ts)

/-- The exact value a term stands for, when it is used as a factor; an invalid term stays invalid. -/
def Term.times (a b : Term) : Term :=
  match a, b with
  | .nan, _ => .nan
  | _, .nan => .nan
  | .invalid, _ => .invalid
  | _, .invalid => .invalid
  | a, .inf s => a.mul (.inf s)
  | a, .fin s m e => a.mul (.fin s m e)

/-- A sum times the positive rational `cn/cd`, divided by a value, rounded once to FP32: one step of R81, with the
division cases of R63 and R106. -/
def quotient (num : Term) (cn cd : Nat) (den : Val) : Fres :=
  match num, den with
  | .nan, _ => nanRes .fp32
  | _, .nan => nanRes .fp32
  | .invalid, _ => invalidRes .fp32
  | .inf _, .inf _ => invalidRes .fp32
  | .inf s, .fin s' _ _ => ⟨signed .fp32 (s != s') Fmt.fp32.infCode, 0⟩
  | .fin s _ _, .inf s' => ⟨signed .fp32 (s != s') 0, 0⟩
  | .fin s m e, .fin s' m' e' =>
    if m' == 0 then
      if m == 0 then invalidRes .fp32 else ⟨signed .fp32 (s != s') Fmt.fp32.infCode, flagDivZero⟩
    else if m == 0 then ⟨signed .fp32 (s != s') 0, 0⟩
    else roundTo .fp32 .toInf (s != s') (m * cn) (m' * cd) (e - e')

/-- The value 1. -/
def Val.one : Val := .fin false 1 0

/-! Square roots. -/

/-- Raises `r` bit by bit while its square stays at or below `n`: the integer square root for `n < 4^k`. -/
def isqrtFrom (n : Nat) (k : Nat) (r : Nat) : Nat :=
  match k with
  | 0 => r
  | j + 1 => if (r + 2 ^ j) * (r + 2 ^ j) ≤ n then isqrtFrom n j (r + 2 ^ j) else isqrtFrom n j r

/-- The integer square root. -/
def isqrt (n : Nat) : Nat := isqrtFrom n (Nat.log2 n / 2 + 1) 0

/-- `m · 2^e` with an even exponent. -/
def evenExp (m : Nat) (e : Int) : Nat × Int := if e % 2 == 0 then (m, e) else (2 * m, e - 1)

/-- FSQRT of R106 at order 0. -/
def fsqrtVal (a : Val) : Fres :=
  match a with
  | .nan => nanRes .fp32
  | .inf s => if s then invalidRes .fp32 else ⟨Fmt.fp32.infCode, 0⟩
  | .fin s m e =>
    if m == 0 then ⟨signed .fp32 s 0, 0⟩
    else if s then invalidRes .fp32
    else
      let (m', e') := evenExp m e
      let n := m' * 2 ^ 64
      let r := isqrt n
      roundTo .fp32 .toInf false (2 * r + (if r * r == n then 0 else 1)) 1 (e' / 2 - 33)

/-- FRSQ of R106 at order 0. -/
def frsqVal (a : Val) : Fres :=
  match a with
  | .nan => nanRes .fp32
  | .inf s => if s then invalidRes .fp32 else ⟨0, 0⟩
  | .fin s m e =>
    if m == 0 then ⟨signed .fp32 s Fmt.fp32.infCode, flagDivZero⟩
    else if s then invalidRes .fp32
    else
      let (m', e') := evenExp m e
      let n := 2 ^ 160
      let r := isqrt (n / m')
      roundTo .fp32 .toInf false (2 * r + (if r * r * m' == n then 0 else 1)) 1 (-(e' / 2) - 81)

/-! Comparison and selection. -/

/-- Order of two values that are no NaN, as integers over a common scale; infinities beyond every finite value. -/
def cmpVal (a b : Val) : Ordering :=
  match a, b with
  | .inf s, .inf s' => if s == s' then .eq else if s then .lt else .gt
  | .inf s, _ => if s then .lt else .gt
  | _, .inf s' => if s' then .gt else .lt
  | .fin s m e, .fin s' m' e' =>
    let k := if e < e' then e else e'
    let x : Int := (m * 2 ^ (e - k).toNat : Nat)
    let y : Int := (m' * 2 ^ (e' - k).toNat : Nat)
    compare (if s then -x else x) (if s' then -y else y)
  | _, _ => .eq

/-- Key of R75: the total order of FP32 patterns with −0 below +0. -/
def fpKey (x : BitVec 32) : Nat := if x.getLsbD 31 then (~~~x).toNat else (x ||| 0x80000000#32).toNat

/-- Is an FP32 pattern a NaN. -/
def isNan32 (x : BitVec 32) : Bool := (val32 x).isNan

/-- FMIN and FMAX of R103: which operand is delivered. -/
inductive Choice where
  | left | right | defaultNan
  deriving DecidableEq, Repr

/-- The choice of R103; `hi` for FMAX. -/
def chooseFp (hi : Bool) (a b : BitVec 32) : Choice :=
  match isNan32 a, isNan32 b with
  | true, true => .defaultNan
  | true, false => .right
  | false, true => .left
  | false, false =>
    if hi then (if fpKey a < fpKey b then .right else .left)
    else (if fpKey b < fpKey a then .right else .left)

/-- FMIN or FMAX of single values (R103). -/
def fminmax (hi : Bool) (a b : BitVec 32) : BitVec 32 :=
  match chooseFp hi a b with
  | .left => a
  | .right => b
  | .defaultNan => 0x7FC00000

/-! Conversions (R64, R110 to R113). -/

/-- An integer to FP32, RNE. -/
def intToFp (neg : Bool) (m : Nat) : Fres := roundVal .fp32 .toInf (.fin (neg && m != 0) m 0)

/-- The integer part of a finite magnitude in a mode, and whether a fraction was dropped. -/
def integralOf (mode : Mode) (neg : Bool) (m : Nat) (e : Int) : Nat × Bool :=
  let (t, exact) := roundAt mode neg m 1 e 0
  (t, !exact)

/-- FP32 to i32 or n32: truncation, saturation with invalid, inexact when a fraction is dropped (R64, R111) (DEDUCED, log 21). -/
def fpToInt (isSigned : Bool) (a : BitVec 32) : BitVec 32 × Flags5 :=
  let top : BitVec 32 := if isSigned then 0x7FFFFFFF else 0xFFFFFFFF
  let bot : BitVec 32 := if isSigned then 0x80000000 else 0
  match val32 a with
  | .nan => (0, flagInvalid)
  | .inf s => (if s then bot else top, flagInvalid)
  | .fin s m e =>
    let (t, frac) := integralOf .rtz s m e
    let lim : Nat := if s then (if isSigned then 2 ^ 31 else 0) else (if isSigned then 2 ^ 31 - 1 else 2 ^ 32 - 1)
    if lim < t then (if s then bot else top, flagInvalid)
    else (if s then 0 - BitVec.ofNat 32 t else BitVec.ofNat 32 t, if frac then flagInexact else 0)

/-- FRND (R110): integral value in a mode, a zero keeping the sign of the operand; no flag. -/
def frnd (mode : Mode) (a : BitVec 32) : BitVec 32 :=
  match val32 a with
  | .nan => 0x7FC00000
  | .inf _ => a
  | .fin s m e =>
    let (t, _) := integralOf mode s m e
    BitVec.ofNat 32 (roundVal .fp32 .toInf (.fin s t 0)).bits

/-- A pattern of a narrow format widened exactly to FP32 (R112, R113). -/
def widen (f : Fmt) (bits : Nat) : BitVec 32 := BitVec.ofNat 32 (roundVal .fp32 .toInf (decodeFp f bits)).bits

/-- An FP32 pattern rounded to BF16 or FP16 (R112). -/
def packTo (f : Fmt) (a : BitVec 32) : Fres := roundVal f .toInf (val32 a)

/-- The saturating conversion of R65. -/
def packSat (f : Fmt) (a : BitVec 32) : Fres := roundVal f .saturate (val32 a)

/-! Scaled elements (R67, R68). -/

/-- An E8M0 scale (R67): 2^(x−127), or NaN for 0xFF. -/
def e8m0 (x : Nat) : Val := if x % 256 == 255 then .nan else .fin false 1 ((x % 256 : Nat) - 127)

/-- An element times its E8M0 scale (R67). -/
def mxScaled (v : Val) (x : Nat) : Val :=
  match e8m0 x, v with
  | .fin _ _ k, .fin s m e => .fin s m (e + k)
  | .fin _ _ _, .inf s => .inf s
  | _, _ => .nan

/-- An element times its scaled-8 scale byte (R68). -/
def s8Scaled (v : Val) (c : Nat) : Val :=
  let c := c % 256
  if 0x7F ≤ c then .nan
  else
    match decodeFp .e4m3 c, v with
    | .fin _ k ke, .fin s m e => .fin s (m * k) (e + ke)
    | .fin _ k _, .inf s => if k == 0 then .nan else .inf s
    | _, _ => .nan

end Sys2Proof.Machine
end

