-- ==== Sys2Proof/Syntax.lean ====
section
/-!
DEFINITION. The steps of the Gymir 7424 as syntax: operand forms (R33, R34, R38) and the one inductive `Instr`.
-/
namespace Sys2Proof

/-- Number of a lane register v0 to v63. -/
abbrev VReg := BitVec 6
/-- Number of a uniform register s0 to s63. -/
abbrev SReg := BitVec 6
/-- Number of a predicate p0 to p7. -/
abbrev PReg := BitVec 3
/-- Number of a shared register g0 to g15. -/
abbrev GReg := BitVec 4
/-- A store or join colour (R132). -/
abbrev Colour := BitVec 3

/-- Selector of a source field (R34). -/
inductive Sel where
  | own | slot1 | slot2 | uni
  deriving DecidableEq, Repr

/-- An 8-bit source field (R34). -/
structure Src where
  sel : Sel
  reg : BitVec 6
  deriving DecidableEq, Repr

/-- Target operand of JMPI and CALLI (R151). -/
inductive Target where
  | pair (v : VReg)
  | uni (s : SReg)
  deriving DecidableEq, Repr

/-- Conditions of ICMPI and SCMP (R95, R178). -/
inductive Cond where
  | eq | ne | ltS | leS | gtS | geS | ltN | geN
  deriving DecidableEq, Repr

/-- Conditions of UBR (R180). -/
inductive UbrCond where
  | always | zero | nonzero | negative | nonNegative | positive | nonPositive
  deriving DecidableEq, Repr

/-- Sizes of the LM format (R33). -/
inductive Size where
  | b8 | b16 | b32 | b64 | b128 | b256
  deriving DecidableEq, Repr

/-- Placement hints of LD.G (R131). -/
inductive Hint where
  | normal | stream | ro | nocc
  deriving DecidableEq, Repr

/-- Orderings of atomics (R143). -/
inductive Order where
  | rlx | acq | rel | ar
  deriving DecidableEq, Repr

/-- Width of an atomic (R40). -/
inductive AtomWidth where
  | w32 | w64
  deriving DecidableEq, Repr

/-- Sizes of QPOP and QPUSH (R144). -/
inductive QSize where
  | q32 | q64 | q128
  deriving DecidableEq, Repr

/-- The loop counters lc0 to lc2 (R152). -/
inductive LoopCounter where
  | lc0 | lc1 | lc2
  deriving DecidableEq, Repr

/-- Scopes, narrowest first (R147). -/
inductive Scope where
  | team | wg | cluster | die | module | system
  deriving DecidableEq, Repr

/-- Fence kinds (R147). -/
inductive FenceKind where
  | rel | acq | ar | sc
  deriving DecidableEq, Repr

/-- Operand types of MMA (R159). -/
inductive MmaType where
  | bf16 | f16 | e4m3 | e5m2 | mxE4m3 | mxE5m2 | mxfp4 | s8E4m3 | s8E5m2
  deriving DecidableEq, Repr

/-- Jet orders 0, 1, 3 and 7 (R77). -/
inductive JetOrder where
  | k0 | k1 | k3 | k7
  deriving DecidableEq, Repr

/-- The engines a context can drive (R192). -/
inductive Engine where
  | copy | gather | collective
  deriving DecidableEq, Repr

/-- Levels of CMO (R197). -/
inductive CmoLevel where
  | cluster | l2 | both
  deriving DecidableEq, Repr

/-- Mode codes of BANKMODE; 3 names no mode: the word is a non-instruction (R41, R44), and the meaning answers it BADARG (R199). -/
inductive BankMode where
  | cache | scratch | fifo | unnamed
  deriving DecidableEq, Repr

/-- Levels of CANCEL (R293). -/
inductive CancelLevel where
  | launch | graph | phase | job
  deriving DecidableEq, Repr

/-- The three bound registers of a range (R325). -/
inductive RangeBound where
  | base | lim | off
  deriving DecidableEq, Repr

/-- SPDM transports, in the order same-cycle requests are taken (R365, R367). -/
inductive Transport where
  | window | message | management
  deriving DecidableEq, Repr

/-- Where a tagged message comes from: a message in flight on an edge link, named by its place among those in flight,
or 256 bytes written to the message inbox of the Cheram Link window under the given session (R356, R358). -/
inductive MsgSource where
  | inFlight (n : Nat)
  | inbox (session : Nat) (payload : BitVec 2048)
  deriving DecidableEq, Repr

/-- What a soft error is found in (R236, R237) (DEDUCED, log 68). -/
inductive SoftError where
  /-- A single-bit error that SECDED corrects, in a part of the die. -/
  | corrected (die : Nat)
  /-- A clean word of a cluster cache or the read-only path, dropped and fetched again. -/
  | refetched (die cluster : Nat) (addr : Nat)
  /-- A dirty or only copy is lost: the 64-bit word of memory at this key is poisoned. -/
  | poisonMemory (addr : Nat)
  /-- An uncorrectable error in a lane register of a thread. -/
  | poisonRegister (wg team lane : Nat) (reg : VReg)
  /-- An uncorrectable error in a uniform register of a team. -/
  | poisonUniform (wg team : Nat) (reg : SReg)
  /-- An uncorrectable error in a shared register of a workgroup. -/
  | poisonShared (wg : Nat) (reg : GReg)
  /-- An uncorrectable error in the scratch of a workgroup: the 64-bit word of this number. -/
  | poisonScratch (wg word : Nat)
  /-- An uncorrectable error in a filled slot of a FIFO queue, counted from the oldest. -/
  | poisonSlot (wg : Nat) (q : BitVec 4) (slot : Nat)
  /-- A parity error in a translation-cache line drops the line. -/
  | translation (n : Nat)
  deriving DecidableEq, Repr

/-- The part a targeted test has tested, and what it found (R361, R362). -/
inductive TestedPart where
  | bankRow (die cluster bank : Nat) (pass : Bool)
  | sliceRow (die slice : Nat) (pass : Bool)
  /-- A margin test of a port; each bit of `failedLanes` is an eighth of its lanes. -/
  | port (die : Nat) (port : BitVec 2) (failedLanes : BitVec 8)
  | registerFile (die core : Nat) (pass : Bool)
  | readOnlyRow (die cluster : Nat) (pass : Bool)
  | translationRow (die cluster : Nat) (pass : Bool)
  deriving DecidableEq, Repr

/-- What bring-up finds (R382): the dies whose firmware verifies, for each the ports that train and their width code, and
the cores, the banks (die, cluster, bank) and the memory that fail self-test: HBM stacks 0 and 1, the LP tier as 2. -/
structure BootOutcome where
  verified : BitVec 24
  ports : List (BitVec 12)
  failedCores : List (Nat × Nat)
  failedBanks : List (Nat × Nat × Nat)
  failedMemory : List (Nat × Nat)
  deriving DecidableEq, Repr

/-- What a KEY_EXCHANGE brings: the slot that signs, the requester's nonce and its exchange data (R365). -/
structure KeyExchangeReq where
  slot : BitVec 3
  nonce : BitVec 256
  exchange : List (BitVec 8)
  deriving DecidableEq, Repr

/-- The session that a configuration request travels in, its sequence number and its MAC (R384). -/
structure CfgHeader where
  session : Nat
  seq : BitVec 64
  mac : BitVec 128
  deriving DecidableEq, Repr

/-- One initial mapping of CONFIGURE: IA page, frame or host page, and the HOST bit (R386). -/
structure CfgMapping where
  iaPage : BitVec 36
  frame : BitVec 36
  host : Bool
  deriving DecidableEq, Repr

/-- An initial operator context of CONFIGURE: handle, placement descriptor and range images (R386). -/
structure CfgContext where
  handle : BitVec 32
  descriptor : BitVec 2048
  ranges : List (BitVec 256)
  deriving DecidableEq, Repr

/-- What CONFIGURE asks for on one die of its mask (R386). -/
structure CfgDie where
  ptroot : BitVec 64
  tableBase : BitVec 36
  tablePages : Nat
  mappings : List CfgMapping
  context : Option CfgContext
  deriving DecidableEq, Repr

/-- The body of a CONFIGURE request (R386). -/
structure ConfigureReq where
  part : Nat
  mask : BitVec 24
  world : BitVec 16
  rank : BitVec 4
  cap : BitVec 16
  quant : BitVec 16
  dies : List CfgDie
  deriving DecidableEq, Repr

/-- Every step of spec/opcode_table.json: the Diune instructions (spec/02, R40 to R42), and the
further steps of the device, each with the operands that say what it acts on. The switch marker M belongs to the word,
non-instructions included (R26, R30, R47), and is read by `wM`. The order of the constructors has no meaning. -/
inductive Instr where
  /-- IADD (R92). -/
  | iadd (d : VReg) (a : Src) (b : Src)
  /-- ISUB (R92). -/
  | isub (d : VReg) (a : Src) (b : Src)
  /-- IMIN_S (R92). -/
  | iminS (d : VReg) (a : Src) (b : Src)
  /-- IMAX_S (R92). -/
  | imaxS (d : VReg) (a : Src) (b : Src)
  /-- IMIN_N (R92). -/
  | iminN (d : VReg) (a : Src) (b : Src)
  /-- IMAX_N (R92). -/
  | imaxN (d : VReg) (a : Src) (b : Src)
  /-- IABSD (R92). -/
  | iabsd (d : VReg) (a : Src) (b : Src)
  /-- IPOPC (R92). -/
  | ipopc (d : VReg) (a : Src)
  /-- IAND (R92). -/
  | iand (d : VReg) (a : Src) (b : Src)
  /-- IOR (R92). -/
  | ior (d : VReg) (a : Src) (b : Src)
  /-- IXOR (R92). -/
  | ixor (d : VReg) (a : Src) (b : Src)
  /-- IANDN (R92). -/
  | iandn (d : VReg) (a : Src) (b : Src)
  /-- ISHL (R92). -/
  | ishl (d : VReg) (a : Src) (b : Src)
  /-- ISHR (R92). -/
  | ishr (d : VReg) (a : Src) (b : Src)
  /-- ISAR (R92). -/
  | isar (d : VReg) (a : Src) (b : Src)
  /-- IROT (R92). -/
  | irot (d : VReg) (a : Src) (b : Src)
  /-- IMUL (R92). -/
  | imul (d : VReg) (a : Src) (b : Src)
  /-- IMULHI_S (R92). -/
  | imulhiS (d : VReg) (a : Src) (b : Src)
  /-- IMULHI_N (R92). -/
  | imulhiN (d : VReg) (a : Src) (b : Src)
  /-- IMAD (R92). -/
  | imad (d : VReg) (a : Src) (b : Src)
  /-- ICLZ (R92). -/
  | iclz (d : VReg) (a : Src)
  /-- IBREV (R92). -/
  | ibrev (d : VReg) (a : Src)
  /-- IBFX (R93). -/
  | ibfx (d : VReg) (a : Src) (b : Src)
  /-- IBFI (R93). -/
  | ibfi (d : VReg) (a : Src) (b : Src)
  /-- ICMP_S_EQ (R94). -/
  | icmpSEq (p : PReg) (a : Src) (b : Src)
  /-- ICMP_S_NE (R94). -/
  | icmpSNe (p : PReg) (a : Src) (b : Src)
  /-- ICMP_S_LT (R94). -/
  | icmpSLt (p : PReg) (a : Src) (b : Src)
  /-- ICMP_S_LE (R94). -/
  | icmpSLe (p : PReg) (a : Src) (b : Src)
  /-- ICMP_N_EQ (R94). -/
  | icmpNEq (p : PReg) (a : Src) (b : Src)
  /-- ICMP_N_NE (R94). -/
  | icmpNNe (p : PReg) (a : Src) (b : Src)
  /-- ICMP_N_LT (R94). -/
  | icmpNLt (p : PReg) (a : Src) (b : Src)
  /-- ICMP_N_LE (R94). -/
  | icmpNLe (p : PReg) (a : Src) (b : Src)
  /-- PSUB (R96). -/
  | psub (d : VReg) (a : Src) (b : Src) (g : BitVec 2)
  /-- PADD (R96). -/
  | padd (d : VReg) (a : Src) (b : Src) (g : BitVec 2)
  /-- PMOV (R96). -/
  | pmov (d : VReg) (a : Src) (b : Src) (g : BitVec 2)
  /-- PAND (R97). -/
  | pand (d : PReg) (a : PReg) (b : PReg)
  /-- POR (R97). -/
  | por (d : PReg) (a : PReg) (b : PReg)
  /-- PXOR (R97). -/
  | pxor (d : PReg) (a : PReg) (b : PReg)
  /-- PANDN (R97). -/
  | pandn (d : PReg) (a : PReg) (b : PReg)
  /-- IADDI (R98). -/
  | iaddi (d : VReg) (a : Src) (i : BitVec 10)
  /-- IANDI (R98). -/
  | iandi (d : VReg) (a : Src) (i : BitVec 10)
  /-- ISHLI (R98). -/
  | ishli (d : VReg) (a : Src) (n : BitVec 5)
  /-- ISHRI (R98). -/
  | ishri (d : VReg) (a : Src) (n : BitVec 5)
  /-- ISARI (R98). -/
  | isari (d : VReg) (a : Src) (n : BitVec 5)
  /-- IROTI (R98). -/
  | iroti (d : VReg) (a : Src) (n : BitVec 5)
  /-- ICMPI (R95). -/
  | icmpi (c : Cond) (p : PReg) (a : Src) (i : BitVec 10)
  /-- MOVI (R98). -/
  | movi (d : VReg) (i : BitVec 18)
  /-- MOVHI (R98). -/
  | movhi (d : VReg) (i : BitVec 18)
  /-- SRD (R99). -/
  | srd (d : VReg) (i : BitVec 10)
  /-- TIDX (R101). -/
  | tidx (d : VReg) (a : Src) (b : SReg)
  /-- FADD (R102). -/
  | fadd (d : VReg) (a : Src) (b : Src)
  /-- FSUB (R102). -/
  | fsub (d : VReg) (a : Src) (b : Src)
  /-- FMUL (R102). -/
  | fmul (d : VReg) (a : Src) (b : Src)
  /-- FFMA (R102). -/
  | ffma (d : VReg) (a : Src) (b : Src)
  /-- FMIN (R103). -/
  | fmin (d : VReg) (a : Src) (b : Src)
  /-- FMAX (R103). -/
  | fmax (d : VReg) (a : Src) (b : Src)
  /-- FFMSUB (R102). -/
  | ffmsub (d : VReg) (a : Src) (b : Src)
  /-- FFNMA (R102). -/
  | ffnma (d : VReg) (a : Src) (b : Src)
  /-- FABS (R104). -/
  | fabs (d : VReg) (a : Src)
  /-- FNEG (R104). -/
  | fneg (d : VReg) (a : Src)
  /-- FCPSGN (R104). -/
  | fcpsgn (d : VReg) (a : Src) (b : Src)
  /-- FNABS (R104). -/
  | fnabs (d : VReg) (a : Src)
  /-- FCMP_EQ (R105). -/
  | fcmpEq (p : PReg) (a : Src) (b : Src)
  /-- FCMP_LT (R105). -/
  | fcmpLt (p : PReg) (a : Src) (b : Src)
  /-- FCMP_LE (R105). -/
  | fcmpLe (p : PReg) (a : Src) (b : Src)
  /-- FCMP_UNORD (R105). -/
  | fcmpUnord (p : PReg) (a : Src) (b : Src)
  /-- FDIV (R106). -/
  | fdiv (d : VReg) (a : Src) (b : Src)
  /-- FSQRT (R106). -/
  | fsqrt (d : VReg) (a : Src)
  /-- FRCP (R106). -/
  | frcp (d : VReg) (a : Src)
  /-- FRSQ (R106). -/
  | frsq (d : VReg) (a : Src)
  /-- FEXP2 (R107). -/
  | fexp2 (d : VReg) (a : Src)
  /-- FLOG2 (R107). -/
  | flog2 (d : VReg) (a : Src)
  /-- FTANH (R107). -/
  | ftanh (d : VReg) (a : Src)
  /-- FSIGM (R107). -/
  | fsigm (d : VReg) (a : Src)
  /-- FSIN (R107). -/
  | fsin (d : VReg) (a : Src)
  /-- FCOS (R107). -/
  | fcos (d : VReg) (a : Src)
  /-- FSINT (R108). -/
  | fsint (d : VReg) (a : Src)
  /-- FCOST (R108). -/
  | fcost (d : VReg) (a : Src)
  /-- FRND_RNE (R110). -/
  | frndRne (d : VReg) (a : Src)
  /-- FRND_RTZ (R110). -/
  | frndRtz (d : VReg) (a : Src)
  /-- FRND_FLOOR (R110). -/
  | frndFloor (d : VReg) (a : Src)
  /-- FRND_CEIL (R110). -/
  | frndCeil (d : VReg) (a : Src)
  /-- CVT_F32_I32 (R111). -/
  | cvtF32I32 (d : VReg) (a : Src)
  /-- CVT_F32_N32 (R111). -/
  | cvtF32N32 (d : VReg) (a : Src)
  /-- CVT_I32_F32 (R111). -/
  | cvtI32F32 (d : VReg) (a : Src)
  /-- CVT_N32_F32 (R111). -/
  | cvtN32F32 (d : VReg) (a : Src)
  /-- UNPK_BF16LO (R112). -/
  | unpkBf16lo (d : VReg) (a : Src)
  /-- UNPK_BF16HI (R112). -/
  | unpkBf16hi (d : VReg) (a : Src)
  /-- PACK_BF16 (R112). -/
  | packBf16 (d : VReg) (a : Src) (b : Src)
  /-- PACK_F16 (R112). -/
  | packF16 (d : VReg) (a : Src) (b : Src)
  /-- UNPK_E4M3 (R113). -/
  | unpkE4m3 (d : VReg) (a : Src)
  /-- UNPK_E5M2 (R113). -/
  | unpkE5m2 (d : VReg) (a : Src)
  /-- PK_E4M3 (R113). -/
  | pkE4m3 (d : VReg) (a : VReg)
  /-- PK_E5M2 (R113). -/
  | pkE5m2 (d : VReg) (a : VReg)
  /-- JSEED_SEED (R87). -/
  | jseedSeed (d : VReg) (a : Src) (b : Src)
  /-- JSEED_CONST (R87). -/
  | jseedConst (d : VReg) (a : Src)
  /-- JSEED_COPY (R87). -/
  | jseedCopy (d : VReg) (a : Src)
  /-- JGET (R87). -/
  | jget (d : VReg) (a : Src) (c : BitVec 3)
  /-- JPUT (R87). -/
  | jput (d : VReg) (a : Src) (c : BitVec 3)
  /-- JFLG_RD (R87). -/
  | jflgRd (d : VReg) (c : BitVec 3)
  /-- JFLG_RC (R87). -/
  | jflgRc (d : VReg) (c : BitVec 3)
  /-- JFLG_CLR (R87). -/
  | jflgClr (d : VReg) (c : BitVec 3)
  /-- BALLOT (R116). -/
  | ballot (d : VReg) (p : PReg)
  /-- ANY (R116). -/
  | any (d : VReg) (p : PReg)
  /-- ALL (R116). -/
  | all (d : VReg) (p : PReg)
  /-- COUNT (R116). -/
  | count (d : VReg) (p : PReg)
  /-- REDUX_IADD (R117). -/
  | reduxIadd (d : VReg) (a : Src)
  /-- REDUX_IMIN_S (R117). -/
  | reduxIminS (d : VReg) (a : Src)
  /-- REDUX_IMAX_S (R117). -/
  | reduxImaxS (d : VReg) (a : Src)
  /-- REDUX_OR (R117). -/
  | reduxOr (d : VReg) (a : Src)
  /-- SCAN_IADD (R118). -/
  | scanIadd (d : VReg) (a : Src)
  /-- SCAN_FADD (R118). -/
  | scanFadd (d : VReg) (a : Src)
  /-- SCAN_IMAX_S (R118). -/
  | scanImaxS (d : VReg) (a : Src)
  /-- SCAN_IADD_EXCL (R118). -/
  | scanIaddExcl (d : VReg) (a : Src)
  /-- LD_G (R131). -/
  | ldG (d : VReg) (x : VReg) (b : SReg) (c : Hint) (z : Size)
  /-- ST_G (R132). -/
  | stG (d : VReg) (x : VReg) (b : SReg) (c : Colour) (z : Size)
  /-- LD_S (R134). -/
  | ldS (d : VReg) (x : VReg) (b : SReg) (z : Size)
  /-- ST_S (R134). -/
  | stS (d : VReg) (x : VReg) (b : SReg) (c : Colour) (z : Size)
  /-- LDTH (R136). -/
  | ldth (d : VReg) (x : VReg) (b : SReg) (z : Size)
  /-- LJOIN (R138). -/
  | ljoin (d : VReg) (x : VReg) (b : SReg) (c : Colour) (z : Size)
  /-- ATOM_ADD (R140). -/
  | atomAdd (d : VReg) (x : VReg) (b : SReg) (o : Order) (w : AtomWidth)
  /-- ATOM_MIN_S (R140). -/
  | atomMinS (d : VReg) (x : VReg) (b : SReg) (o : Order) (w : AtomWidth)
  /-- ATOM_MAX_S (R140). -/
  | atomMaxS (d : VReg) (x : VReg) (b : SReg) (o : Order) (w : AtomWidth)
  /-- ATOM_MIN_N (R140). -/
  | atomMinN (d : VReg) (x : VReg) (b : SReg) (o : Order) (w : AtomWidth)
  /-- ATOM_MAX_N (R140). -/
  | atomMaxN (d : VReg) (x : VReg) (b : SReg) (o : Order) (w : AtomWidth)
  /-- ATOM_AND (R140). -/
  | atomAnd (d : VReg) (x : VReg) (b : SReg) (o : Order) (w : AtomWidth)
  /-- ATOM_OR (R140). -/
  | atomOr (d : VReg) (x : VReg) (b : SReg) (o : Order) (w : AtomWidth)
  /-- ATOM_XOR (R140). -/
  | atomXor (d : VReg) (x : VReg) (b : SReg) (o : Order) (w : AtomWidth)
  /-- ATOM_EXCH (R142). -/
  | atomExch (d : VReg) (x : VReg) (b : SReg) (o : Order) (w : AtomWidth)
  /-- ATOM_CAS (R142). -/
  | atomCas (d : VReg) (x : VReg) (b : SReg) (o : Order) (w : AtomWidth)
  /-- ATOM_FADD (R142). -/
  | atomFadd (d : VReg) (x : VReg) (b : SReg) (o : Order)
  /-- ATOM_FMAX (R142). -/
  | atomFmax (d : VReg) (x : VReg) (b : SReg) (o : Order)
  /-- QPOP (R144). -/
  | qpop (d : VReg) (t : Bool) (s : QSize) (q : BitVec 4)
  /-- QPUSH (R145). -/
  | qpush (d : VReg) (t : Bool) (s : QSize) (q : BitVec 4)
  /-- BR (R149). -/
  | br (p : PReg) (n : Bool) (i : BitVec 20)
  /-- CALL (R150). -/
  | call (i : BitVec 18)
  /-- JMPI (R151). -/
  | jmpi (a : Target)
  /-- CALLI (R151). -/
  | calli (a : Target)
  /-- LOOP (R152). -/
  | loop (a : Src) (c : LoopCounter) (i : BitVec 8)
  /-- TRAP (R154). -/
  | trap (i : BitVec 10)
  /-- BAR_ARRIVE (R155). -/
  | barArrive (b : BitVec 4)
  /-- BAR_WAIT (R155). -/
  | barWait (b : BitVec 4)
  /-- BAR_SYNC (R155). -/
  | barSync (b : BitVec 4)
  /-- FENCE (R147). -/
  | fence (c : BitVec 8) (s : Scope) (k : FenceKind) (r : Bool)
  /-- MMA_RR (R165). -/
  | mmaRr (d : VReg) (a : VReg) (b : VReg) (t : MmaType) (z : Bool)
  /-- MMA_RS (R165). -/
  | mmaRs (d : VReg) (a : VReg) (b : SReg) (t : MmaType) (z : Bool)
  /-- MMA_SS (R165). -/
  | mmaSs (d : VReg) (a : SReg) (b : SReg) (t : MmaType) (z : Bool)
  /-- MACC_ZERO (R172). -/
  | maccZero (d : VReg)
  /-- MACC_BF16 (R172). -/
  | maccBf16 (d : VReg) (a : VReg)
  /-- MACC_E4M3 (R172). -/
  | maccE4m3 (d : VReg) (a : VReg)
  /-- MACC_SCALE (R172). -/
  | maccScale (d : VReg) (b : SReg)
  /-- SADD (R177). -/
  | sadd (d : SReg) (a : SReg) (b : SReg)
  /-- SSUB (R177). -/
  | ssub (d : SReg) (a : SReg) (b : SReg)
  /-- SMUL (R177). -/
  | smul (d : SReg) (a : SReg) (b : SReg)
  /-- SMULHI_S (R177). -/
  | smulhiS (d : SReg) (a : SReg) (b : SReg)
  /-- SMULHI_N (R177). -/
  | smulhiN (d : SReg) (a : SReg) (b : SReg)
  /-- SAND (R177). -/
  | sand (d : SReg) (a : SReg) (b : SReg)
  /-- SOR (R177). -/
  | sor (d : SReg) (a : SReg) (b : SReg)
  /-- SXOR (R177). -/
  | sxor (d : SReg) (a : SReg) (b : SReg)
  /-- SANDN (R177). -/
  | sandn (d : SReg) (a : SReg) (b : SReg)
  /-- SSHLV (R177). -/
  | sshlv (d : SReg) (a : SReg) (b : SReg)
  /-- SSHRV (R177). -/
  | sshrv (d : SReg) (a : SReg) (b : SReg)
  /-- SSARV (R177). -/
  | ssarv (d : SReg) (a : SReg) (b : SReg)
  /-- SMIN_S (R177). -/
  | sminS (d : SReg) (a : SReg) (b : SReg)
  /-- SMAX_S (R177). -/
  | smaxS (d : SReg) (a : SReg) (b : SReg)
  /-- SMIN_N (R177). -/
  | sminN (d : SReg) (a : SReg) (b : SReg)
  /-- SMAX_N (R177). -/
  | smaxN (d : SReg) (a : SReg) (b : SReg)
  /-- SCLZ (R177). -/
  | sclz (d : SReg) (a : SReg)
  /-- SPOPC (R177). -/
  | spopc (d : SReg) (a : SReg)
  /-- SROTV (R177). -/
  | srotv (d : SReg) (a : SReg) (b : SReg)
  /-- SCTZ (R177). -/
  | sctz (d : SReg) (a : SReg)
  /-- SBREV (R177). -/
  | sbrev (d : SReg) (a : SReg)
  /-- SMOV (R177). -/
  | smov (d : SReg) (a : SReg)
  /-- SCMP (R178). -/
  | scmp (d : SReg) (a : SReg) (b : SReg) (c : Cond)
  /-- SADDI (R179). -/
  | saddi (d : SReg) (a : SReg) (i : BitVec 12)
  /-- SANDI (R179). -/
  | sandi (d : SReg) (a : SReg) (i : BitVec 12)
  /-- SORI (R179). -/
  | sori (d : SReg) (a : SReg) (i : BitVec 12)
  /-- SSHLI (R179). -/
  | sshli (d : SReg) (a : SReg) (n : BitVec 6)
  /-- SSHRI (R179). -/
  | sshri (d : SReg) (a : SReg) (n : BitVec 6)
  /-- SSARI (R179). -/
  | ssari (d : SReg) (a : SReg) (n : BitVec 6)
  /-- SROTI (R179). -/
  | sroti (d : SReg) (a : SReg) (n : BitVec 6)
  /-- SMOVI (R39). -/
  | smovi (d : SReg) (i : BitVec 18)
  /-- SLIT_A (R39). -/
  | slitA (d : SReg) (i : BitVec 18)
  /-- SLIT_B (R39). -/
  | slitB (d : SReg) (i : BitVec 18)
  /-- SLIT_C (R39). -/
  | slitC (d : SReg) (i : BitVec 18)
  /-- SRDS (R181). -/
  | srds (d : SReg) (i : BitVec 12)
  /-- SWRS (R181). -/
  | swrs (d : SReg) (a : SReg) (i : BitVec 12)
  /-- UBR (R180). -/
  | ubr (a : SReg) (c : UbrCond) (i : BitVec 15)
  /-- SLD (R184). -/
  | sld (d : SReg) (a : SReg) (i : BitVec 12)
  /-- SST (R184). -/
  | sst (a : SReg) (b : SReg) (o : BitVec 9) (c : Colour)
  /-- SATOM_ADD (R185). -/
  | satomAdd (d : SReg) (a : SReg) (o : Order)
  /-- SATOM_MIN_S (R185). -/
  | satomMinS (d : SReg) (a : SReg) (o : Order)
  /-- SATOM_MAX_S (R185). -/
  | satomMaxS (d : SReg) (a : SReg) (o : Order)
  /-- SATOM_MIN_N (R185). -/
  | satomMinN (d : SReg) (a : SReg) (o : Order)
  /-- SATOM_MAX_N (R185). -/
  | satomMaxN (d : SReg) (a : SReg) (o : Order)
  /-- SATOM_AND (R185). -/
  | satomAnd (d : SReg) (a : SReg) (o : Order)
  /-- SATOM_OR (R185). -/
  | satomOr (d : SReg) (a : SReg) (o : Order)
  /-- SATOM_XOR (R185). -/
  | satomXor (d : SReg) (a : SReg) (o : Order)
  /-- SATOM_EXCH (R185). -/
  | satomExch (d : SReg) (a : SReg) (o : Order)
  /-- SATOM_CAS (R185). -/
  | satomCas (d : SReg) (a : SReg) (b : SReg) (o : Order)
  /-- XPAT (R186). -/
  | xpat (a : SReg)
  /-- JORD (R77). -/
  | jord (j : JetOrder)
  /-- TFETCH (R187). -/
  | tfetch (d : SReg)
  /-- TFETCH_B (R187). -/
  | tfetchB (d : SReg) (a : SReg)
  /-- TFETCH_R (R187). -/
  | tfetchR (d : SReg)
  /-- SHPSET (R188). -/
  | shpset (a : SReg) (e : BitVec 5)
  /-- XGIVE (R189). -/
  | xgive (a : SReg)
  /-- XTAKE (R189). -/
  | xtake (d : SReg)
  /-- BARSET (R190). -/
  | barset (a : SReg) (i : BitVec 4)
  /-- ETAIL (R195). -/
  | etail (a : SReg) (e : Engine)
  /-- EWAIT (R196). -/
  | ewait (d : SReg) (a : SReg) (e : Engine)
  /-- CMO_CLEAN (R197). -/
  | cmoClean (a : SReg) (b : SReg) (l : CmoLevel)
  /-- CMO_INVALIDATE (R197). -/
  | cmoInvalidate (a : SReg) (b : SReg) (l : CmoLevel)
  /-- CMO_CLEAN_INVALIDATE (R197). -/
  | cmoCleanInvalidate (a : SReg) (b : SReg) (l : CmoLevel)
  /-- TINV (R198). -/
  | tinv (d : SReg) (a : SReg) (b : SReg)
  /-- BANKMODE (R199). -/
  | bankmode (d : SReg) (a : SReg) (o : BankMode)
  /-- QOPEN (R200). -/
  | qopen (d : SReg) (a : SReg) (q : BitVec 4)
  /-- QCLOSE (R200). -/
  | qclose (d : SReg) (a : SReg) (q : BitVec 4)
  /-- QTRY (R200). -/
  | qtry (d : SReg) (q : BitVec 4)
  /-- ARM (R295). -/
  | arm (d : SReg) (a : SReg) (i : BitVec 12)
  /-- LAUNCH (R285). -/
  | launch (d : SReg) (a : SReg)
  /-- CANCEL (R293). -/
  | cancel (d : SReg) (a : SReg) (l : CancelLevel)
  /-- FRPT (R204). -/
  | frpt (d : SReg) (a : SReg) (c : BitVec 3)
  /-- FOPR (R204). -/
  | fopr (d : SReg) (a : SReg) (c : BitVec 1)
  /-- PLACE (R205). -/
  | place (d : SReg) (a : SReg) (b : SReg)
  /-- UNPLACE (R205). -/
  | unplace (d : SReg) (a : SReg)
  /-- PREEMPT (R206). -/
  | preempt (d : SReg) (a : SReg) (b : SReg) (c : BitVec 6)
  /-- MIGRATE (R342). -/
  | migrate (d : SReg) (a : SReg) (b : SReg)
  /-- RESUME (R343). -/
  | resume (d : SReg) (a : SReg) (b : SReg)
  /-- CRESET (R208). -/
  | creset (d : SReg) (a : SReg)
  /-- MAPSYNC (R209). -/
  | mapsync (d : SReg) (a : SReg) (b : SReg)
  /-- CNTRD (R210). -/
  | cntrd (d : SReg) (i : BitVec 12)
  /-- CNTCFG (R210). -/
  | cntcfg (d : SReg) (a : SReg) (b : SReg)
  /-- STRAP (R202). -/
  | strap (a : SReg) (c : BitVec 4)
  /-- DBG_HALT (R211). -/
  | dbgHalt (d : SReg) (a : SReg) (b : SReg)
  /-- DBG_STEP (R211). -/
  | dbgStep (d : SReg) (a : SReg) (b : SReg)
  /-- DBG_STEPALL (R211). -/
  | dbgStepall (d : SReg) (a : SReg) (b : SReg)
  /-- DBG_CONT (R211). -/
  | dbgCont (d : SReg) (a : SReg) (b : SReg)
  /-- DBG_RDSEL (R211). -/
  | dbgRdsel (d : SReg) (a : SReg) (b : SReg)
  /-- GRD (R191). -/
  | grd (d : SReg) (g : GReg)
  /-- GWR (R191). -/
  | gwr (d : SReg) (a : SReg) (g : GReg)
  /-- GADD (R191). -/
  | gadd (d : SReg) (a : SReg) (g : GReg)
  /-- GXCH (R191). -/
  | gxch (d : SReg) (a : SReg) (g : GReg)
  /-- LDK (R212). -/
  | ldk (d : SReg) (a : SReg) (p : BitVec 1)
  /-- RET (R151). -/
  | ret
  /-- EXIT (R153). -/
  | exit
  /-- BRK (R153). -/
  | brk
  /-- YIELD (R153). -/
  | yield
  /-- NOP (R153). -/
  | nop
  /-- XACQ (R189). -/
  | xacq
  /-- XREL (R189). -/
  | xrel
  /-- TRET (R203). -/
  | tret
  /-- RESULT_RETURN (R28): the results of issue id return to their registers. -/
  | resultReturn (id : Nat)
  /-- VERDICT_ARRIVAL (R125): the memory side answers the access of issue id. -/
  | verdictArrival (id : Nat)
  /-- REGION_COMMIT (R313): the region of the access of issue id commits. -/
  | regionCommit (id : Nat)
  /-- TRAP_DELIVERY (R203): the trap a thread has raised is delivered. -/
  | trapDelivery (wg : Nat) (team : Nat) (lane : Nat)
  /-- RENDEZVOUS_COMPLETE (R36): the members standing at pc execute their cross-lane instruction. -/
  | rendezvousComplete (wg : Nat) (team : Nat) (pc : BitVec 64)
  /-- HELD_ACCESS_REISSUE (R126): a held access, fetch or scratch access is tried again. -/
  | heldAccessReissue (id : Nat)
  /-- SIDE_LOG_REPLAY (R127): the oldest replayable side-log entry of a core replays. -/
  | sideLogReplay (die : Nat) (core : Nat)
  /-- TWILL_TRANSLATION (R316): Twill translates the function that holds pc. -/
  | twillTranslation (wg : Nat) (team : Nat) (pc : BitVec 64)
  /-- BLOCK_GRANT (R12): the first waiting XACQ or XTAKE receives a block. -/
  | blockGrant (die : Nat) (core : Nat)
  /-- WORKGROUP_END (R215): a workgroup whose teams have ended returns its resources. -/
  | workgroupEnd (wg : Nat)
  /-- LAUNCH_COMPLETION (R291): the completion of a held record is written. -/
  | launchCompletion (rec : Nat)
  /-- LAUNCH_START (R290): an accepted record starts. -/
  | launchStart (rec : Nat)
  /-- WORKGROUP_PLACEMENT (R214): the dispatcher places a workgroup on a logical core. -/
  | workgroupPlacement (rec : Nat) (core : Nat)
  /-- PHASE_START (R292): a phase reads its size word and selects a graph. -/
  | phaseStart (rec : Nat)
  /-- DOORBELL_WRITE (R284): a host agent writes a doorbell word. -/
  | doorbellWrite (die : Nat) (slot : BitVec 10) (value : BitVec 32)
  /-- TAGGED_MESSAGE (R358): a tagged message reaches a die. -/
  | taggedMessage (die : Nat) (src : MsgSource)
  /-- ENGINE_RECORD (R195): an engine works one record of its chain. -/
  | engineRecord (ctx : Nat) (die : Nat) (cluster : Nat) (e : Engine)
  /-- QUEUE_WAKE (R144): threads parked on a queue examine it again. -/
  | queueWake (wg : Nat) (q : BitVec 4)
  /-- LDTH_CELL_CHANGE (R136): a watched cell has changed. -/
  | ldthCellChange (id : Nat)
  /-- LDTH_POLL (R136): a polling LDTH looks at its cell again. -/
  | ldthPoll (id : Nat)
  /-- LDTH_WAIT_EXPIRY (R137): the wait limit of an LDTH has passed. -/
  | ldthWaitExpiry (id : Nat)
  /-- EWAIT_WAKE (R196): the engine an EWAIT waits on has moved. -/
  | ewaitWake (id : Nat)
  /-- EWAIT_WAIT_EXPIRY (R196): the wait limit of an EWAIT has passed. -/
  | ewaitWaitExpiry (id : Nat)
  /-- TOKEN_PASS (R169): a token held at a cluster passes on. -/
  | tokenPass (rec : Nat) (cluster : Nat)
  /-- LEASE_GRANT (R299): a waiting launch is granted its tokens. -/
  | leaseGrant (rec : Nat)
  /-- LEASE_QUANTUM_END (R299): the quantum of a lease ends. -/
  | leaseQuantumEnd (rec : Nat)
  /-- AGEING_TOP_PRIORITY (R218): the counter of a path reaches 1,024. -/
  | ageingTopPriority (wg : Nat) (team : Nat) (pc : BitVec 64)
  /-- PREEMPT_FREEZE (R339): the victim on a core freezes and the urgent workgroup starts. -/
  | preemptFreeze (die : Nat) (core : Nat)
  /-- EXCHANGE_BOUNDARY (R272): a boundary of an exchange entry falls. -/
  | exchangeBoundary (die : Nat) (entry : BitVec 3)
  /-- LINE_JOIN (R273): line n in flight reaches its receiver. -/
  | lineJoin (n : Nat)
  /-- HELD_LINE_JOIN (R274): held line n is tried again. -/
  | heldLineJoin (n : Nat)
  /-- SOFT_ERROR (R236): a soft error is found. -/
  | softError (err : SoftError)
  /-- TARGETED_TEST (R361): a targeted test completes. -/
  | targetedTest (test : TestedPart)
  /-- LINK_REPLAY (R354): a flit that FEC cannot correct is replayed. -/
  | linkReplay (die : Nat) (port : BitVec 2)
  /-- LINK_TRAIN_RETRY (R383): a down port tries to train. -/
  | linkTrainRetry (die : Nat) (port : BitVec 2) (trained : Bool)
  /-- MODULE_RESET_RELEASE (R382): every die brings itself up. -/
  | moduleResetRelease (boot : BootOutcome)
  /-- MODULE_POWER_OFF (R2): the power-on span ends. -/
  | modulePowerOff
  /-- UNIT_WAKE_SCRUB (R345): a scrub-pending unit wakes and is scrubbed. -/
  | unitWakeScrub (die : Nat) (cluster : Nat)
  /-- DRAIN_FRAME_COPY (R364): the drain of a die moves one frame, pauses or completes. -/
  | drainFrameCopy (die : Nat)
  /-- CAP_FRAME (R378): a UDP payload reaches port 4811. -/
  | capFrame (frame : BitVec 512)
  /-- GET_VERSION (R365): SPDM GET_VERSION. -/
  | getVersion (die : Nat) (t : Transport)
  /-- GET_CAPABILITIES (R365): SPDM GET_CAPABILITIES. -/
  | getCapabilities (die : Nat) (t : Transport)
  /-- NEGOTIATE_ALGORITHMS (R365): SPDM NEGOTIATE_ALGORITHMS. -/
  | negotiateAlgorithms (die : Nat) (t : Transport)
  /-- GET_DIGESTS (R365): SPDM GET_DIGESTS. -/
  | getDigests (die : Nat) (t : Transport)
  /-- GET_CERTIFICATE (R365): SPDM GET_CERTIFICATE. -/
  | getCertificate (die : Nat) (t : Transport) (slot : BitVec 3) (off : Nat) (len : Nat)
  /-- CHALLENGE (R367): SPDM CHALLENGE. -/
  | challenge (die : Nat) (t : Transport) (slot : BitVec 3) (nonce : BitVec 256)
  /-- GET_MEASUREMENTS (R366): SPDM GET_MEASUREMENTS, signed when slot and nonce are given. -/
  | getMeasurements (die : Nat) (t : Transport) (sign : Option (BitVec 3 × BitVec 256)) (index : BitVec 8)
  /-- KEY_EXCHANGE (R365): SPDM KEY_EXCHANGE. -/
  | keyExchange (die : Nat) (t : Transport) (req : KeyExchangeReq)
  /-- FINISH (R365): SPDM FINISH. -/
  | finish (die : Nat) (t : Transport) (session : Nat)
  /-- END_SESSION (R365): SPDM END_SESSION. -/
  | endSession (die : Nat) (t : Transport) (session : Nat)
  /-- SET_CERTIFICATE (R367): SPDM SET_CERTIFICATE. -/
  | setCertificate (die : Nat) (t : Transport) (session : Nat) (slot : BitVec 3) (chain : List (BitVec 8))
  /-- SPDM_UNSUPPORTED_REQUEST (R365): any other SPDM request. -/
  | spdmUnsupportedRequest (die : Nat) (t : Transport) (code : BitVec 8)
  /-- SPDM_RESPONSE_RELEASE (R368): the host writes zero to the response length. -/
  | spdmResponseRelease (die : Nat)
  /-- GET_TDISP_VERSION (R371): TDISP version request. -/
  | getTdispVersion (die : Nat) (session : Nat)
  /-- GET_TDISP_CAPABILITIES (R371): TDISP capabilities request. -/
  | getTdispCapabilities (die : Nat) (session : Nat)
  /-- LOCK_INTERFACE_REQUEST (R371): TDISP lock request. -/
  | lockInterfaceRequest (die : Nat) (session : Nat) (part : Nat)
  /-- GET_DEVICE_INTERFACE_REPORT (R374): TDISP report request. -/
  | getDeviceInterfaceReport (die : Nat) (session : Nat) (part : Nat) (off : Nat) (len : Nat)
  /-- GET_DEVICE_INTERFACE_STATE (R371): TDISP state request. -/
  | getDeviceInterfaceState (die : Nat) (session : Nat) (part : Nat)
  /-- START_INTERFACE_REQUEST (R371): TDISP start request. -/
  | startInterfaceRequest (die : Nat) (session : Nat) (part : Nat) (nonce : BitVec 256)
  /-- STOP_INTERFACE_REQUEST (R371): TDISP stop request. -/
  | stopInterfaceRequest (die : Nat) (session : Nat) (part : Nat)
  /-- TDISP_UNSUPPORTED_REQUEST (R371): any other TDISP request. -/
  | tdispUnsupportedRequest (die : Nat) (session : Nat) (code : BitVec 8)
  /-- SET_HALL_KEY (R385): configuration request 0x01. -/
  | setHallKey (h : CfgHeader) (key : BitVec 256)
  /-- CONFIGURE (R386): configuration request 0x02. -/
  | configure (h : CfgHeader) (req : ConfigureReq)
  /-- DISSOLVE (R387): configuration request 0x03. -/
  | dissolve (h : CfgHeader) (part : Nat)
  /-- QUERY (R385): configuration request 0x04. -/
  | query (h : CfgHeader)
  /-- SET_MGMT (R385): configuration request 0x05. -/
  | setMgmt (h : CfgHeader) (group : BitVec 128) (hall : BitVec 5)
  /-- CONFIG_UNSUPPORTED (R385): any other configuration request. -/
  | configUnsupported (h : CfgHeader) (code : BitVec 8)
  /-- FMTV_WRITE (R70): SWRS to FMTVn. -/
  | fmtvWrite (d : SReg) (a : SReg) (n : BitVec 3)
  /-- FMTH_WRITE (R70): SWRS to FMTHn. -/
  | fmthWrite (d : SReg) (a : SReg) (n : BitVec 3)
  /-- RATTR_WRITE (R326): SWRS to RATTRn. -/
  | rattrWrite (d : SReg) (a : SReg) (n : BitVec 4)
  /-- RANGE_BOUND_WRITE (R326): SWRS to RBASEn, RLIMn or ROFFn. -/
  | rangeBoundWrite (d : SReg) (a : SReg) (n : BitVec 4) (w : RangeBound)
  /-- WINDOW_WRITE (R327): SWRS to window index 0x060 + n. -/
  | windowWrite (d : SReg) (a : SReg) (n : BitVec 4)
  /-- ENGHEAD_WRITE (R194): SWRS to ENGHEADe. -/
  | engheadWrite (d : SReg) (a : SReg) (e : Engine)
  /-- ENGSEQA_WRITE (R194): SWRS to ENGSEQAe. -/
  | engseqaWrite (d : SReg) (a : SReg) (e : Engine)
  /-- XSCHED_WRITE (R271): SWRS to XSCHEDn. -/
  | xschedWrite (d : SReg) (a : SReg) (n : BitVec 3)
  /-- XBOUND_WRITE (R271): SWRS to XBOUND. -/
  | xboundWrite (d : SReg) (a : SReg)
  /-- XSTAT_READ (R270): SRDS of XSTAT. -/
  | xstatRead (d : SReg)
  /-- DIEMAP_WRITE (R351): SWRS to DIEMAPn. -/
  | diemapWrite (d : SReg) (a : SReg) (n : BitVec 5)
  /-- EXPB_WRITE (R352): SWRS to export index 0x090 + n. -/
  | expbWrite (d : SReg) (a : SReg) (n : BitVec 4)
  /-- PTROOT_WRITE (R328): SWRS to PTROOT. -/
  | ptrootWrite (d : SReg) (a : SReg)
  /-- PLPOL_WRITE (R340): SWRS to PLPOL. -/
  | plpolWrite (d : SReg) (a : SReg)
  /-- HALLKEY_WRITE (R376): SWRS to HALLKEYn. -/
  | hallkeyWrite (d : SReg) (a : SReg) (n : BitVec 2)
  /-- PCAP_WRITE (R376): SWRS to PCAP. -/
  | pcapWrite (d : SReg) (a : SReg)
  /-- DSTATE_WRITE (R363): SWRS to DSTATE. -/
  | dstateWrite (d : SReg) (a : SReg)
  /-- EVACHN_WRITE (R363): SWRS to EVACHN. -/
  | evachnWrite (d : SReg) (a : SReg)
  /-- CAPCAUSE_READ (R381): SRDS of CAPCAUSE. -/
  | capcauseRead (d : SReg)
  /-- WRITE_ACKNOWLEDGED (R148): a pending write is performed at its scope. -/
  | writeAcknowledged (n : Nat)
  /-- LINK_DOWN (R360): a port in service goes down. -/
  | linkDown (die : Nat) (port : BitVec 2)
  /-- DIE_LOST_WITHOUT_EVACUATION (R279): a die is lost. -/
  | dieLostWithoutEvacuation (die : Nat)
  /-- HBM_OR_FABRIC_TEST_FAILURE (R363): an HBM stack or the fabric of a die fails its test. -/
  | hbmOrFabricTestFailure (die : Nat)
  /-- THERMAL_PROTECTION (R380): a die reaches or leaves its junction limit. -/
  | thermalProtection (die : Nat) (reached : Bool)
  /-- ELECTRICAL_PROTECTION (R380): the module input reaches or leaves 9,000 W. -/
  | electricalProtection (reached : Bool)
  deriving DecidableEq, Repr

end Sys2Proof
end

