-- ==== Sys2Proof/Machine/State.lean ====
section
/-!
DEFINITION. The state of the module as plain data: every item of R6, of the register maps of spec/01 to spec/23, and
what the spec implies beside them (results outstanding, accesses in flight, lines and messages in flight). Fields that
are the model's own are marked so. Resets follow R382 and the register maps: `State.reset` is the module before its
reset is released.
-/
namespace Sys2Proof.Machine

/-! ## Threads -/

/-- The trap a thread has raised and not yet been delivered (R203). -/
structure TrapInfo where
  /-- TCAUSE code (R183). -/
  code : Nat
  /-- TRAP code of a user trap. -/
  ucode : Nat
  /-- Whether this thread is the one that stands for its group in the owner record (R174). -/
  lead : Bool
  /-- Lane the owner record names (R174, R333). -/
  recLane : Nat
  /-- Whether the owner records of this fault were already written per page (OWN, R128). -/
  recorded : Bool
  /-- Access of the fault: KIND, log2 size, VA and IA of R333; zero when there is none. -/
  kind : Nat
  size : Nat
  va : Nat
  ia : Nat
  /-- COLOUR and DATA of R333. -/
  colour : Nat
  data : Nat
  deriving DecidableEq, Repr

/-- What a thread takes with it into a rendezvous (R36, R78, R115, R186): the member mask, which is that of the first arrival
(DEDUCED, log 35), and, as they stood at its own issue, the jet order, the word, XPAT, and the lanes that its patterned
sources may read. -/
structure Meeting where
  mask : BitVec 64
  order : JetOrder
  word : BitVec 32
  xpat : BitVec 32
  cross : BitVec 64
  deriving DecidableEq, Repr

/-- What a parked thread waits for (R216). -/
inductive Wait where
  /-- A rendezvous of a cross-lane instruction or a collective: the thread has arrived. -/
  | rendezvous (k : Meeting)
  /-- A phase of a named barrier above this one (R155). -/
  | barrier (b phase : Nat)
  /-- A queue (R144, R145). -/
  | queue (q : Nat) (push : Bool)
  /-- An extended block (XACQ, XTAKE; R12). -/
  | block
  /-- XGIVE waits until the taking team holds and has reserved none (R189). -/
  | give (team : Nat)
  /-- Earlier writes or loads of the thread are not yet performed (FENCE, BAR arrival, releases; R148). -/
  | release
  /-- The scratch of a workgroup is not resident (R135). -/
  | scratch (id wgid : Nat)
  /-- Code words on an unpublished page (R126): the IA pages on which the translation has met PAGE so far, whose records are
  written. -/
  | fetch (id : Nat) (pages : List Nat)
  /-- A step that DBG asked for, or the verdict on code that LDK reads: given up at a pre-emption (R176). -/
  | percale
  /-- An operation of Percale that completes when other agents have done their part (MAPSYNC, MIGRATE, CRESET, TINV, a range
  register): a pre-emption leaves it outstanding, and its result lands in the frozen registers (R176, R297); `due` when Percale
  is to look again for a frozen thread. -/
  | service (due : Bool)
  deriving DecidableEq, Repr

/-- Where a thread stands (R216). -/
inductive Status where
  /-- It can issue, unless a marker parks it. -/
  | running
  | waiting (w : Wait)
  /-- An access of issue `id` has no verdict yet, or its region has not committed (R125, R313). -/
  | region (id : Nat)
  /-- An access of issue `id` is held on PAGE (R126). -/
  | held (id : Nat)
  /-- A trap has been raised and is not yet delivered (R203). -/
  | trapping (t : TrapInfo)
  /-- It has left (R153). -/
  | exited
  deriving DecidableEq, Repr

/-- A result outstanding in one thread (R28). -/
structure Out where
  /-- The issue it belongs to. -/
  id : Nat
  /-- Whether its value has been formed, so that it can return. -/
  ready : Bool
  /-- Destination lane registers and the values they receive. -/
  regs : List (Nat × BitVec 32)
  /-- p6, for LDTH and QPOP.try. -/
  p6 : Option Bool
  /-- Flags that merge into JST at return (R86). -/
  flags : BitVec 40
  deriving DecidableEq, Repr

/-- One thread (R6) (DEDUCED, log 3). -/
structure Thread where
  pc : BitVec 64
  /-- v0 to v63. -/
  v : Sparse 32
  /-- p0 to p7; bit 7 is p7 and reads one (R7). -/
  preds : BitVec 8
  /-- lc0 to lc2. -/
  lc : Sparse 32
  lr : BitVec 64
  jst : BitVec 40
  /-- TCAUSE as SRDS reads it: CODE, UCODE, INH (R183). -/
  tcause : BitVec 64
  tepc : BitVec 64
  /-- The bits [63:32] latched by the last CLKLO read (R99). -/
  clkhi : BitVec 32
  status : Status
  outs : List Out
  /-- Per barrier, one more than the phase of the last arrival; no entry when there was none (R155). -/
  arrived : Sparse 64
  /-- Lane registers whose word is poisoned (R237). -/
  poison : List Nat
  /-- The model's own: the LOOP bodies that end at the instruction the thread has issued, innermost first: first address
  and counter, as the translation it was fetched from has them (R152, R317). -/
  bodies : List (BitVec 64 × Nat)
  deriving DecidableEq, Repr

/-! ## Teams and workgroups -/

/-- A result outstanding in uniform registers (R28, R32). -/
structure UOut where
  id : Nat
  ready : Bool
  regs : List (Nat × BitVec 64)
  deriving DecidableEq, Repr

/-- One team (R6). -/
structure Team where
  /-- Lane l at place l; lanes above the live count never start and are not listed. -/
  threads : List Thread
  /-- s0 to s63. -/
  s : Sparse 64
  xpat : BitVec 32
  jord : JetOrder
  waitlim : BitVec 64
  /-- Holds an extended block (R9, R10). -/
  ext : Bool
  /-- An extended block is reserved for the team by XGIVE (R12). -/
  extReserved : Bool
  uouts : List UOut
  /-- Ageing counter of each path, by program counter (R217). -/
  ages : Sparse 64
  /-- Order of the XACQ or XTAKE that waits, counted from one; zero when none (R12). -/
  blockTurn : Nat
  /-- Uniform registers whose word is poisoned (R237). -/
  poison : List Nat
  /-- Per uniform register, the issue that wrote it last while results of earlier issues may still return to it (R32). -/
  sOrder : Sparse 64
  deriving DecidableEq, Repr

/-- A named barrier (R155). -/
structure Barrier where
  expected : Nat
  count : Nat
  phase : Nat
  deriving DecidableEq, Repr

/-- A FIFO queue bound to a bank (R144, R200, R231). -/
structure Queue where
  opened : Bool
  bank : Nat
  /-- Slot width in bytes. -/
  width : Nat
  /-- Filled slots, oldest first. -/
  slots : List Nat
  /-- Teams registered as producers and consumers. -/
  producers : List Nat
  consumers : List Nat
  /-- Engine records whose DST is the queue and which are in progress (R193). -/
  engineProducers : Nat
  /-- Filled slots that hold a poisoned word, counted from the oldest (R237). -/
  poison : List Nat
  deriving DecidableEq, Repr

/-- One resident or sealed workgroup (R214). -/
structure Wg where
  /-- The model's own running number. -/
  uid : Nat
  ctx : Nat
  /-- The launch record it runs for. -/
  launch : Nat
  wgid : Nat
  nwg : Nat
  /-- Logical core and die as launched (R227, R341). -/
  lcore : Nat
  ldie : Nat
  ndie : Nat
  /-- Physical die and core it runs on now. -/
  die : Nat
  core : Nat
  nlive : Nat
  teams : List Team
  /-- g0 to g15. -/
  g : Sparse 64
  barriers : List Barrier
  /-- Shape entries 0 to 31, the reserved bits zero (R100). -/
  shapes : Sparse 256
  scratch : Sparse 8
  /-- Scratch units of the cluster it holds, in allocation order (R226). -/
  units : List Nat
  span : Nat
  /-- Mode of each allocation-relative bank: no entry scratch, 1 cache, 2 FIFO. -/
  bankModes : Sparse 8
  queues : List Queue
  /-- Runs in the urgent partition (R298). -/
  urgent : Bool
  /-- Frozen by a pre-emption (R339). -/
  frozen : Bool
  /-- Scratch words that are poisoned, by offset / 8 (R237). -/
  poison : List Nat
  /-- Shared registers whose word is poisoned (R237). -/
  gpoison : List Nat
  deriving DecidableEq, Repr

/-! ## Memory side -/

/-- What the memory side answers (R125). -/
inductive Verdict where
  | waiting
  | mapped
  | page
  | own
  deriving DecidableEq, Repr

/-- Operations of atomics (R140, R142). -/
inductive AtomOp where
  | add | minS | maxS | minN | maxN | and | or | xor | exch | cas | fadd | fmax
  deriving DecidableEq, Repr

/-- What an access does. -/
inductive AccKind where
  | load | store | join | atomic (op : AtomOp) | threshold | shape (entry : Nat)
  deriving DecidableEq, Repr

/-- Kinds of range (R325). -/
inductive RangeKind where
  | plain | lattice | peer | host | format | code
  deriving DecidableEq, Repr

/-- One lane's part of an access: where its range leads, and what it carries. -/
structure LaneAcc where
  lane : Nat
  va : Nat
  kind : RangeKind
  /-- Lattice type code of the range. -/
  ltype : Nat
  /-- Physical die whose memory holds the IA. -/
  home : Nat
  ia : Nat
  /-- Stored value, operand, compare value or threshold. -/
  data : Nat
  /-- New value of a compare-and-swap. -/
  data2 : Nat
  verdict : Verdict
  deriving DecidableEq, Repr

/-- A memory instruction that has issued and whose region has not committed (R125, R313). -/
structure Access where
  id : Nat
  wg : Nat
  team : Nat
  pc : BitVec 64
  kind : AccKind
  bytes : Nat
  lanes : List LaneAcc
  /-- First destination register; a uniform register when `uniform`. -/
  dest : Nat
  uniform : Bool
  hint : Hint
  order : Order
  colour : Nat
  /-- WAITLIM at issue, for a threshold load (R137). -/
  limit : Nat
  /-- The issue group: a uniform access stands in the order of each of its threads (R246). -/
  group : BitVec 64
  /-- Pre-emption has discarded its region: a PAGE or OWN verdict still writes its records, and nothing else comes of it (R336). -/
  discarded : Bool
  /-- A threshold load that begins again, its thread having gone on: a pre-emption had abandoned its wait, or a MAPSYNC taken its
  cell's page away (R136, R156, R209). -/
  again : Bool
  deriving DecidableEq, Repr

/-- A threshold load that waits for its cell (R136), or an engine wait (R196). -/
structure Waiter where
  id : Nat
  wg : Nat
  team : Nat
  lane : Nat
  /-- True for a threshold load. -/
  cell : Bool
  pc : BitVec 64
  bytes : Nat
  home : Nat
  va : Nat
  ia : Nat
  ltype : Nat
  threshold : Nat
  dest : Nat
  /-- Context cycle count at the start of the wait, and the limit (R137). -/
  start : Nat
  limit : Nat
  /-- It found no free waiter at the slice and polls; the time of its next look. -/
  polling : Bool
  nextPoll : Nat
  engine : Engine
  /-- A pre-emption has abandoned the wait: it holds no waiter of the slice, and begins again at resumption (R136, R176, R277). -/
  abandoned : Bool
  deriving DecidableEq, Repr

/-- A write that is not yet performed at every scope (R148): a cluster-cache write (kind 0) waits for die scope, a peer
write (1) for module scope, a host write (2) for system scope; one to a die that is lost (3) waits for ever. -/
structure Unacked where
  wg : Nat
  team : Nat
  /-- The threads whose order the write stands in: all of the group for a uniform store (R246). -/
  lanes : BitVec 64
  colour : Nat
  kind : Nat
  die : Nat
  cluster : Nat
  /-- Memory key of the bytes written. -/
  key : Nat
  bytes : Nat
  /-- What a peer or host write brings to its home, where it arrives when it is acknowledged (R354; DEDUCED, log 37). -/
  data : Nat
  deriving DecidableEq, Repr

/-- One word of a cluster cache (R225, R261). -/
structure CWord where
  die : Nat
  cluster : Nat
  /-- Memory key divided by 4. -/
  word : Nat
  value : BitVec 32
  /-- Bytes written here and not yet written back. -/
  dirty : BitVec 4
  owned : Bool
  /-- A word of a peer window, never owned here (R224). -/
  peer : Bool
  deriving DecidableEq, Repr

/-- A line held on a cluster's read-only path, 128 bytes (R235); cluster 16 stands for the die's L2, which may hold host data
read on that path. -/
structure RoLine where
  die : Nat
  cluster : Nat
  /-- Memory key divided by 128. -/
  line : Nat
  data : BitVec 1024
  /-- Which of its four sectors it holds. -/
  valid : BitVec 4
  /-- IA page number it was read through, and the IA's die. -/
  iaDie : Nat
  iaPage : Nat
  deriving DecidableEq, Repr

/-- A decoded sector of a format view held in L2 (R72). -/
structure FmtSector where
  region : Nat
  /-- IA divided by 32. -/
  sector : Nat
  data : BitVec 256
  deriving DecidableEq, Repr

/-- A published level-3 entry: IA page, frame or host page, HOST bit (R328). -/
structure Mapping where
  page : Nat
  frame : Nat
  host : Bool
  /-- The page's old frame is being copied by a drain (R364); accesses wait. -/
  copying : Bool
  /-- Where a drain has moved the page's content: a frame of another die, or a granted host page, which stands as a frame
  of die 24 (R364). -/
  moved : Option (Option Nat × Nat)
  deriving DecidableEq, Repr

/-- A frame ownership entry (R329). -/
structure FrameEntry where
  frame : Nat
  owner : BitVec 16
  key : Nat
  scrubp : Bool
  isSealed : Bool
  lattice : Bool
  format : Bool
  deriving DecidableEq, Repr

/-- An entry of a core's side log (R127, R337). -/
structure SlogEntry where
  /-- Place in slog order. -/
  order : Nat
  /-- Entry number 0 to 255 (R333). -/
  slot : Nat
  die : Nat
  core : Nat
  ctx : Nat
  wg : Nat
  team : Nat
  lane : Nat
  pc : BitVec 64
  va : Nat
  kind : RangeKind
  ltype : Nat
  home : Nat
  ia : Nat
  bytes : Nat
  data : Nat
  colour : Nat
  join : Bool
  /-- The threads whose order the write stands in (R246). -/
  lanes : BitVec 64
  deriving DecidableEq, Repr

/-- An owner fault record: 512 bits as R333 lays them out, and whether FRPT has read it. -/
structure OwnerRec where
  index : Nat
  bits : BitVec 512
  seen : Bool
  deriving DecidableEq, Repr

/-- An operator fault record (R334). -/
structure OpRec where
  index : Nat
  bits : BitVec 128
  seen : Bool
  deriving DecidableEq, Repr

/-! ## Translations -/

/-- A pin of lines of a translation in a cluster's cache: by a launch, or by LDK (launch 0), for a context (R318). -/
structure Pin where
  cluster : Nat
  ctx : Nat
  launch : Nat
  /-- The lines it pins, by their number in the translation. -/
  lines : List Nat
  deriving DecidableEq, Repr

/-- A translation of a function under an order (R316, R312): its words, and the fault code of R44 that each carries (0
none). Contexts of one world share it. -/
structure Translation where
  die : Nat
  world : BitVec 16
  order : JetOrder
  /-- Virtual address of the function's first word in the context it was made for. -/
  base : Nat
  words : List (BitVec 32)
  faults : List Nat
  /-- Whether a path from an address where threads entered reaches the word under this order (R31, R47). -/
  reached : List Bool
  /-- Words from which the checks follow the function's paths: its first, and those that threads were to execute when Twill
  was asked, each with its order. -/
  seeds : List (Nat × JetOrder)
  /-- Bodies: first, last instruction index and counter, innermost first at equal ends (R152). -/
  bodies : List (Nat × Nat × Nat)
  /-- IA of the first word. -/
  ia : Nat
  /-- Level used: 0 scalar, 1 loop, 2 tile (R310). -/
  level : Nat
  /-- The die store holds it; one that it has dropped keeps its seeds, so that the same checks apply when it is made again. -/
  stored : Bool
  /-- The lines of it that clusters' caches hold: cluster, and number of the line. -/
  cached : List (Nat × Nat)
  pins : List Pin
  deriving DecidableEq, Repr

/-! ## Contexts and engines -/

/-- An engine's chain position for a context (R194, R195). -/
structure Eng where
  e : Engine
  die : Nat
  cluster : Nat
  head : BitVec 64
  seqa : BitVec 64
  /-- ENGST: STATE and ERR. -/
  state : Nat
  err : Nat
  seq : BitVec 64
  tail : BitVec 64
  /-- Last completed record since the last write of ENGHEAD. -/
  last : Option (BitVec 64)
  /-- NEXT of the record completed just before, while the engine's loop goes on (R195). -/
  next : Option (BitVec 64)
  /-- Addresses of the records completed since the last write of ENGHEAD (R194). -/
  completed : List (BitVec 64)
  /-- Workgroup of the team whose ETAIL started the chain. -/
  wg : Nat
  /-- Tails that are set and whose records have not completed, each with the workgroup of its team (R262). -/
  tails : List (Nat × BitVec 64)
  /-- A record that has been performed and counted, and its NEXT, while its sequence word is still to be written (R195). -/
  due : Option (Nat × Nat)
  /-- Progress of a record that waits on a page or a full queue: slots already filled. -/
  progress : Nat
  /-- Queue that counts the record in progress among its producers (R193). -/
  producer : Option Nat
  /-- Virtual address that a record which waits goes on to use: the unpublished page, or the source of a full queue. -/
  awaits : Option Nat
  /-- Stopped by a pre-emption; starts again at continuation (R339). -/
  paused : Bool
  /-- It still works the record that was current when the pre-emption came (R339). -/
  finishing : Bool
  deriving DecidableEq, Repr

/-- Context states (R323). -/
inductive CtxState where
  | idle | running | frozen | saved
  deriving DecidableEq, Repr

/-- Steps that DBG asks of a halted context (R211): who asked, and the paths of a team still to execute one
instruction. -/
structure StepReq where
  askWg : Nat
  askTeam : Nat
  askPc : BitVec 64
  wg : Nat
  team : Nat
  /-- The sub-groups that are still to be issued, as they stood when the step began: program counter and lanes. -/
  groups : List (BitVec 64 × BitVec 64)
  /-- The first of them has been issued: its lanes and the issue. -/
  issued : Option (BitVec 64 × Nat)
  /-- An instruction stepped has parked. -/
  parked : Bool
  deriving DecidableEq, Repr

/-- The sealed image of a context (R342). -/
structure Image where
  die : Nat
  firstPage : Nat
  pages : Nat
  generation : Nat
  /-- The generation that Percale recorded in its own frames. -/
  recorded : Nat
  /-- No damage to the frames has been met. -/
  intact : Bool
  wgs : List Wg
  slog : List SlogEntry
  engines : List Eng
  deriving DecidableEq, Repr

/-- A MIGRATE that has passed its checks and waits to seal (R342): who asked, and the target. -/
structure Move where
  wg : Nat
  team : Nat
  pc : BitVec 64
  die : Nat
  core : Nat
  deriving DecidableEq, Repr

/-- A placed context (R14, R15, R324). -/
structure Ctx where
  /-- The model's own running number. -/
  uid : Nat
  handle : BitVec 32
  /-- 0 operator, 1 owner, 2 auditor. -/
  auth : Nat
  world : BitVec 16
  part : Nat
  cls : Nat
  urgent : Bool
  pinq : Nat
  ring : Nat
  ringlog : Nat
  savea : Nat
  savep : Nat
  homeDie : Nat
  lstat : BitVec 64
  /-- Context registers by control index: ranges, windows, PLPOL, exports, DBGSEL (R181). -/
  regs : Sparse 64
  halted : Bool
  /-- Steps asked by DBG and not yet executed (R211). -/
  steps : List StepReq
  state : CtxState
  /-- It has reset itself: its records are cancelled, and the scrub follows when the cancels have completed (R208, R294). -/
  resetting : Bool
  /-- A MIGRATE is under way (R342 step 4). -/
  moving : Option Move
  /-- Core a frozen or saved context is bound to: die and core. -/
  bound : Option (Nat × Nat)
  cycles : BitVec 64
  recs : List OwnerRec
  recNext : BitVec 32
  recLost : BitVec 16
  seen : BitVec 5
  image : Option Image
  engines : List Eng
  /-- Head index of the host ring on each die (R284). -/
  ringHeads : Sparse 32
  /-- The tail rung last on each die. -/
  ringTails : Sparse 32
  /-- Die it was placed on (PLPOL 1, R340). -/
  placedDie : Nat
  deriving DecidableEq, Repr

/-! ## Records -/

/-- Types of record (R287). -/
inductive RecKind where
  | launch | graph | phase | job
  deriving DecidableEq, Repr

/-- A power lease (R299): tokens held, asked for, since when it waits, and when its quantum ends. -/
structure Lease where
  asked : Nat
  held : Nat
  waiting : Bool
  since : Nat
  quantumEnd : Nat
  /-- Clusters at which a token of the lease is captured: cluster, time of capture, time of the last MMA. -/
  captured : List (Nat × Nat × Nat)
  deriving DecidableEq, Repr

/-- The kernel header of a launch as its first examination read it (R305, R306). -/
structure Header where
  teams : Nat
  live : Nat
  span : Nat
  xblk : Bool
  order : JetOrder
  pin : Bool
  matrix : Bool
  entry : BitVec 64
  units : Nat
  ftab : Nat
  nfunc : Nat
  deriving DecidableEq, Repr

/-- A function that Twill has met in a launch: where it begins, its words, and the level chosen for the launch (R310, R388). -/
structure FnUse where
  base : Nat
  words : Nat
  level : Nat
  deriving DecidableEq, Repr

/-- A record held by a front end (R293). -/
structure Rec where
  uid : Nat
  ctx : Nat
  die : Nat
  addr : Nat
  kind : RecKind
  /-- STATE of R287 as the front end has it: 0 reached and not started, 1 accepted, 2 running, 3 done. -/
  state : Nat
  code : Nat
  /-- Order of acceptance. -/
  order : Nat
  parent : Option Nat
  children : List Nat
  total : Nat
  done : Nat
  /-- A cancel has reached the record. -/
  cancelled : Bool
  /-- The last child has ended (or the record was dropped) and the completion is to be written. -/
  ending : Bool
  /-- Armed tag, until it fires (R295). -/
  tag : Option Nat
  /-- Started through a tagged message: buffer address in s1. -/
  fired : Bool
  examined : Bool
  header : Option Header
  /-- Dispenser (R187). -/
  next : Nat
  units : Nat
  /-- Present cores of CORES, ascending, and how many workgroups have been placed and have ended. -/
  cores : List Nat
  placed : List Nat
  ended : Nat
  /-- Resolution of the logical dies (R3): physical die of each. -/
  resolution : List Nat
  /-- Trap handlers by class (R202). -/
  handlers : Sparse 64
  lease : Lease
  /-- Predecessors that have completed OK, and NPRED; successors' uids. -/
  predsDone : Nat
  npred : Nat
  succ : List Nat
  capacity : Nat
  /-- Core that a PREEMPT brought the launch in for (R298). -/
  urgentCore : Option Nat
  /-- A named record or array failed a check when the tree was read (R289). -/
  bad : Bool
  /-- Chosen graph of a phase (R292). -/
  chosen : Option Nat
  /-- The functions of the launch that Twill has met; the implied ones begin where its threads entered code outside every
  listed function (R388). -/
  fns : List FnUse
  /-- Initial s1 to s8 (SEED), as its examination read them. -/
  seeds : List (BitVec 64)
  deriving DecidableEq, Repr

/-! ## Dies, partitions, module -/

/-- A lattice line in flight or held (R272, R274). -/
structure Line where
  source : Nat
  target : Nat
  part : Nat
  region : Nat
  ltype : Nat
  base : Nat
  size : Nat
  ia : Nat
  data : BitVec 2048
  held : Bool
  deriving DecidableEq, Repr

/-- A changed mark: entry, IA line number (R272); the list order is the marks' age. -/
structure Mark where
  entry : Nat
  line : Nat
  deriving DecidableEq, Repr

/-- An armed tag (R295). -/
structure Tag where
  tag : Nat
  record : Nat
  ctx : Nat
  deriving DecidableEq, Repr

/-- A key slot in use (R370) (DESIGN CHOICE, log 10). -/
structure KeySlot where
  slot : Nat
  world : BitVec 16
  generation : Nat
  deriving DecidableEq, Repr

/-- A retired part, for the retirement map (R362). -/
inductive Retired where
  | row | bank (cluster bank : Nat) | slice (n : Nat) | core (n : Nat) | lane (port lane : Nat) | link (port : Nat)
  /-- An HBM stack, 0 or 1, or the LP tier, 2, that failed at bring-up (R382). -/
  | stack (n : Nat)
  deriving DecidableEq, Repr

/-- Where an error has struck, for the test that Percale runs after it (R361): somewhere in the die's SRAM, in a cluster's, in
the register files of a core, on a port. -/
inductive Suspect where
  | anywhere | cluster (n : Nat) | core (n : Nat) | port (n : Nat)
  deriving DecidableEq, Repr

/-- A certificate slot (R367). -/
structure CertSlot where
  slot : Nat
  chain : List (BitVec 8)
  /-- A rewrite is in progress; a signed response naming the slot is awaited. -/
  rewriting : Bool
  awaited : Bool
  deriving DecidableEq, Repr

/-- An SPDM or secure session (R365, R369). -/
structure Session where
  id : Nat
  transport : Transport
  established : Bool
  /-- World the session is bound to by a lock (R369). -/
  bound : Option Nat
  deriving DecidableEq, Repr

/-- A pre-emption accepted and not yet frozen, or occupying the urgent partition (R206, R339). -/
structure Preempt where
  die : Nat
  core : Nat
  victim : Nat
  urgent : Nat
  record : Nat
  frozen : Bool
  deriving DecidableEq, Repr

/-- One die. -/
structure Die where
  /-- DSTATE fields (R363). -/
  dstate : Nat
  req : Bool
  paused : Bool
  short : BitVec 32
  evachb : BitVec 64
  evachn : BitVec 64
  /-- Host pages already used by evacuation. -/
  evacUsed : Nat
  part : Option Nat
  ptroot : BitVec 64
  published : List Mapping
  frames : List FrameEntry
  keys : List KeySlot
  /-- FMTV and FMTH by control index (R70). -/
  fmt : Sparse 64
  /-- Regions whose header has passed its check since EN was set, with the pages whose frames they mark (R72, R329). -/
  fmtPages : List (Nat × List Nat)
  sectors : List FmtSector
  /-- XSCHED0 to XSCHED7 (R268). -/
  xsched : Sparse 64
  /-- Time at which the old values of an entry give way (R275): entry, new register value. -/
  xpending : List (Nat × BitVec 64)
  /-- Time of each entry's last boundary. -/
  xlast : Sparse 64
  xbound : BitVec 64
  backlog : BitVec 16
  rounds : BitVec 32
  marks : List Mark
  /-- LINKST0 to LINKST3 (R360). -/
  links : List (BitVec 64)
  /-- Ports whose link came up after the die was ready: no traffic until a CONFIGURE includes both dies (R383). -/
  idlePorts : BitVec 4
  retired : List Retired
  spareRows : Sparse 8
  /-- Errors whose targeted test has still to run (R361). -/
  suspects : List Suspect
  opRecs : List OpRec
  opNext : BitVec 32
  opLost : BitVec 16
  pool : Nat
  mhz : Nat
  /-- Budget in watts (R379). -/
  budget : Rat
  therm : Bool
  boot : Nat
  deviceQueue : List Nat
  tags : List Tag
  scrubPending : List Nat
  /-- Units an owner context has touched since they were scrubbed: core, context (R345). -/
  touched : List (Nat × Nat)
  certs : List CertSlot
  sessions : List Session
  /-- The request message in the window's buffer; its length word counts it (R368). -/
  request : List (BitVec 8)
  /-- The response message in the window's buffer; its length word counts it, 0 when the buffer is free (R368). -/
  response : List (BitVec 8)
  /-- Measurement index 8 as the lock fixed it (R366). -/
  measured : Option (BitVec 384)
  preempts : List Preempt
  deriving DecidableEq, Repr

/-- A region table entry (R265). -/
structure Region where
  id : Nat
  base : Nat
  size : Nat
  ltype : Nat
  deriving DecidableEq, Repr

/-- Interface states (R371). -/
inductive IfState where
  | unlocked | locked | run | error
  deriving DecidableEq, Repr

/-- One partition. -/
structure Part where
  configured : Bool
  world : BitVec 16
  /-- DIEMAP0 to DIEMAP23 (R351). -/
  diemap : Sparse 64
  refcnt : BitVec 64
  /-- Counters 0x001 to 0x005 and CNT0 to CNT15, by index; and the event of each CNT (R210). -/
  counters : Sparse 64
  events : Sparse 8
  ifstate : IfState
  locks : BitVec 32
  nonce : BitVec 256
  boundSession : Option Nat
  keygen : BitVec 64
  prank : BitVec 4
  pcap : BitVec 64
  regions : List Region
  /-- The budget was reduced by the hall cap (R379). -/
  hallCapped : Bool
  /-- Context images sealed so far (R342). -/
  generations : Nat
  deriving DecidableEq, Repr

/-- A tagged message in flight (R358). -/
structure Msg where
  /-- Die that sent it, 24 for the host agent of the target's own port: the messages of one keep their order (R354). -/
  source : Nat
  target : Nat
  world : BitVec 16
  payload : BitVec 2048
  deriving DecidableEq, Repr

/-- An answer given to an outside request. -/
inductive Answer where
  /-- The configuration service: sequence number, status byte, MAC, and the words QUERY returns. -/
  | config (seq : BitVec 64) (status : BitVec 8) (mac : BitVec 128) (body : List Nat)
  /-- SPDM: die, transport, response code, body. -/
  | spdm (die : Nat) (t : Transport) (code : BitVec 8) (body : List (BitVec 8))
  /-- TDISP: session, response code, body. -/
  | tdisp (die session : Nat) (code : BitVec 8) (body : List (BitVec 8))
  deriving DecidableEq, Repr

/-! ## The machine -/

/-- The model's own: the issue group that executes (DESIGN CHOICE, log 2). -/
structure Group where
  wg : Nat
  team : Nat
  lanes : BitVec 64
  pc : BitVec 64
  id : Nat
  deriving DecidableEq, Repr

/-- The model's own: which agent acts next (DESIGN CHOICE, log 2). -/
inductive Turn where
  /-- A team issues its candidate path (R217). -/
  | issue (wg team : Nat)
  /-- A further step of the device, or an outside request. -/
  | event (i : Instr)
  deriving DecidableEq, Repr

structure State where
  /-- Module time base, in nanoseconds from reset release (R272). -/
  time : Nat
  /-- The model's own: how many free values have been drawn (DESIGN CHOICE, log 6). -/
  draws : Nat
  /-- The model's own: whose turn it is (DESIGN CHOICE, log 2). -/
  agenda : List Turn
  /-- The model's own: the issue group that executes (DESIGN CHOICE, log 2). -/
  cur : Option Group
  /-- The model's own: running number for issues, workgroups, contexts and records. -/
  nextId : Nat
  powered : Bool
  /-- Memory of every die and of the host: host byte `a` at key `a`, byte `a` of die `d` at key `(d+1)·2^64 + a`. -/
  mem : Sparse 8
  /-- Poisoned 64-bit words, by key / 8 (R237). -/
  poison : List Nat
  /-- Host pages that evacuation wrote: the ownership that their ciphertext stays bound to (R364, R370). Their plain content
  stands at the keys of die 24. -/
  hostFrames : List FrameEntry
  dies : List Die
  parts : List Part
  ctxs : List Ctx
  recs : List Rec
  wgs : List Wg
  accs : List Access
  waiters : List Waiter
  unacked : List Unacked
  cwords : List CWord
  roLines : List RoLine
  slog : List SlogEntry
  trans : List Translation
  lines : List Line
  msgs : List Msg
  /-- HALLGRP, HALLSEQ, HALLKEY (R376). -/
  hallgrp : BitVec 5
  hallseq : BitVec 64
  hallkey : BitVec 256
  /-- Sequence of the configuration service, multicast group (R384, R385). -/
  cfgseq : BitVec 64
  mcast : BitVec 128
  /-- Hall cap in force: CAP and R of the last accepted frame (R378). -/
  hallCap : Option (BitVec 16 × BitVec 4)
  elec : Bool
  /-- The two debug bits of measurement index 9 (R366). -/
  debugWord : BitVec 64
  answers : List Answer
  deriving DecidableEq, Repr

/-- Why the machine stops without an effect. -/
inductive Fault where
  /-- A step was asked of a module without power: the spec gives state no content outside the power-on span (R2).
  Raised by every event but MODULE_RESET_RELEASE. Safe: nothing is claimed of such a module. -/
  | poweredOff
  deriving DecidableEq, Repr

/-- Why a step has no meaning. -/
inductive Refusal where
  /-- An instruction without a meaning in this model. Raised only by arms of `exec`. Safe. -/
  | notModelled (mnemonic : String)
  /-- An instruction was executed with no issue group, or with one that names no running team: nothing the hardware
  can do. Raised by every instruction of a program. Safe. -/
  | noIssueGroup
  /-- An internal step of the device was named where its occasion does not hold (R28, R36, R125 and the like name when
  each happens): the hardware does not take such a step. Safe. -/
  | noOccasion
  /-- A team was to issue and has no ready path. Raised by step. Safe. -/
  | notReady
  deriving DecidableEq, Repr

/-! ## Resets -/

/-- A thread before anything has run in it, and what a lane that never started reads as (R6). -/
def Thread.init : Thread :=
  { pc := 0, v := [], preds := 0x80, lc := [], lr := 0, jst := 0, tcause := 0, tepc := 0, clkhi := 0,
    status := .running, outs := [], arrived := [], poison := [], bodies := [] }

/-- A queue that is not open (R200). -/
def Queue.init : Queue :=
  { opened := false, bank := 0, width := 4, slots := [], producers := [], consumers := [], engineProducers := 0, poison := [] }

/-- No lease and no request (R299). -/
def Lease.init : Lease :=
  { asked := 0, held := 0, waiting := false, since := 0, quantumEnd := 0, captured := [] }

/-- A link port at reset: down; `missing` for the port that columns 0 and 11 lack (R349, R360). -/
def linkReset (missing : Bool) : BitVec 64 := if missing then 3 else 0

/-- Does a die lack this port (R349). -/
def portMissing (die port : Nat) : Bool :=
  (port == 1 && die % 12 == 11) || (port == 2 && die % 12 == 0)

/-- XSCHED at reset: every entry off, PERIOD 8 (R268, R271). -/
def xschedReset : Sparse 64 := (upFrom 0 8).map fun n => (n, 0x80000)
/-- XBOUND at reset: MINPER 4, MAXENT 8, and no die of a partition yet (R269). -/
def xboundReset : BitVec 64 := 0x80004

/-- A die before bring-up (register maps of R70, R268 to R270, R328, R329, R360 to R363, R381). -/
def Die.init (n : Nat) : Die :=
  { dstate := 0, req := false, paused := false, short := 0, evachb := 0, evachn := 0, evacUsed := 0, part := none,
    ptroot := 0, published := [], frames := [], keys := [], fmt := [], fmtPages := [], sectors := [],
    xsched := xschedReset, xpending := [], xlast := [], xbound := xboundReset, backlog := 0, rounds := 0, marks := [],
    links := [0, linkReset (portMissing n 1), linkReset (portMissing n 2), 0], idlePorts := 0,
    retired := [], spareRows := [], suspects := [], opRecs := [], opNext := 0, opLost := 0, pool := 16, mhz := 1400,
    budget := 0, therm := false, boot := 0, deviceQueue := [], tags := [], scrubPending := [], touched := [],
    certs := [], sessions := [], request := [], response := [], measured := none, preempts := [] }

/-- A partition that is not configured. -/
def Part.init : Part :=
  { configured := false, world := 0, diemap := [], refcnt := 0, counters := [], events := [], ifstate := .unlocked,
    locks := 0, nonce := 0, boundSession := none, keygen := 0, prank := 0, pcap := 0x0040FFFF, regions := [],
    hallCapped := false, generations := 0 }

/-- A frame ownership entry at reset (R329). -/
def FrameEntry.init (n : Nat) : FrameEntry :=
  { frame := n, owner := 0, key := 0, scrubp := true, isSealed := false, lattice := false, format := false }

/-- The module before its reset is released: no die has booted (R382), memory lists nothing, no context is placed
(DESIGN CHOICE, log 12). -/
def State.reset : State :=
  { time := 0, draws := 0, agenda := [], cur := none, nextId := 1, powered := true, mem := [], poison := [], hostFrames := [],
    dies := (upFrom 0 24).map Die.init, parts := (upFrom 0 24).map fun _ => Part.init,
    ctxs := [], recs := [], wgs := [], accs := [], waiters := [], unacked := [], cwords := [], roLines := [],
    slog := [], trans := [], lines := [], msgs := [], hallgrp := 0, hallseq := 0, hallkey := 0, cfgseq := 0,
    mcast := 0, hallCap := none, elec := false, debugWord := 0, answers := [] }

end Sys2Proof.Machine
end

