-- ==== Sys2Proof/Machine/Lat.lean ====
section
/-!
DEFINITION. Lattice cells (R74 to R76, R133, R138, R141). A cell and a value are natural numbers over their bytes, least
significant byte first. Type codes are those of R74.
-/
namespace Sys2Proof.Machine

/-- Bytes of a cell. -/
def cellBytes (ty : Nat) : Nat :=
  match ty with
  | 0 => 4 | 1 => 8 | 2 => 4 | 3 => 4 | 4 => 32 | 5 => 4 | 6 => 8 | 7 => 8 | 8 => 128 | _ => 4

/-- Bytes of the unit a join takes on its own: the cell, or a 4-byte part for the partial types (R133). -/
def unitBytes (ty : Nat) : Nat := if ty == 3 || ty == 4 || ty == 8 then 4 else cellBytes ty

/-- The bottom of a unit (R74). -/
def unitBottom (ty : Nat) : Nat :=
  match ty with
  | 2 => 0xFFFFFFFF
  | 5 => 0xFF800000
  | 7 => 0xFF80000000000000
  | _ => 0

/-- Does a store or join of `n` bytes cover join units of the type (R133). -/
def coversUnit (ty n : Nat) : Bool :=
  if ty == 3 || ty == 4 || ty == 8 then decide (4 ≤ n) && decide (n ≤ cellBytes ty) && n % 4 == 0
  else n == cellBytes ty

/-- Sort key of an FP32 pattern (R75). -/
def keyOf (x : Nat) : Nat := fpKey (BitVec.ofNat 32 x)

/-- Is the value an element of its type: a NaN is none of MAXF32 or ARGMAX (R75). -/
def isElement (ty x : Nat) : Bool :=
  if ty == 5 then !isNan32 (BitVec.ofNat 32 x)
  else if ty == 7 then !isNan32 (BitVec.ofNat 32 (x / 2 ^ 32))
  else true

/-- Order key of an ARGMAX cell: score key, then index (R74). -/
def argKey (x : Nat) : Nat := keyOf (x / 2 ^ 32) * 2 ^ 32 + x % 2 ^ 32

/-- Join of two units (R74). -/
def joinUnit (ty a b : Nat) : Nat :=
  match ty with
  | 2 => min a b
  | 3 => a ||| b
  | 4 => a ||| b
  | 5 => if keyOf a < keyOf b then b else a
  | 7 => if argKey a < argKey b then b else a
  | _ => max a b

/-- v ⊒ c of R76. -/
def atLeast (ty v c : Nat) : Bool := joinUnit ty v c == v

/-- Sum of the 32 slots of a GCOUNT cell (R76). -/
def slotSum (c : Nat) : Nat := ((upFrom 0 32).foldl (fun acc i => acc + (c / 2 ^ (32 * i)) % 2 ^ 32) 0) % 2 ^ 64

/-- Width in bytes of a threshold (R76). -/
def thresholdBytes (ty : Nat) : Nat := if ty == 8 then 8 else cellBytes ty

/-- Passed(c, t) of R76. -/
def passed (ty c t : Nat) : Bool :=
  match ty with
  | 3 => (t ||| c) == c
  | 4 => (t ||| c) == c
  | 8 => decide (t ≤ slotSum c)
  | _ => isElement ty t && atLeast ty c t

/-- Value(c) of R136. -/
def thresholdValue (ty c : Nat) : Nat := if ty == 8 then slotSum c else c

/-- Units of a value of `n` bytes, lowest first. -/
def unitsOf (u n x : Nat) : List Nat := (upFrom 0 (n / u)).map fun i => (x / 2 ^ (8 * u * i)) % 2 ^ (8 * u)
/-- A value from its units. -/
def fromUnits (u : Nat) (xs : List Nat) : Nat :=
  match xs with
  | [] => 0
  | x :: t => x + 2 ^ (8 * u) * fromUnits u t

/-- LJOIN over the bytes it covers: the new value; none where a NaN drops it (R138, R75). -/
def joinValue (ty n old x : Nat) : Option Nat :=
  let u := unitBytes ty
  if (unitsOf u n x).all (isElement ty) then
    some (fromUnits u (List.zipWith (joinUnit ty) (unitsOf u n old) (unitsOf u n x)))
  else none

/-- Is a stored unit dropped: it is not ⊒ the replica's, or no element of its type (R133, R75). -/
def unitDropped (ty old x : Nat) : Bool := !(isElement ty x && atLeast ty x old)
/-- A plain store's new bytes, each join unit judged on its own (R133, R184; DEDUCED, log 30), and whether one was dropped. -/
def storeValue (ty n old x : Nat) : Nat × Bool :=
  let u := unitBytes ty
  let olds := unitsOf u n old
  let xs := unitsOf u n x
  (fromUnits u (List.zipWith (fun o v => if unitDropped ty o v then o else v) olds xs),
   (List.zipWith (unitDropped ty) olds xs).any id)

/-- Joins two images of `n` bytes cell by cell (R273). -/
def joinLine (ty n a b : Nat) : Nat :=
  let u := unitBytes ty
  fromUnits u (List.zipWith (joinUnit ty) (unitsOf u n a) (unitsOf u n b))

/-- GCOUNT add: the slot's new value, saturating (R141, R75). -/
def slotAdd (old x : Nat) : Nat := min (old + x) 0xFFFFFFFF

end Sys2Proof.Machine
end

