-- ==== Sys2Proof/Config.lean ====
section
/-!
DEFINITION. What the spec leaves open, as constants without a body: nothing in Lean can evaluate them or prove a value
of them. Each is named in the assumption log (notes/assumptions). There is no other configuration: the module is one
part with fixed figures (R1, R238).
-/
namespace Sys2Proof.Config

/-- Nanoseconds that pass in a step; the argument is the draw counter (DESIGN CHOICE, log 5). -/
opaque elapsed : Nat → Nat
/-- Arithmetic-clock cycles that pass in a step (DESIGN CHOICE, log 5). -/
opaque cycles : Nat → Nat
/-- Which of the results a bound allows a special function delivers: function number, operand bits (DESIGN CHOICE, log 7). -/
opaque pick : Nat → Nat → Nat
/-- A free number of any size, by draw counter (DESIGN CHOICE, log 6). -/
opaque free : Nat → Nat
/-- Is a copy evicted (R225, R235, R316; DESIGN CHOICE, log 9): draw, store (0 cluster cache, 1 read-only cache, 2 translation cache, 3
die translation store, 4 decoded sectors of L2), die, cluster, line. -/
opaque evicts : Nat → Nat → Nat → Nat → Nat → Bool
/-- A register file word the machine may take old or new: draw, lane, register (R162, DESIGN CHOICE, log 15). -/
opaque takesNew : Nat → Nat → Nat → Bool
/-- L2 fills, memory traffic and link flits of a partition in a step: draw, partition, event 4 to 8 (R210; DESIGN CHOICE,
log 58). -/
opaque traffic : Nat → Nat → Nat → Nat
/-- What an owner record of DATAERR names for register state: a class, 0 lane registers and accumulators, 1 uniform registers, 2
shared registers, 3 scratch and queues (R237; DESIGN CHOICE, log 34). -/
opaque registerClass : Nat → Nat
/-- A byte of a host page that evacuation wrote, as ciphertext: draw, offset in the page (R364, R370; DESIGN CHOICE, log 10). -/
opaque cipherByte : Nat → Nat → BitVec 8
/-- A byte of a sealed image, by draw and offset (R342; DESIGN CHOICE, log 80). -/
opaque imageByte : Nat → Nat → BitVec 8
/-- An ECDSA P-384 signature of a die over bytes (R365; DESIGN CHOICE, log 11). -/
opaque signature : Nat → List (BitVec 8) → List (BitVec 8)
/-- Percale's random number generator, by draw counter (R370, R371; DESIGN CHOICE, log 11). -/
opaque random : Nat → BitVec 256
/-- Measurement blocks 1 to 7 as loaded or manufactured, by die and index (R366; DESIGN CHOICE, log 11). -/
opaque measurement : Nat → Nat → BitVec 384
/-- Body of an SPDM or TDISP answer whose content the standards named in R365 and R371 give (DESIGN CHOICE, log 11). -/
opaque standardBody : Nat → Nat → List (BitVec 8)
/-- The device identity chain of a die (R367; DESIGN CHOICE, log 11). -/
opaque identityChain : Nat → List (BitVec 8)

end Sys2Proof.Config
end

