-- ==== Sys2Proof/Machine/Ops.lean ====
section
/-!
DEFINITION. Shared operations over the state: access to its parts, threads that go on, leave and trap, owner records,
status words and refusals, register blocks, barriers and outstanding results (R6 to R25, R28, R152, R155, R200, R203).
-/
namespace Sys2Proof.Machine

/-- What every meaning answers. -/
abbrev Result := Host.Outcome State Fault Refusal

/-! ## Parts of the state -/

/-- A team with no thread; what an index beyond the teams reads as. -/
def Team.absent : Team :=
  { threads := [], s := [], xpat := 0, jord := .k0, waitlim := 0xFFFFFFFFFFFFFFFF, ext := false,
    extReserved := false, uouts := [], ages := [], blockTurn := 0, poison := [], sOrder := [] }

/-- A workgroup that does not exist. -/
def Wg.absent : Wg :=
  { uid := 0, ctx := 0, launch := 0, wgid := 0, nwg := 0, lcore := 0, ldie := 0, ndie := 0, die := 0, core := 0,
    nlive := 0, teams := [], g := [], barriers := [], shapes := [], scratch := [], units := [], span := 0,
    bankModes := [], queues := [], urgent := false, frozen := false, poison := [], gpoison := [] }

/-- Context 0: no context; every placed context has a running number above it. -/
def Ctx.absent : Ctx :=
  { uid := 0, handle := 0, auth := 0, world := 0, part := 0, cls := 0, urgent := false, pinq := 0, ring := 0,
    ringlog := 0, savea := 0, savep := 0, homeDie := 0, lstat := 0, regs := [], halted := false, steps := [], state := .idle, resetting := false, moving := .none,
    bound := .none, cycles := 0, recs := [], recNext := 0, recLost := 0, seen := 0, image := .none, engines := [],
    ringHeads := [], ringTails := [], placedDie := 0 }

/-- A record that does not exist. -/
def Rec.absent : Rec :=
  { uid := 0, ctx := 0, die := 0, addr := 0, kind := .launch, state := 0, code := 0, order := 0, parent := .none,
    children := [], total := 0, done := 0, cancelled := false, ending := false, tag := .none, fired := false,
    examined := false, header := .none, next := 0, units := 0, cores := [], placed := [], ended := 0,
    resolution := [], handlers := [], lease := Lease.init, predsDone := 0, npred := 0, succ := [], capacity := 0,
    urgentCore := .none, bad := false, chosen := .none, fns := [],
    seeds := [] }

def State.wg (s : State) (u : Nat) : Wg := (findFirst (fun w => w.uid == u) s.wgs).getD Wg.absent
def State.ctx (s : State) (u : Nat) : Ctx := (findFirst (fun c => c.uid == u) s.ctxs).getD Ctx.absent
def State.record (s : State) (u : Nat) : Rec := (findFirst (fun r => r.uid == u) s.recs).getD Rec.absent
def State.die (s : State) (d : Nat) : Die := listGet (Die.init d) s.dies d
def State.part (s : State) (p : Nat) : Part := listGet Part.init s.parts p
def Wg.team (w : Wg) (t : Nat) : Team := listGet Team.absent w.teams t
def Team.thread (t : Team) (l : Nat) : Thread := listGet Thread.init t.threads l

def State.modWg (s : State) (u : Nat) (f : Wg → Wg) : State :=
  { s with wgs := mapWhere (fun w => w.uid == u) f s.wgs }
def State.modCtx (s : State) (u : Nat) (f : Ctx → Ctx) : State :=
  { s with ctxs := mapWhere (fun c => c.uid == u) f s.ctxs }
def State.modRec (s : State) (u : Nat) (f : Rec → Rec) : State :=
  { s with recs := mapWhere (fun r => r.uid == u) f s.recs }
def State.modDie (s : State) (d : Nat) (f : Die → Die) : State := { s with dies := listModify f s.dies d }
def State.modPart (s : State) (p : Nat) (f : Part → Part) : State := { s with parts := listModify f s.parts p }
def Wg.modTeam (w : Wg) (t : Nat) (f : Team → Team) : Wg := { w with teams := listModify f w.teams t }
def Team.modThread (t : Team) (l : Nat) (f : Thread → Thread) : Team :=
  { t with threads := listModify f t.threads l }
def State.modTeam (s : State) (u t : Nat) (f : Team → Team) : State := s.modWg u fun w => w.modTeam t f
def State.modThread (s : State) (u t l : Nat) (f : Thread → Thread) : State :=
  s.modTeam u t fun tm => tm.modThread l f

/-- Changes every thread of a team whose lane is in a mask. -/
def Team.modLanes (t : Team) (m : BitVec 64) (f : Nat → Thread → Thread) : Team :=
  { t with threads := mapIdxFrom (fun l th => if inMask m l then f l th else th) 0 t.threads }
def State.modLanes (s : State) (u t : Nat) (m : BitVec 64) (f : Nat → Thread → Thread) : State :=
  s.modTeam u t fun tm => tm.modLanes m f

/-! ## Registers -/

/-- vN of a thread. -/
def Thread.v32 (th : Thread) (r : Nat) : BitVec 32 := spGet th.v r
/-- pN of a thread; p7 reads one (R7). -/
def Thread.pred (th : Thread) (p : Nat) : Bool := p == 7 || th.preds.getLsbD p
/-- The predicate bits with pN written; a write to p7 is discarded (R7). -/
def setPredBits (ps : BitVec 8) (p : Nat) (b : Bool) : BitVec 8 :=
  if p == 7 then ps else if b then ps ||| (1#8 <<< p) else ps &&& ~~~(1#8 <<< p)
def Thread.setPred (th : Thread) (p : Nat) (b : Bool) : Thread := { th with preds := setPredBits th.preds p b }
def Thread.setV (th : Thread) (r : Nat) (x : BitVec 32) : Thread :=
  { th with v := spSet th.v r x, poison := th.poison.filter (fun q => q != r) }
/-- Writes a list of lane registers. -/
def Thread.setVs (th : Thread) (rs : List (Nat × BitVec 32)) : Thread :=
  rs.foldl (fun a rx => a.setV rx.1 rx.2) th
/-- Writes a list of predicates. -/
def Thread.setPreds (th : Thread) (ps : List (Nat × Bool)) : Thread :=
  ps.foldl (fun a px => a.setPred px.1 px.2) th
/-- The pair vN, vN+1 as 64 bits, vN low. -/
def Thread.v64 (th : Thread) (r : Nat) : BitVec 64 := th.v32 (r + 1) ++ th.v32 r
/-- `n` registers from vN as one number, vN lowest (R122). -/
def Thread.vNat (th : Thread) (r n : Nat) : Nat :=
  match n with
  | 0 => 0
  | k + 1 => (th.v32 r).toNat + 2 ^ 32 * th.vNat (r + 1) k
/-- A number spread over `n` registers from vN. -/
def spread (r n x : Nat) : List (Nat × BitVec 32) :=
  match n with
  | 0 => []
  | k + 1 => (r, BitVec.ofNat 32 x) :: spread (r + 1) k (x / 2 ^ 32)

/-- sN of a team; s0 reads zero (R7). -/
def Team.sreg (t : Team) (r : Nat) : BitVec 64 := if r == 0 then 0 else spGet t.s r
/-- Writes sN; a write to s0 is discarded (R7). -/
def Team.setS (t : Team) (r : Nat) (x : BitVec 64) : Team := 
  if r == 0 then t else { t with s := spSet t.s r x, poison := t.poison.filter fun q => q != r }
def Team.setSs (t : Team) (rs : List (Nat × BitVec 64)) : Team := rs.foldl (fun a rx => a.setS rx.1 rx.2) t

/-! ## Free values and running numbers -/

/-- The draw counter, advanced (DESIGN CHOICE, log 6). -/
def State.drawn (s : State) : State := { s with draws := s.draws + 1 }
/-- The running number, advanced. -/
def State.numbered (s : State) : State := { s with nextId := s.nextId + 1 }

/-- A context's window, range or other register by control index. -/
def Ctx.reg (c : Ctx) (i : Nat) : BitVec 64 := spGet c.regs i

/-! ## Counters of the auditor (R210, R23) -/

/-- Adds to the partition counter of an index. -/
def Part.addCounter (p : Part) (i n : Nat) : Part :=
  { p with counters := spSet p.counters i (spGet p.counters i + BitVec.ofNat 64 n) }
/-- Adds to every programmable counter that counts an event. -/
def Part.countEvent (p : Part) (ev n : Nat) : Part :=
  (upFrom 0x010 16).foldl
    (fun q i => if (spGet q.events i).toNat == ev then q.addCounter i n else q) p
def State.countEvent (s : State) (part ev n : Nat) : State := s.modPart part fun p => p.countEvent ev n
def State.addCounter (s : State) (part i n : Nat) : State := s.modPart part fun p => p.addCounter i n

/-! ## Status words (R18, R175) -/

def statusWord (code reason : Nat) : BitVec 64 :=
  if code == 0 then 0 else BitVec.ofNat 64 (2 ^ 63 + reason * 256 + code)
def stOk : BitVec 64 := 0
def stRefused : BitVec 64 := statusWord 1 0
def stBusy : BitVec 64 := statusWord 4 0
def stBadHandle : BitVec 64 := statusWord 5 0
def stBadArg : BitVec 64 := statusWord 6 0
def stNoSpace : BitVec 64 := statusWord 7 0
def stState : BitVec 64 := statusWord 8 0
def stFrozen : BitVec 64 := statusWord 9 0
def stEmpty : BitVec 64 := statusWord 0xA 0
def stOrphaned : BitVec 64 := statusWord 0xB 0
def stNotOpen : BitVec 64 := statusWord 0xC 0
def stNotFound : BitVec 64 := statusWord 0xD 0
/-- REFUSED of the placement policy, reason 0x01 (R207). -/
def stPolicy : BitVec 64 := statusWord 1 1

/-- LSTAT with CODE and REASON of a status; COUNT stays (R22). -/
def lstatWith (old st : BitVec 64) : BitVec 64 :=
  (old &&& 0xFFFFFFFF00000000) ||| (st &&& 0xFFFF)

/-- Writes the status of an instruction into LSTAT (R22). -/
def State.setLstat (s : State) (c : Nat) (st : BitVec 64) : State :=
  s.modCtx c fun x => { x with lstat := lstatWith x.lstat st }

/-- A refusal's count: LSTAT.COUNT and REFCNT rise by one (R18, R22, R23). -/
def State.countRefusal (s : State) (c : Nat) : State :=
  let s1 := s.modCtx c fun x => { x with lstat := x.lstat + 0x100000000 }
  s1.modPart (s.ctx c).part fun p => { p with refcnt := p.refcnt + 1 }

/-! ## Owner and operator fault records (R332 to R335) -/

/-- The fields of an owner record (R333). -/
structure OwnerInfo where
  code : Nat
  size : Nat := 0
  lane : Nat := 0
  nopc : Bool := false
  slog : Bool := false
  kind : Nat := 0
  vpc : Nat := 0
  va : Nat := 0
  ia : Nat := 0
  ldie : Nat := 0
  lcore : Nat := 0
  team : Nat := 0
  wgid : Nat := 0
  ucode : Nat := 0
  colour : Nat := 0
  slent : Nat := 0
  pend : Bool := false
  data : Nat := 0
  deriving DecidableEq, Repr

/-- A value placed at a bit. -/
def atBit (v bit : Nat) : Nat := v * 2 ^ bit
def bit1 (b : Bool) : Nat := if b then 1 else 0

/-- The 512 bits of an owner record (R333). -/
def OwnerInfo.bits (o : OwnerInfo) (seq : Nat) : BitVec 512 :=
  BitVec.ofNat 512
    (o.code % 256 + atBit (o.size % 8) 8 + atBit (o.lane % 64) 16 + atBit (bit1 o.nopc) 22 + atBit (bit1 o.slog) 23
      + atBit (o.kind % 16) 24 + atBit (seq % 2 ^ 32) 32 + atBit (o.vpc % 2 ^ 64) 64 + atBit (o.va % 2 ^ 64) 128
      + atBit (o.ia % 2 ^ 52) 192 + atBit (o.ldie % 256) 256 + atBit (o.lcore % 64) 264 + atBit (o.team % 16) 272
      + atBit (o.wgid % 256) 280 + atBit (o.ucode % 1024) 320 + atBit (o.colour % 8) 336 + atBit (o.slent % 256) 384
      + atBit (bit1 o.pend) 392 + atBit (o.data % 2 ^ 64) 448)

/-- A counter that stops at 0xFFFF. -/
def satInc (x : BitVec 16) (n : Nat) : BitVec 16 := if x.toNat + n ≥ 0xFFFF then 0xFFFF else x + BitVec.ofNat 16 n

/-- Drops the oldest entries over a limit. -/
def keepLatest {α : Type} (n : Nat) (l : List α) : List α := l.drop (l.length - n)

/-- Writes one owner record of a context: the latest 256 are kept, counter 0x001 rises (R332, R335). -/
def State.ownerRecord (s : State) (c : Nat) (o : OwnerInfo) : State :=
  let s1 := s.modCtx c fun x =>
    let all := x.recs ++ [{ index := x.recNext.toNat, bits := o.bits x.recNext.toNat, seen := false }]
    let gone := (all.take (all.length - 256)).filter fun r => !r.seen
    { x with recs := keepLatest 256 all, recNext := x.recNext + 1, recLost := satInc x.recLost gone.length }
  s1.addCounter (s.ctx c).part 1 1

/-- The 128 bits of an operator record (R334): kind 0 read, 1 write or join, 2 atomic, 3 fetch; code 1 PAGE, 2 OWN,
3 DATAERR. -/
def opBits (handle : BitVec 32) (kind code count page : Nat) : BitVec 128 :=
  BitVec.ofNat 128 (handle.toNat + atBit (kind % 4) 32 + atBit (code % 16) 34 + atBit (count % 2 ^ 16) 48
    + atBit (page % 2 ^ 36) 64)

/-- Writes one operator record on a die: the latest 1,024 are kept, counter 0x001 rises (R334, R335). -/
def State.operatorRecord (s : State) (die c kind code count page : Nat) : State :=
  let cx := s.ctx c
  let s1 := s.modDie die fun d =>
    let all := d.opRecs ++ [{ index := d.opNext.toNat, bits := opBits cx.handle kind code count page, seen := false }]
    let gone := (all.take (all.length - 1024)).filter fun r => !r.seen
    { d with opRecs := keepLatest 1024 all, opNext := d.opNext + 1, opLost := satInc d.opLost gone.length }
  s1.addCounter cx.part 1 1

/-! ## Program counters (R152) -/

/-- The LOOP bodies that end at a program counter, innermost first: first instruction and counter. -/
abbrev Loops := List (BitVec 64 × Nat)

/-- The counter steps at a body's end (AtBodyEnd of R152), then the next program counter. -/
def Thread.advance (th : Thread) (ls : Loops) : Thread :=
  match ls with
  | [] => { th with pc := th.pc + 4 }
  | (first, c) :: rest =>
    let n := spGet th.lc c - 1
    let th' := { th with lc := spSet th.lc c n }
    if n == 0 then th'.advance rest else { th' with pc := first }

/-- The thread goes on to the next instruction, running. -/
def Thread.goOn (th : Thread) : Thread := { (th.advance th.bodies) with status := .running }

/-! ## Barriers (R155) -/

/-- Which barrier phase a thread waits for. -/
def Thread.waitsBarrier (th : Thread) (b : Nat) : Option Nat :=
  match th.status with
  | .waiting (.barrier b' ph) => if b' == b then some ph else none
  | _ => none

/-- Changes every thread of a workgroup. -/
def Wg.mapThreads (w : Wg) (f : Team → Thread → Thread) : Wg :=
  { w with teams := w.teams.map fun t => { t with threads := t.threads.map (f t) } }

def Wg.modBarrier (w : Wg) (b : Nat) (f : Barrier → Barrier) : Wg := { w with barriers := listModify f w.barriers b }
def Wg.barrier (w : Wg) (b : Nat) : Barrier := listGet ⟨0, 0, 0⟩ w.barriers b

/-- Releases every waiter of a barrier whose phase lies below a phase. -/
def State.releaseWaiters (s : State) (u b phase : Nat) : State :=
  s.modWg u fun w => w.mapThreads fun _ th =>
    match th.waitsBarrier b with
    | some ph => if ph < phase then th.goOn else th
    | none => th

/-- The current phase completes: the count is zero, the phase rises and the waiters go on. -/
def State.completePhase (s : State) (u b : Nat) : State :=
  let s1 := s.modWg u fun w => w.modBarrier b fun x => { x with phase := x.phase + 1, count := 0 }
  s1.releaseWaiters u b ((s1.wg u).barrier b).phase

/-- Does any thread wait on a barrier. -/
def Wg.hasWaiter (w : Wg) (b : Nat) : Bool :=
  w.teams.any fun t => t.threads.any fun th => (th.waitsBarrier b).isSome

/-- OnExit of R155 for one barrier: `last` is one more than the phase of the thread's last arrival, 0 for none. -/
def State.barrierExit (s : State) (u b last : Nat) : State :=
  let x := (s.wg u).barrier b
  if x.expected == 0 then s
  else
    let e := x.expected - 1
    let n := if last == x.phase + 1 then x.count - 1 else x.count
    let s1 := s.modWg u fun w => w.modBarrier b fun y => { y with expected := e, count := n }
    if e ≤ n && (0 < n || (s1.wg u).hasWaiter b) then s1.completePhase u b else s1

/-! ## Queues: roles (R144, R200) -/

/-- A queue that no team has a role in closes and discards its slots (R200). -/
def Queue.settle (q : Queue) : Queue :=
  if q.opened && q.producers.isEmpty && q.consumers.isEmpty then { q with opened := false, slots := [], poison := [] } else q

/-- A team gives up roles of a queue. -/
def Queue.dropRoles (q : Queue) (t : Nat) (prod cons : Bool) : Queue :=
  ({ q with producers := if prod then q.producers.filter (fun x => x != t) else q.producers,
            consumers := if cons then q.consumers.filter (fun x => x != t) else q.consumers }).settle

/-- Producer count: teams with the role, and engine records that fill the queue (R144, R193). -/
def Queue.producerCount (q : Queue) : Nat := q.producers.length + q.engineProducers

/-- Slots of a queue in all (R231). -/
def Queue.capacity (q : Queue) : Nat := 2 ^ 16 / q.width
def Queue.free (q : Queue) : Nat := q.capacity - q.slots.length

/-! ## Leaving (R153, R155, R11, R215) -/

def Thread.exited (th : Thread) : Bool := th.status == .exited
def Team.ended (t : Team) : Bool := t.threads.all Thread.exited
def Wg.ended (w : Wg) : Bool := w.teams.all Team.ended

/-- v32 to v63 of a thread zeroed, and whole again. -/
def Thread.clearExtended (th : Thread) : Thread :=
  { th with v := spClear th.v 32 64, poison := th.poison.filter fun r => decide (r < 32) }
/-- A team gives up its extended block: v32 to v63 are zeroed before another team can read them (R11). -/
def Team.dropBlock (t : Team) : Team :=
  { t with ext := false, threads := t.threads.map Thread.clearExtended }

/-- Does a thread wait to give its team's block to a team (XGIVE, R189). -/
def Thread.givesTo (th : Thread) (t : Nat) : Bool := th.status == .waiting (.give t)

/-- The L2 slice that is home to an IA (R232); any 80 consecutive lines have distinct ones (DESIGN CHOICE, log 77). -/
def sliceOf (ia : Nat) : Nat := ia / 256 % 80

/-- How many waiters of a slice threshold loads hold (R277). -/
def State.sliceWaiters (s : State) (home ia : Nat) : Nat :=
  (s.waiters.filter fun y => y.cell && !y.polling && !y.abandoned && y.home == home && sliceOf y.ia == sliceOf ia).length

/-- A wait begun now: a threshold load whose slice has no waiter free polls (R136, R277). -/
def Waiter.begun (s : State) (now : Nat) (y : Waiter) : Waiter :=
  { y with abandoned := false, start := now, polling := y.cell && decide (256 ≤ s.sliceWaiters y.home y.ia),
           nextPoll := s.time + 4000 }

/-- How a thread stands that has gone on past threshold loads which begin again: in the region of one, held on PAGE of one, or free
to run (R125, R126). -/
def State.againStatus (s : State) (u ti l : Nat) : Status :=
  let mine (a : Access) : Bool := a.again && a.wg == u && a.team == ti
  match findFirst (fun a => mine a && a.lanes.any fun x => x.lane == l && x.verdict == .page) s.accs,
    findFirst (fun a => mine a && a.lanes.any fun x => x.lane == l) s.accs with
  | some a, _ => .held a.id
  | none, some a => .region a.id
  | none, none => .running
/-- Is a status one that a threshold load which begins again gives, or the running one. -/
def State.followsAgain (s : State) (t : Status) : Bool :=
  let ours (id : Nat) : Bool := s.accs.all fun a => a.id != id || a.again
  match t with
  | .running => true
  | .region id => ours id
  | .held id => ours id
  | _ => false
/-- A thread takes the status that its threshold loads which begin again give it; one that waits otherwise waits on. -/
def State.settleAgain (s : State) (u ti l : Nat) : State :=
  s.modThread u ti l fun th => if s.followsAgain th.status then { th with status := s.againStatus u ti l } else th

/-- The access of threshold loads of one issue that begin again. -/
def againAccess (id : Nat) (x : Waiter) (xs : List Waiter) : Access :=
  { id := id, wg := x.wg, team := x.team, pc := x.pc, kind := .threshold, bytes := x.bytes, dest := x.dest, uniform := false,
    hint := .normal, order := .rlx, colour := 0, limit := x.limit, group := maskOf (fun l => xs.any fun y => y.lane == l),
    discarded := false, again := true,
    lanes := xs.map fun y => { lane := y.lane, va := y.va, kind := .lattice, ltype := y.ltype, home := y.home, ia := y.ia,
                               data := y.threshold, data2 := 0, verdict := .waiting } }

/-- The threshold loads of a list, which one issue began, issue again: each is an access that awaits its verdict, and its result
stays outstanding (R136) (DEDUCED, log 29). -/
def State.reissueWaits (s : State) (xs : List Waiter) : State :=
  match xs with
  | [] => s
  | x :: _ =>
    let n := s.nextId
    let relabel (th : Thread) : Thread :=
      { th with outs := mapWhere (fun o => o.id == x.id && !o.ready) (fun o => { o with id := n }) th.outs }
    let s1 : State := { s with waiters := s.waiters.filter fun y => !xs.contains y, accs := s.accs ++ [againAccess n x xs] }
    xs.foldl (fun acc y => (acc.modThread y.wg y.team y.lane relabel).settleAgain y.wg y.team y.lane) s1.numbered

/-- Threshold loads that pass a test issue again, those of one issue together. -/
def State.reissueWhere (s : State) (p : Waiter → Bool) : State :=
  let xs := s.waiters.filter fun x => x.cell && p x
  (xs.map Waiter.id).eraseDups.foldl (fun acc id => acc.reissueWaits (xs.filter fun x => x.id == id)) s

/-- What a pre-emption has abandoned of a workgroup begins again: threshold loads issue again, engine waits begin their limit again
(R136, R156, R176, R277) (DEDUCED, log 29). -/
def State.restartWaits (s : State) (u : Nat) : State :=
  let now := (s.ctx (s.wg u).ctx).cycles.toNat
  let mine (x : Waiter) : Bool := x.wg == u && x.abandoned
  let s1 := s.reissueWhere mine
  { s1 with waiters := mapWhere mine (Waiter.begun s1 now) s1.waiters }

/-- A launch of a context waits for tokens: the contexts of its partition that read CAPCAUSE later see the cause (R381). -/
def State.seeLease (s : State) (c : Nat) : State :=
  let p := (s.ctx c).part
  { s with ctxs := mapWhere (fun x => x.part == p) (fun x => { x with seen := x.seen ||| 0x10 }) s.ctxs }

/-- A thread whose operation Percale has not completed asks again (R209). -/
def Thread.lookAgain (th : Thread) : Thread :=
  match th.status with
  | .waiting (.service _) => { th with status := .running }
  | _ => th
/-- A frozen workgroup goes on. -/
def State.thawWg (s : State) (u : Nat) : State :=
  (s.modWg u fun w => { (w.mapThreads fun _ th => th.lookAgain) with frozen := false }).restartWaits u

/-- An engine that a pre-emption has stopped starts again (R339). -/
def Eng.resumed (e : Eng) : Eng := { e with paused := false, finishing := false }

/-- The urgent partition of a core is free again: the workgroups frozen for it continue (R206, R323). -/
def State.continueVictim (s : State) (die core : Nat) : State :=
  match findFirst (fun p => p.core == core) (s.die die).preempts with
  | none => s
  | some p =>
    let s1 := s.modDie die fun d => { d with preempts := d.preempts.filter fun q => q.core != core }
    let us := (s1.wgs.filter fun w => w.ctx == p.victim && w.die == die && w.core == core && w.frozen).map Wg.uid
    let s2 := s1.modCtx p.victim fun c =>
      { c with state := if c.state == .frozen then .running else c.state,
               bound := if c.state == .frozen then none else c.bound,
               engines := c.engines.map Eng.resumed }
    us.foldl State.thawWg s2

/-- When the last team of an urgent workgroup has ended, the workgroups frozen for it continue (R206, R323). -/
def State.urgentOver (s : State) (u : Nat) : State :=
  if (s.wg u).urgent && (s.wg u).ended then s.continueVictim (s.wg u).die (s.wg u).core else s

/-- A team whose last live thread has left gives up its blocks and queue registrations (R153); an XGIVE that waits for the team
looks again (R189). -/
def Wg.settleTeam (w : Wg) (t : Nat) : Wg :=
  let w1 := w.modTeam t fun x => { x.dropBlock with extReserved := false, blockTurn := 0 }
  let w2 := w1.mapThreads fun _ th => if th.givesTo t then { th with status := .running } else th
  { w2 with queues := w2.queues.map fun q => q.dropRoles t true true }
def State.settleTeam (s : State) (u t : Nat) : State :=
  if ((s.wg u).team t).ended then (s.modWg u fun w => w.settleTeam t).urgentOver u else s

/-- A thread leaves (R153): barriers are adjusted, and the team settles. -/
def State.leave (s : State) (u t l : Nat) : State :=
  let th := ((s.wg u).team t).thread l
  let s1 := s.modThread u t l fun x => { x with status := .exited, outs := [] }
  let s2 := (upFrom 0 16).foldl (fun acc b => acc.barrierExit u b (spGet th.arrived b).toNat) s1
  s2.settleTeam u t

/-! ## Traps (R203) -/

/-- Trap class of a cause (R202). -/
def trapClass (code : Nat) : Nat :=
  if code == 0x11 then 0 else if code == 0x10 then 1
  else if 0x06 ≤ code && code ≤ 0x09 then 2
  else if 0x01 ≤ code && code ≤ 0x04 then 3
  else if code == 0x05 then 5 else 4

/-- INH of TCAUSE. -/
def Thread.inh (th : Thread) : Bool := th.tcause.getLsbD 63
/-- TCAUSE with INH set (R183). -/
def tcauseOf (code ucode : Nat) : BitVec 64 := BitVec.ofNat 64 (2 ^ 63 + ucode * 256 + code)

/-- Where a workgroup runs, for an owner record. -/
def OwnerInfo.place (o : OwnerInfo) (w : Wg) (t : Nat) : OwnerInfo :=
  { o with ldie := w.ldie, lcore := w.lcore, team := t, wgid := w.wgid }

/-- Delivers a trap to one thread (Deliver of R203), all its results having returned. -/
def State.deliver (s : State) (u t l : Nat) (k : TrapInfo) : State :=
  let w := s.wg u
  let th := (w.team t).thread l
  let h := spGet (s.record w.launch).handlers (trapClass k.code)
  if h == 0 || th.inh then
    let s1 := if k.recorded || !k.lead then s
      else s.ownerRecord w.ctx (OwnerInfo.place
        { code := k.code, size := k.size, lane := k.recLane, kind := k.kind, vpc := th.pc.toNat, va := k.va,
          ia := k.ia, ucode := k.ucode, colour := k.colour, data := k.data } w t)
    s1.leave u t l
  else
    s.modThread u t l fun x =>
      { x with tcause := tcauseOf k.code k.ucode,
               tepc := if k.code == 0x10 || k.code == 0x11 then x.pc + 4 else x.pc,
               pc := h, status := .running }

/-- Is a thread about to receive a trap at a program counter. -/
def Thread.trapsAt (th : Thread) (pc : BitVec 64) : Bool :=
  match th.status with
  | .trapping _ => th.pc == pc
  | _ => false
/-- Can a thread receive the fault it meets: nothing of it is outstanding (R203), and no lower lane has still to receive one of
the same instruction: those are reported in ascending order of lanes (R47). -/
def Team.receives (t : Team) (l : Nat) : Bool :=
  (t.thread l).outs.isEmpty && !(t.threads.take l).any fun th => th.trapsAt (t.thread l).pc

/-- A fault met by a thread: the trap is delivered at once when nothing is outstanding, else when the last result has
returned (R203), in the order of the lanes (R47). -/
def State.raise (s : State) (u t l : Nat) (k : TrapInfo) : State :=
  if ((s.wg u).team t).receives l then s.deliver u t l k
  else s.modThread u t l fun x => { x with status := .trapping k }

/-- A plain cause without an access. -/
def plainTrap (code lane : Nat) : TrapInfo :=
  { code := code, ucode := 0, lead := true, recLane := lane, recorded := false, kind := 0, size := 0, va := 0, ia := 0,
    colour := 0, data := 0 }

/-- Every lane of a list meets the same cause on its own (R121). -/
def State.raiseEach (s : State) (u t : Nat) (ls : List Nat) (f : Nat → TrapInfo) : State :=
  ls.foldl (fun acc l => acc.raise u t l (f l)) s

/-- Has a thread no handler to go to for a cause (R203). -/
def State.unhandled (s : State) (w : Wg) (t l code : Nat) : Bool :=
  spGet (s.record w.launch).handlers (trapClass code) == 0 || ((w.team t).thread l).inh

/-- A uniform instruction faults in every thread of its group; one owner record, naming the lowest lane, stands for
the issue (R174). -/
def State.raiseGroup (s : State) (u t : Nat) (m : BitVec 64) (k : TrapInfo) : State :=
  let w := s.wg u
  let ls := lanesOf m
  let lead := (ls.find? fun l => s.unhandled w t l k.code).getD 64
  s.raiseEach u t ls fun l => { k with lead := l == lead, recLane := lowestLane m }

/-! ## The issue group -/

/-- Runs a meaning on the issue group of `cur` and its workgroup and team. -/
def State.withGroup (s : State) (f : Group → Wg → Team → State) : Result :=
  match s.cur with
  | none => .refused .noIssueGroup
  | some g =>
    if (s.wg g.wg).uid == g.wg && decide (g.wg ≠ 0) && decide (g.team < (s.wg g.wg).teams.length) then
      .next (f g (s.wg g.wg) ((s.wg g.wg).team g.team))
    else .refused .noIssueGroup

/-- Every thread of the group goes on to the next instruction. -/
def State.goOn (s : State) (g : Group) : State := s.modLanes g.wg g.team g.lanes fun _ th => th.goOn

/-- The group's lanes that the team has. -/
def Group.live (g : Group) (t : Team) : List Nat := (lanesOf g.lanes).filter fun l => decide (l < t.threads.length)

/-- Sets the status of the group's threads. -/
def State.park (s : State) (g : Group) (st : Status) : State :=
  s.modLanes g.wg g.team g.lanes fun _ th => { th with status := st }

/-! ## Outstanding results (R28) -/

/-- Adds an outstanding result to a thread. -/
def Thread.addOut (th : Thread) (o : Out) : Thread := { th with outs := th.outs ++ [o] }

/-- A uniform result that becomes pending: each thread of the group waits for it, the team holds its value (R32). -/
def State.addUniformOut (s : State) (g : Group) (ready : Bool) (regs : List (Nat × BitVec 64)) : State :=
  s.modTeam g.wg g.team fun t =>
    { (t.modLanes g.lanes fun _ th => th.addOut { id := g.id, ready := ready, regs := [], p6 := none, flags := 0 })
      with uouts := t.uouts ++ [{ id := g.id, ready := ready, regs := regs }] }

/-- The value of a pending uniform result has been formed. -/
def State.readyUniform (s : State) (u t id : Nat) (regs : List (Nat × BitVec 64)) : State :=
  s.modTeam u t fun tm =>
    { tm with uouts := mapWhere (fun o => o.id == id) (fun o => { o with ready := true, regs := regs }) tm.uouts,
              threads := tm.threads.map fun th =>
                { th with outs := mapWhere (fun o => o.id == id) (fun o => { o with ready := true }) th.outs } }

/-- A long-latency uniform result whose value is known at issue; the group goes on. -/
def State.pendUniform (s : State) (g : Group) (regs : List (Nat × BitVec 64)) : State :=
  (s.addUniformOut g true regs).goOn g

/-- One result returns to its thread (R28, R86): registers, p6, flags. -/
def Thread.takeOut (th : Thread) (o : Out) : Thread :=
  let th1 := th.setVs o.regs
  let th2 := match o.p6 with
    | some b => th1.setPred 6 b
    | none => th1
  { th2 with jst := th2.jst ||| o.flags }

/-- Every ready result of an issue returns to the thread. -/
def Thread.returnOuts (th : Thread) (id : Nat) : Thread :=
  let mine := th.outs.filter fun o => o.id == id && o.ready
  { (mine.foldl Thread.takeOut th) with outs := th.outs.filter fun o => !(o.id == id && o.ready) }

/-- May a result of an issue be written to a uniform register: no later issue has written it since (R32). -/
def Team.inOrder (t : Team) (id r : Nat) : Bool := decide ((spGet t.sOrder r).toNat ≤ id)
/-- Remembers that an issue has written uniform registers, while results of earlier issues are outstanding. -/
def Team.wrote (t : Team) (id : Nat) (rs : List Nat) : Team :=
  { t with sOrder := rs.foldl (fun m r => spSet m r (BitVec.ofNat 64 id)) t.sOrder }

/-- Every ready result of an issue returns to the team's threads and uniform registers (R219); groups write a uniform register
in the order they executed (R32). -/
def Team.returnOuts (t : Team) (id : Nat) : Team :=
  let mine := t.uouts.filter fun o => o.id == id && o.ready
  let regs := (mine.flatMap UOut.regs).filter fun r => t.inOrder id r.1
  { ((t.setSs regs).wrote id (regs.map Prod.fst)) with
    uouts := t.uouts.filter fun o => !(o.id == id && o.ready),
    threads := t.threads.map fun th => th.returnOuts id }

/-! ## Privileged instructions and refusals (R18 to R25) -/

/-- Rights of an instruction: operator, owner, auditor (R19). -/
structure Rights where
  op : Bool
  own : Bool
  aud : Bool
  deriving DecidableEq, Repr

def Rights.allows (r : Rights) (auth : Nat) : Bool :=
  if auth == 0 then r.op else if auth == 1 then r.own else r.aud

def operatorOnly : Rights := ⟨true, false, false⟩
def ownerOnly : Rights := ⟨false, true, false⟩
def auditorOnly : Rights := ⟨false, false, true⟩
def operatorOwner : Rights := ⟨true, true, false⟩

/-- A status written at once to sD and to LSTAT; the group goes on. -/
def State.status (s : State) (g : Group) (w : Wg) (d : Nat) (st : BitVec 64) : State :=
  ((s.modTeam g.wg g.team fun x => x.setS d st).setLstat w.ctx st).goOn g

/-- A refusal: REFUSED to sD and LSTAT, the counts rise, the group goes on (R18). -/
def State.refuse (s : State) (g : Group) (w : Wg) (d : Nat) : State :=
  (s.countRefusal w.ctx).status g w d stRefused

/-- A privileged instruction: refused, or executed (R19). -/
def State.privileged (s : State) (r : Rights) (d : Nat) (f : Group → Wg → Team → State) : Result :=
  s.withGroup fun g w t => if r.allows (s.ctx w.ctx).auth then f g w t else s.refuse g w d

end Sys2Proof.Machine
end

