-- ==== Sys2Proof/Machine/Mem.lean ====
section
/-!
DEFINITION. Memory: ranges (R325), page tables as published and frame ownership (R328 to R331), verdicts (R125), the
cluster caches and the read-only path over the point of coherence (R224, R225, R235, R261), format views (R69 to R73)
and poisoned words (R237). A byte of host memory at address `a` has key `a`; byte `a` of die `d` has key
`(d+1)·2^64 + a`.
-/
namespace Sys2Proof.Machine

def devKey (die a : Nat) : Nat := (die + 1) * 2 ^ 64 + a
/-- Die of a key; none for host memory. -/
def keyDie (k : Nat) : Option Nat := if k < 2 ^ 64 then none else some (k / 2 ^ 64 - 1)

/-! ## Ranges -/

/-- Where a range leads an access. -/
structure Hit where
  n : Nat
  kind : RangeKind
  ltype : Nat
  region : Nat
  pdie : Nat
  ia : Nat
  deriving DecidableEq, Repr

def rangeKindOf (k : Nat) : RangeKind :=
  match k with
  | 0 => .plain | 1 => .lattice | 2 => .peer | 3 => .host | 4 => .format | _ => .code

def Ctx.rbase (c : Ctx) (n : Nat) : Nat := field (c.reg (0x20 + 4 * n)) 16 47
def Ctx.rlim (c : Ctx) (n : Nat) : Nat := field (c.reg (0x21 + 4 * n)) 16 47
def Ctx.roff (c : Ctx) (n : Nat) : Nat := field (c.reg (0x22 + 4 * n)) 16 36
def Ctx.rattr (c : Ctx) (n : Nat) : BitVec 64 := c.reg (0x23 + 4 * n)
def Ctx.rangeEnabled (c : Ctx) (n : Nat) : Bool := (c.rattr n).getLsbD 0

/-- Does range n cover `size` bytes at `va` (R124, R325). -/
def Ctx.covers (c : Ctx) (n va size : Nat) : Bool :=
  c.rangeEnabled n && decide (c.rbase n * 65536 ≤ va) && decide (va + size ≤ (c.rlim n + 1) * 65536)

/-- The enabled range that covers every byte of an access. -/
def Ctx.hit (c : Ctx) (va size : Nat) : Option Hit :=
  match findFirst (fun n => c.covers n va size) (upFrom 0 16) with
  | none => none
  | some n => some
    { n := n, kind := rangeKindOf (field (c.rattr n) 1 3), ltype := field (c.rattr n) 4 4,
      region := field (c.rattr n) 8 4, pdie := field (c.rattr n) 12 5,
      ia := c.roff n * 65536 + va - c.rbase n * 65536 }

/-- The last page of IA space of a die takes messages only (R357). -/
def messageBase : Nat := 0xFFFFFFFFF0000

/-! ## Partitions and dies -/

/-- Physical die of a logical die by DIEMAP (R351). -/
def Part.phys (p : Part) (l : Nat) : Option Nat :=
  let x := spGet p.diemap l
  if x.getLsbD 5 then some (field x 0 5) else none
/-- NDIE (R351). -/
def Part.ndie (p : Part) : Nat := countWhere (fun l => (p.phys l).isSome) (upFrom 0 24)
/-- Logical number of a physical die. -/
def Part.logicalOf (p : Part) (d : Nat) : Option Nat := findFirst (fun l => p.phys l == some d) (upFrom 0 24)
/-- The table as a list: physical die of each logical die (R3). -/
def Part.resolve (p : Part) : List Nat := (upFrom 0 p.ndie).map fun l => (p.phys l).getD 31
/-- Physical dies of a partition. -/
def State.diesOf (s : State) (p : Nat) : List Nat := (upFrom 0 24).filter fun d => (s.die d).part == some p

/-! ## Pages and frames -/

/-- What the walker answers for an IA page of a die. -/
inductive PageAns where
  | unmapped
  | waits
  | local (die frame : Nat)
  | host (page : Nat)
  deriving DecidableEq, Repr

/-- The published entry of an IA page (R328). -/
def Die.mapping (d : Die) (page : Nat) : Option Mapping := findFirst (fun m => m.page == page) d.published
/-- A frame's ownership entry (R329). -/
def Die.frame (d : Die) (f : Nat) : FrameEntry := (findFirst (fun e => e.frame == f) d.frames).getD (FrameEntry.init f)
/-- Changes the entry of a frame in a list of entries. -/
def modEntry (es : List FrameEntry) (f : Nat) (g : FrameEntry → FrameEntry) : List FrameEntry :=
  g ((findFirst (fun e => e.frame == f) es).getD (FrameEntry.init f)) :: es.filter (fun e => e.frame != f)
/-- Changes a frame's entry. -/
def Die.modFrame (d : Die) (f : Nat) (g : FrameEntry → FrameEntry) : Die :=
  { d with frames := g (d.frame f) :: d.frames.filter (fun e => e.frame != f) }

/-- Where the content of a page is: a frame of a die, or a host page with no die (R328, R364). -/
def Mapping.spot (m : Mapping) (die : Nat) : Option Nat × Nat :=
  m.moved.getD (if m.host then (none, m.frame) else (some die, m.frame))
/-- The number under which the host pages that evacuation wrote stand as frames (R364). -/
def evacDie : Nat := 24
/-- The ownership entry of a frame, evacuated host pages among them (R329, R364). -/
def State.frameOf (s : State) (die f : Nat) : FrameEntry :=
  if die == evacDie then (findFirst (fun e => e.frame == f) s.hostFrames).getD (FrameEntry.init f) else (s.die die).frame f
/-- Changes it. -/
def State.modFrameOf (s : State) (die f : Nat) (g : FrameEntry → FrameEntry) : State :=
  if die == evacDie then { s with hostFrames := modEntry s.hostFrames f g } else s.modDie die fun d => d.modFrame f g
/-- Memory key of the first byte of a page's content. -/
def spotKey (x : Option Nat × Nat) : Nat :=
  match x with
  | (none, p) => p * 65536
  | (some d, f) => devKey d (f * 65536)

/-- The canonical form of memory: addresses strictly rising, and no byte listed that reads as an unlisted one does. -/
def Memory.wf (m : Sparse 8) : Bool := spWf m

/-- The memory that holds a frame of a die: HBM stack 0 or 1, or the LP tier as 2 (R238) (PRESUMED, log 49). -/
def frameStack (f : Nat) : Nat := if f < 2 ^ 20 then 0 else if f < 2 ^ 21 then 1 else 2
/-- Is a frame in memory that failed at bring-up (R382). -/
def Die.absentFrame (d : Die) (f : Nat) : Bool := d.retired.contains (.stack (frameStack f))

/-- The walk of a page (R328); memory that failed at bring-up is absent (R382) (DEDUCED, log 36). A frame number past the die's
memory (5·2^20 and above) serves as any other does (DESIGN CHOICE, log 49). -/
def State.walk (s : State) (die ia : Nat) : PageAns :=
  match (s.die die).mapping (ia / 65536) with
  | none => .unmapped
  | some m =>
    if m.copying then .waits
    else
      match m.spot die with
      | (none, p) => .host p
      | (some d, f) => if (s.die d).absentFrame f then .unmapped else .local d f

/-- Memory key of a byte of IA; none where the page is not mapped. A frame that its world owns and that is published anew at another
IA reads as it stands: R330 gives such a publication no effect, and R234, whose tweak is the IA, does not say what a load
gets (DESIGN CHOICE, log 10). -/
def State.keyOf (s : State) (die ia : Nat) : Option Nat :=
  match s.walk die ia with
  | .local d f => some (devKey d (f * 65536 + ia % 65536))
  | .host p => some (p * 65536 + ia % 65536)
  | _ => none

/-- The class of an access, for the checks of R331. -/
inductive Way where
  | read | write | atomic | fetch
  deriving DecidableEq, Repr

/-- Ownership check of R331 on a local frame. -/
def frameVerdict (e : FrameEntry) (world : BitVec 16) (kind : RangeKind) (way : Way) : Verdict :=
  if e.scrubp && e.owner == world then .waiting
  else if e.owner != world || e.isSealed then .own
  else if e.lattice && (kind == .plain || kind == .format) then .own
  else if e.format && (way == .write || way == .atomic) then .own
  else .mapped

/-- The verdict of the memory side for one byte range inside a page (R125). -/
def State.verdict (s : State) (die ia : Nat) (world : BitVec 16) (kind : RangeKind) (way : Way) : Verdict :=
  match s.walk die ia with
  | .unmapped => .page
  | .waits => .waiting
  | .host _ => .mapped
  | .local d f => frameVerdict (s.frameOf d f) world kind way

/-- EXPBm and EXPLm of a context on a die (R352): each die of the partition has its own eight entries, kept at the
control index plus 0x1000 for each die. -/
def exportKey (die i : Nat) : Nat := i + 0x1000 * (die + 1)
def Ctx.expb (c : Ctx) (die m : Nat) : BitVec 64 := c.reg (exportKey die (0x90 + 2 * m))
def Ctx.expl (c : Ctx) (die m : Nat) : BitVec 64 := c.reg (exportKey die (0x91 + 2 * m))

/-- The export entries of a world on a die that hold a span of IA pages wholly, each with its RO bit (R352, R353). -/
def State.exportsOf (s : State) (world : BitVec 16) (part die lo n : Nat) : List Bool :=
  (s.ctxs.filter fun c => c.world == world && c.part == part).flatMap fun c => ((upFrom 0 8).filter fun m =>
    (c.expb die m).getLsbD 0 && decide (field (c.expb die m) 16 36 ≤ lo) && decide (lo + n ≤ field (c.expl die m) 16 36 + 1)).map
      fun m => (c.expb die m).getLsbD 1

/-- Does the export that a context's peer range lies in carry RO (R353): every enabled entry that holds the range does. -/
def State.exportRo (s : State) (c : Ctx) (die va : Nat) : Bool :=
  match c.hit va 1 with
  | none => false
  | some h =>
    let xs := s.exportsOf c.world c.part die (c.roff h.n) (c.rlim h.n + 1 - c.rbase h.n)
    !xs.isEmpty && xs.all id

/-! ## Cluster caches (R225, R261) -/

def clusterOf (core : Nat) : Nat := core / 4

/-- Banks of a cluster that are in cache mode: those of no allocation and those set so, but for retired ones (R225, R226,
R362). -/
def State.cacheWays (s : State) (die cl : Nat) : Nat :=
  let here := s.wgs.filter fun w => w.die == die && clusterOf w.core == cl
  let retired (b : Nat) : Bool := (s.die die).retired.any fun r => r == .bank cl b
  let cached (w : Wg) (b : Nat) : Bool :=
    match findFirst (fun i => listGet 8 w.units i == b / 4) (upFrom 0 w.units.length) with
    | some i => spGet w.bankModes (4 * i + b % 4) == 1
    | none => true
  countWhere (fun b => !retired b && here.all fun w => cached w b) (upFrom 0 (if cl == 15 then 28 else 32))

def CWord.at (c : CWord) (die cl word : Nat) : Bool := c.die == die && c.cluster == cl && c.word == word

def State.cword (s : State) (die cl word : Nat) : Option CWord := findFirst (fun c => c.at die cl word) s.cwords

/-- Byte i of a word. -/
def byteOf (x : BitVec 32) (i : Nat) : BitVec 8 := (x >>> (8 * i)).setWidth 8
/-- A word with byte i replaced. -/
def setByte (x : BitVec 32) (i : Nat) (b : BitVec 8) : BitVec 32 :=
  (x &&& ~~~(0xFF#32 <<< (8 * i))) ||| ((b.setWidth 32) <<< (8 * i))

/-- Writes the dirty bytes of a word to memory. -/
def mergeDirty (m : Sparse 8) (c : CWord) : Sparse 8 :=
  (upFrom 0 4).foldl (fun acc i => if c.dirty.getLsbD i then spSet acc (4 * c.word + i) (byteOf c.value i) else acc) m

/-- Writes back the dirty words that pass a test; they stay, clean. -/
def State.flush (s : State) (p : CWord → Bool) : State :=
  { s with mem := s.cwords.foldl (fun m c => if p c then mergeDirty m c else m) s.mem,
           cwords := mapWhere p (fun c => { c with dirty := 0 }) s.cwords }

/-- The other word of an aligned pair of words. -/
def pairOf (word : Nat) : Nat := if word % 2 == 0 then word + 1 else word - 1

/-- Is a cluster's word one of a pair of which the cluster owns a word. Words of a pair go to L2 and change their owner together,
since an aligned access of 8 bytes is one event (R245). -/
def State.inOwnedPair (s : State) (c : CWord) : Bool :=
  s.cwords.any fun d => d.owned && d.die == c.die && d.cluster == c.cluster && (d.word == c.word || d.word == pairOf c.word)

/-- L2 recalls a pair of words from the clusters that own one of them, but for one cluster: each writes both back and drops them
(R261). -/
def State.recall (s : State) (word die cl : Nat) : State :=
  let at_ (c : CWord) : Bool := (c.word == word || c.word == pairOf word) && s.inOwnedPair c && !(c.die == die && c.cluster == cl)
  { (s.flush at_) with cwords := (s.flush at_).cwords.filter fun c => !at_ c }

/-- Writes back one cluster's word, and with it the other word of its aligned 8 bytes, and registers the cluster as the owner
(R261, R245). -/
def State.writeBack (s : State) (die cl word : Nat) : State :=
  let here (c : CWord) : Bool := c.at die cl word || c.at die cl (pairOf word)
  let s2 := (s.recall word die cl).flush here
  { s2 with cwords := mapWhere here (fun c => { c with owned := !c.peer }) s2.cwords }

/-- Writes back every dirty word that passes a test, as R261 says. -/
def State.writeBackAll (s : State) (p : CWord → Bool) : State :=
  (s.cwords.filter fun c => p c && c.dirty != 0).foldl (fun acc c => acc.writeBack c.die c.cluster c.word) s

/-- Drops words; dirty ones are written back first. -/
def State.dropWords (s : State) (p : CWord → Bool) : State :=
  { (s.writeBackAll p) with cwords := (s.writeBackAll p).cwords.filter fun c => !p c }

/-- A word whose clean bytes take another value. -/
def CWord.over (c : CWord) (x : BitVec 32) : CWord :=
  { c with value := (upFrom 0 4).foldl (fun v i => if c.dirty.getLsbD i then setByte v i (byteOf c.value i) else v) x }

/-- The 4-byte words that `n` bytes at a key touch. -/
def wordsOf (key n : Nat) : List Nat := if n == 0 then [] else upFrom (key / 4) ((key + n - 1) / 4 - key / 4 + 1)

/-- A poisoned word in memory becomes whole again when a store covers it (R237). -/
def unpoison (ps : List Nat) (key n : Nat) : List Nat :=
  ps.filter fun w => !(decide (key ≤ 8 * w) && decide (8 * w + 8 ≤ key + n))

/-- Does a read of `n` bytes at a key touch a poisoned word. -/
def State.poisoned (s : State) (key n : Nat) : Bool :=
  s.poison.any fun w => decide (8 * w < key + n) && decide (key < 8 * w + 8)

/-- A write at the point of coherence: owners are recalled, the bytes replaced. -/
def State.l2Write (s : State) (key n v : Nat) : State :=
  let s1 := (wordsOf key n).foldl (fun a w => a.recall w 24 0) s
  { s1 with mem := writeLE s1.mem key n v, poison := unpoison s1.poison key n }

/-- A read at the point of coherence: owned words are written back first. -/
def State.l2Read (s : State) (key n : Nat) : State × Nat :=
  let ws := wordsOf key n
  let s1 := s.flush fun c => (ws.contains c.word || ws.contains (pairOf c.word)) && s.inOwnedPair c
  (s1, readLE s1.mem key n)

/-- The value of one byte as a cluster's cache and L2 give it. -/
def State.cachedByte (s : State) (die cl key : Nat) : BitVec 8 :=
  match s.cword die cl (key / 4) with
  | some c => byteOf c.value (key % 4)
  | none => spGet s.mem key

def State.cachedRead (s : State) (die cl key n : Nat) : Nat :=
  match n with
  | 0 => 0
  | k + 1 => (s.cachedByte die cl key).toNat + 256 * s.cachedRead die cl (key + 1) k

/-- The word of memory a fill brings. -/
def memWord (m : Sparse 8) (w : Nat) : BitVec 32 := BitVec.ofNat 32 (readLE m (4 * w) 4)

/-- The clean bytes of the words that pass a test are fetched again; an owner elsewhere writes its word back first. -/
def State.refresh (s : State) (p : CWord → Bool) : State :=
  let s1 := s.flush fun c => s.inOwnedPair c && s.cwords.any fun d => p d && (d.word == c.word || d.word == pairOf c.word)
  { s1 with cwords := mapWhere p (fun c => c.over (memWord s1.mem c.word)) s1.cwords }

/-- The lines of 128 bytes that a cluster's cache holds in the set of a word, the oldest first (R225). -/
def State.setLines (s : State) (die cl word : Nat) : List Nat :=
  (s.cwords.filter fun c => c.die == die && c.cluster == cl && c.word / 32 % 512 == word / 32 % 512).foldl
    (fun acc c => if acc.contains (c.word / 32) then acc else acc ++ [c.word / 32]) []

/-- A set holds at most one line for each way: a line over that leaves, the oldest of the others first (R225; DESIGN CHOICE,
log 9). -/
def State.trimSet (s : State) (die cl word : Nat) : State :=
  let ls := s.setLines die cl word
  let gone := (ls.filter fun l => l != word / 32).take (ls.length - s.cacheWays die cl)
  if gone.isEmpty then s else s.dropWords fun c => c.die == die && c.cluster == cl && gone.contains (c.word / 32)

/-- Enters a word that the cluster does not hold. -/
def State.enterWord (s : State) (die cl w : Nat) (value : BitVec 32) (peer : Bool) : State :=
  ({ s with cwords := s.cwords ++
    [{ die := die, cluster := cl, word := w, value := value, dirty := 0, owned := false, peer := peer }] } : State).trimSet die cl w

/-- Fills a word that the cluster does not hold; an owner elsewhere writes it back first. The other word of its aligned 8
bytes, if it is held and not owned, is fetched again with it (R245). -/
def State.fillWord (s : State) (die cl : Nat) (peer : Bool) (w : Nat) : State :=
  match s.cword die cl w with
  | some _ => s
  | none =>
    let s1 := s.flush fun c => (c.word == w || c.word == pairOf w) && s.inOwnedPair c
    (s1.enterWord die cl w (memWord s1.mem w) peer).refresh fun c => c.at die cl (pairOf w) && !c.owned

/-- A load served at L2: the cluster's own dirty words still show, and a copy it does not own goes, so that no later load
reads an older value (R131 .nocc, R248). -/
def State.noccLoad (s : State) (die cl key n : Nat) : State × Nat :=
  let s1 := s.dropWords fun c => c.die == die && c.cluster == cl && !c.owned
    && (wordsOf key n).any fun w => c.word == w || c.word == pairOf w
  s1.l2Read key n

/-- A load that may allocate in the cluster cache; with no way it is served as under .nocc (R131, R225). -/
def State.clusterLoad (s : State) (die cl : Nat) (peer : Bool) (key n : Nat) : State × Nat :=
  if s.cacheWays die cl == 0 then s.noccLoad die cl key n
  else
    let s1 := (wordsOf key n).foldl (fun a w => a.fillWord die cl peer w) s
    (s1, s1.cachedRead die cl key n)

/-- Writes bytes into a cluster's word. -/
def CWord.put (c : CWord) (key n v : Nat) : CWord :=
  (upFrom 0 4).foldl (fun a i =>
    if key ≤ 4 * c.word + i ∧ 4 * c.word + i < key + n then
      { a with value := setByte a.value i (BitVec.ofNat 8 (v / 2 ^ (8 * (4 * c.word + i - key)))),
               dirty := a.dirty ||| (1#4 <<< i) }
    else a) c

/-- A plain store into the cluster cache: the words become dirty here (R132, R225). -/
def State.clusterStore (s : State) (die cl key n v : Nat) : State :=
  if s.cacheWays die cl == 0 then s.l2Write key n v
  else
    let s1 := (wordsOf key n).foldl (fun a w => a.fillWord die cl false w) s
    { s1 with cwords := mapWhere (fun c => c.die == die && c.cluster == cl && (wordsOf key n).contains c.word)
                (fun c => { c.put key n v with peer := false }) s1.cwords,
              poison := unpoison s1.poison key n }

/-- A word into which bytes are written that are not dirty here: what else of it is dirty stays so. -/
def CWord.putClean (c : CWord) (key n v : Nat) : CWord :=
  { c.put key n v with dirty := c.dirty &&& ~~~(({ c with dirty := 0 } : CWord).put key n v).dirty }

/-- A store written through from a cluster: its own copy follows, no byte of it is dirty here (R224). -/
def State.throughStore (s : State) (die cl key n v : Nat) : State :=
  let s1 := s.l2Write key n v
  { s1 with cwords := mapWhere (fun c => c.die == die && c.cluster == cl && (wordsOf key n).contains c.word)
              (fun c => c.putClean key n v) s1.cwords }

/-- A write on its way arrives at its home (R354, R224). -/
def State.land (s : State) (x : Unacked) : State :=
  if x.kind == 1 then s.throughStore x.die x.cluster x.key x.bytes x.data
  else if x.kind == 2 then s.l2Write x.key x.bytes x.data
  else s
/-- Those that pass a test arrive, in the order in which they were sent. -/
def State.landWhere (s : State) (p : Unacked → Bool) : State :=
  let posted (x : Unacked) : Bool := (x.kind == 1 || x.kind == 2) && p x
  { (s.unacked.filter posted).foldl State.land s with unacked := s.unacked.filter fun x => !posted x }

/-- Acquire at die scope or wider: the words the cluster does not own are dropped; of a dirty one its own bytes stay and the
others are fetched again (R148, R261). -/
def State.acquire (s : State) (die cl : Nat) : State :=
  let mine (c : CWord) : Bool := c.die == die && c.cluster == cl && !c.owned
  ({ s with cwords := s.cwords.filter fun c => !(mine c && c.dirty == 0) } : State).refresh mine

/-- A release at die scope or wider orders whatever its thread has seen, also writes of other threads that stand dirty in
the cluster: they are performed at die scope with it (R250, R253). -/
def State.publishCluster (s : State) (die cl scope : Nat) : State :=
  if 3 ≤ scope then s.writeBackAll fun c => c.die == die && c.cluster == cl else s

/-- Is a read-only copy one that a drop of a cluster reaches: the cluster's, or the host data its die's L2 holds for the
read-only path (R235, R257). -/
def RoLine.of (r : RoLine) (die cl : Nat) : Bool := r.die == die && (r.cluster == cl || r.cluster == 16)
/-- Drops a cluster's read-only copies (R235). -/
def State.dropRo (s : State) (die cl : Nat) : State := { s with roLines := s.roLines.filter fun r => !r.of die cl }

/-! ## The read-only path (R235) -/

/-- The copy of a line that holds one of its sectors. -/
def State.roLine (s : State) (die cl line sector : Nat) : Option RoLine :=
  findFirst (fun r => r.die == die && r.cluster == cl && r.line == line && r.valid.getLsbD sector) s.roLines
/-- Bytes of a line. -/
def lineBytes (line key n : Nat) : Nat := (line / 2 ^ (8 * (key % 128))) % 2 ^ (8 * n)

/-- Enters a line; a cluster's read-only cache holds 1,024, the oldest over that leave (R235; DESIGN CHOICE, log 9). -/
def State.enterRo (s : State) (r : RoLine) : State :=
  let here (x : RoLine) : Bool := x.die == r.die && x.cluster == r.cluster
  { s with roLines := s.roLines.filter (fun x => !here x) ++ keepLatest 1024 (s.roLines.filter here ++ [r]) }

/-- The numbers under which the banks of a cluster's read-only cache and of its translation cache stand among the retired parts, after
its 32 cluster banks (R361; DESIGN CHOICE, log 65). -/
def readOnlyBank : Nat := 32
def translationBank : Nat := 33

/-- A load through the read-only path; a cache that has retired holds nothing (R362); a miss fills a line of 128 bytes from the point of coherence. Host data may stay in the
die's L2 too, and serve another cluster from there; whether it does is free. -/
def State.roLoad (s : State) (die cl key n : Nat) (host : Bool) (iaDie iaPage : Nat) : State × Nat :=
  let line := key / 128
  let retired := (s.die die).retired
  let sector := key % 128 / 32
  match s.roLine die cl line sector, (if host then s.roLine die 16 line sector else none) with
  | some r, _ => (s, lineBytes r.data.toNat key n)
  | none, some r =>
    ((if retired.contains (.bank cl readOnlyBank) then s else s.enterRo { r with cluster := cl }), lineBytes r.data.toNat key n)
  | none, none =>
    let (s1, v) := s.l2Read (line * 128) 128
    let r : RoLine := { die := die, cluster := cl, line := line, data := BitVec.ofNat 1024 v, valid := 15, iaDie := iaDie,
                        iaPage := iaPage }
    let s2 := if retired.contains (.bank cl readOnlyBank) then s1 else s1.enterRo r
    let l2 := host && !retired.contains (.slice (sliceOf (128 * line)))
    ((if l2 && Config.free s.draws % 2 == 0 then (s2.enterRo { r with cluster := 16 }).drawn else s2), lineBytes v key n)

/-! ## Reads and writes of agents below the clusters: front end, engines, Percale, Twill -/

/-- Reads `n` bytes of IA at the point of coherence; none where a byte's page is not mapped. -/
def State.readIa (s : State) (die ia n : Nat) : Option Nat :=
  match n with
  | 0 => some 0
  | k + 1 =>
    match s.keyOf die ia, s.readIa die (ia + 1) k with
    | some key, some r =>
      let w := findFirst (fun c => c.word == key / 4 && (c.owned || (c.dirty.getLsbD (key % 4) && s.inOwnedPair c))) s.cwords
      let b := match w with
        | some c => byteOf c.value (key % 4)
        | none => spGet s.mem key
      some (b.toNat + 256 * r)
    | _, _ => none

/-! ## Lattice marks (R272, R265) -/

/-- The region of a partition that holds an IA. -/
def Part.regionAt (p : Part) (ia : Nat) : Option Region :=
  findFirst (fun r => decide (r.base ≤ ia) && decide (ia < r.base + r.size)) p.regions

/-- Sets the mark of a line for every entry of a die, enabled or not, but those of a list; marks keep their age (R272, R273). -/
def Die.mark (d : Die) (line : Nat) (but : List Nat) : Die :=
  { d with marks := d.marks ++ (((upFrom 0 8).filter fun e => !but.contains e && !d.marks.contains ⟨e, line⟩).map fun e =>
      ⟨e, line⟩) }

/-- A write to a local replica; a line that changes is marked (R256, R272). -/
def State.latticeWrite (s : State) (die ia key n v : Nat) : State :=
  if readLE s.mem key n == v % 2 ^ (8 * n) then s
  else ({ s with mem := writeLE s.mem key n v, poison := unpoison s.poison key n }).modDie die
    fun d => d.mark (ia / 256) []

/-! ## Format views (R69 to R73) -/

/-- Mix of R73. -/
def mix (seed n : Nat) : Nat :=
  let m := 2 ^ 64
  let z := (seed + (n + 1) * 0x9E3779B97F4A7C15) % m
  let z := ((z ^^^ (z / 2 ^ 30)) * 0xBF58476D1CE4E5B9) % m
  let z := ((z ^^^ (z / 2 ^ 27)) * 0x94D049BB133111EB) % m
  z ^^^ (z / 2 ^ 31)

/-- Weight j of a codebook-2 index (R69). -/
def codebookWeight (x j : Nat) : Val :=
  let bit (i : Nat) : Nat := (x / 2 ^ i) % 2
  let neg := if j < 7 then bit (j + 1) else ((upFrom 1 7).foldl (fun a i => a + bit i) 0) % 2
  let m := bit (8 + j)
  .fin (neg == 1) (if bit 0 == 0 then (if m == 1 then 3 else 1) else (if m == 1 then 2 else 0)) (-1)

/-- A tensor header as read (R71). -/
structure Tensor where
  hdr : Nat
  fmt : Nat
  out : Nat
  seed : Nat
  count : Nat
  elemOff : Nat
  scaleOff : Nat
  deriving DecidableEq, Repr

/-- No header: what stands in where a held sector is served and the header is not read. -/
def Tensor.blank : Tensor := { hdr := 0, fmt := 0, out := 0, seed := 0, count := 0, elemOff := 0, scaleOff := 0 }

def tensorBlk (fmt : Nat) : Nat := if fmt == 1 || fmt == 2 then 16 else 32
/-- Bytes of a block's elements (R71). -/
def tensorElem (fmt : Nat) : Nat := if fmt == 3 then 8 else if fmt == 4 || fmt == 5 then 32 else 16
/-- Bytes of an output element. -/
def Tensor.outBytes (t : Tensor) : Nat := if t.out == 0 then 1 else 2

/-- Checks the 64 bytes of a header (R71). -/
def parseTensor (hdr x : Nat) : Option Tensor :=
  let f (lo len : Nat) : Nat := (x / 2 ^ lo) % 2 ^ len
  let fmt := f 32 8
  let ok := f 0 32 == 0x58464731 && decide (1 ≤ fmt) && decide (fmt ≤ 6) && f 40 8 == tensorBlk fmt
    && decide (f 48 8 ≤ 1) && f 56 8 == 0 && f 128 64 != 0 && f 128 64 % tensorBlk fmt == 0
    && (f 64 64 == 0 || f 128 64 % 256 == 0) && f 192 64 % 256 == 0 && f 256 64 % 256 == 0 && f 320 192 == 0
  if ok then
    some { hdr := hdr, fmt := fmt, out := f 48 8, seed := f 64 64, count := f 128 64, elemOff := f 192 64,
           scaleOff := f 256 64 }
  else none

/-- One byte of a source array; a byte that no page maps is a free value (DESIGN CHOICE, log 24). -/
def State.sourceByte (s : State) (die ia : Nat) : Nat := (s.readIa die ia 1).getD (Config.free (die + ia) % 256)
def State.sourceBytes (s : State) (die ia n : Nat) : Nat :=
  match n with
  | 0 => 0
  | k + 1 => s.sourceByte die ia + 256 * s.sourceBytes die (ia + 1) k

/-- Q(n): element n times its block scale, exact (R67 to R69, R72). -/
def State.tensorQ (s : State) (die : Nat) (t : Tensor) (n : Nat) : Val :=
  let blk := tensorBlk t.fmt
  let k := n / blk
  let i := n % blk
  let sc := s.sourceByte die (t.hdr + t.scaleOff + k)
  let base := t.hdr + t.elemOff + k * tensorElem t.fmt
  match t.fmt with
  | 1 => s8Scaled (decodeFp .e4m3 (s.sourceByte die (base + i))) sc
  | 2 => s8Scaled (decodeFp .e5m2 (s.sourceByte die (base + i))) sc
  | 3 => s8Scaled (codebookWeight (s.sourceBytes die (base + 2 * (i / 8)) 2) (i % 8)) sc
  | 4 => mxScaled (decodeFp .e4m3 (s.sourceByte die (base + i))) sc
  | 5 => mxScaled (decodeFp .e5m2 (s.sourceByte die (base + i))) sc
  | _ => mxScaled (decodeFp .e2m1 ((s.sourceByte die (base + i / 2) / 16 ^ (i % 2)) % 16)) sc

/-- RoundSat of R72. -/
def roundSat (out : Nat) (t : Term) : Nat :=
  if out == 0 then (roundTerm .e4m3 .saturate t).bits
  else
    match t with
    | .fin s m e => if m == 0 then signed .bf16 s 0 else
      (let r := (roundTo .bf16 .saturate s m 1 e).bits; r)
    | t => (roundTerm .bf16 .toInf t).bits

/-- DecodeElement of R72. -/
def State.decodeElement (s : State) (die : Nat) (t : Tensor) (n : Nat) : Nat :=
  if t.seed == 0 then roundSat t.out (s.tensorQ die t n).term
  else
    let b := n / 256
    let i := n % 256
    let v := exactSum ((upFrom 0 256).map fun j =>
      let q := (s.tensorQ die t (b * 256 + j)).term
      if popCount (BitVec.ofNat 8 (i &&& j)) % 2 == 1 then q.negate else q)
    let v := v.mul (.fin (mix t.seed (b * 256 + i) % 2 == 1) 1 (-4))
    roundSat t.out v

/-- A 32-byte sector of a view, decoded (R72). -/
def State.decodeSector (s : State) (die : Nat) (t : Tensor) (view sector : Nat) : Nat :=
  let b := t.outBytes
  let per := 32 / b
  let first := (sector * 32 - view) / b
  fromUnits b ((upFrom first per).map fun n => if n < t.count then s.decodeElement die t n else 0)

/-- Does a view reach an IA: to the end of its last 64 KiB page (R72 step 3). -/
def Tensor.reaches (t : Tensor) (view ia : Nat) : Bool :=
  decide (ia < (view + t.count * t.outBytes + 65535) / 65536 * 65536)

/-- The source bytes that a sector of a view decodes from: spans of IA (R71, R72). -/
def Tensor.sources (t : Tensor) (view sector : Nat) : List (Nat × Nat) :=
  let blk := tensorBlk t.fmt
  let first := (sector * 32 - view) / t.outBytes
  let last := min (first + 32 / t.outBytes) t.count - 1
  if t.count ≤ first then []
  else
    let lo := if t.seed == 0 then first / blk else first / 256 * 256 / blk
    let hi := if t.seed == 0 then last / blk else (first / 256 * 256 + 255) / blk
    [(t.hdr + t.elemOff + lo * tensorElem t.fmt, (hi - lo + 1) * tensorElem t.fmt), (t.hdr + t.scaleOff + lo, hi - lo + 1)]

/-- What serves a load of an IA that a view may hold. -/
inductive ViewAns where
  /-- No enabled region's view reaches the address: the bytes as they lie there. -/
  | raw
  /-- A region's header does not pass its check (R72 step 1). -/
  | fails
  /-- A region's header lies on a page that is awaited. -/
  | waits
  | view (region view : Nat) (t : Tensor)
  /-- A region that has passed its check holds the page, and its header reads as no header any more: what a fill decodes is
  free (DESIGN CHOICE, log 31). -/
  | spoilt (region : Nat)
  deriving DecidableEq, Repr

/-- The sector that L2 holds of a view. -/
def State.heldSector (s : State) (die region sector : Nat) : Option FmtSector :=
  findFirst (fun f => f.region == region && f.sector == sector) (s.die die).sectors

/-- What one region answers for an IA at or above its view: the header is read as a fill for the context's world reads it
(R72, R331); a sector that L2 holds is served as it is. A header on an IA page that is not mapped counts as one that does not
pass: R72 does not say whether such a fill meets PAGE or its check fails (DESIGN CHOICE, log 32). -/
def State.regionView (s : State) (die n view hdr ia : Nat) (world : BitVec 16) : ViewAns :=
  let t := (s.readIa die hdr 64).bind (parseTensor hdr)
  let passed := findFirst (fun y => y.1 == n) (s.die die).fmtPages
  if (s.heldSector die n (ia / 32)).isSome then .view n view (t.getD Tensor.blank)
  else
    match s.verdict die hdr world .format .read, t, passed with
    | .waiting, _, _ => .waits
    | .mapped, some t, _ => if t.reaches view ia then .view n view t else .raw
    | .mapped, none, some y => if y.2.contains (ia / 65536) then .spoilt n else .raw
    | _, _, _ => .fails

/-- Is an IA one that a region whose header does not pass may hold: for an access by a format range any from the view on, for
another the view's first page (DESIGN CHOICE, log 32). -/
def mayHold (kind : RangeKind) (view ia : Nat) : Bool := kind == .format || ia / 65536 == view / 65536

/-- The kinds of range whose accesses views serve: those of device memory (R72), fetches by a code range among them. A lattice
range reads the replica (R265). -/
def viewedKind : RangeKind → Bool
  | .plain => true | .peer => true | .format => true | .code => true | _ => false

/-- The region that serves a load of an IA: the first that passes and reaches the address; where none does, one whose header
fails or is awaited (R72; DESIGN CHOICE, log 32). -/
def State.viewFor (s : State) (kind : RangeKind) (die ia : Nat) (world : BitVec 16) : ViewAns :=
  if !viewedKind kind then .raw
  else
  let answers := (upFrom 0 8).filterMap fun n =>
    let v := spGet (s.die die).fmt (0x100 + 2 * n)
    let view := field v 16 36 * 65536
    if v.getLsbD 0 && decide (view ≤ ia) then
      let x := s.regionView die n view (field (spGet (s.die die).fmt (0x101 + 2 * n)) 6 46 * 64) ia world
      some (if (x == .fails || x == .waits) && !mayHold kind view ia then .raw else x)
    else none
  let serves (x : ViewAns) : Bool := match x with
    | .view _ _ _ => true
    | .spoilt _ => true
    | _ => false
  match findFirst serves answers with
  | some x => x
  | none => (findFirst (fun x => x != .raw) answers).getD .raw

/-- The verdict of a fill's source bytes (R331); where no page maps them there is none. -/
def State.sourceVerdict (s : State) (die : Nat) (world : BitVec 16) (spans : List (Nat × Nat)) : Verdict :=
  let vs := spans.flatMap fun x => (upFrom (x.1 / 65536) ((x.1 + x.2 - 1) / 65536 + 1 - x.1 / 65536)).map fun p =>
    s.verdict die (p * 65536) world .format .read
  if vs.contains .own then .own else if vs.contains .waiting then .waiting else .mapped

/-- The verdict of a load of an IA as far as views decide it, and of a store: a store to a view is OWN, and every access to
one whose header fails (R72). -/
def State.viewVerdict (s : State) (kind : RangeKind) (way : Way) (die ia : Nat) (world : BitVec 16) : Verdict :=
  match s.viewFor kind die ia world, way == .write || way == .atomic with
  | .raw, w => if w && kind == .format then .own else .mapped
  | .fails, _ => .own
  | .waits, _ => .waiting
  | .view _ _ _, true => .own
  | .spoilt _, w => if w then .own else .mapped
  | .view n view t, false =>
    if (s.heldSector die n (ia / 32)).isSome then .mapped else s.sourceVerdict die world (t.sources view (ia / 32))

/-- Would a load of `n` bytes consume a poisoned word: of the bytes themselves, or of what a view's fill reads (R237). -/
def State.spoiled (s : State) (kind : RangeKind) (die ia : Nat) (world : BitVec 16) (key n : Nat) : Bool :=
  match s.viewFor kind die ia world with
  | .view r view t =>
    (s.heldSector die r (ia / 32)).isNone && (t.sources view (ia / 32)).any fun x =>
      (upFrom x.1 x.2).any fun a => match s.keyOf die a with
        | some k => s.poisoned k 1
        | none => false
  | _ => s.poisoned key n

/-- Sets the FORMAT bit of the frame behind a page (R329). -/
def State.setFormat (s : State) (die page : Nat) (on : Bool) : State :=
  match (s.die die).mapping page with
  | none => s
  | some m =>
    match m.spot die with
    | (some d, f) => s.modFrameOf d f fun e => { e with format := on }
    | (none, _) => s

/-- Published pages of a die that hold a span of IA. -/
def Die.pagesIn (d : Die) (ia n : Nat) : List Nat :=
  (d.published.filter fun m => decide (ia / 65536 ≤ m.page) && decide (m.page ≤ (ia + n - 1) / 65536)).map Mapping.page

/-- Marks the frames of a view and of its sources, whose header has passed (R72, R329) (DEDUCED, log 31). -/
def State.markFormat (s : State) (die n view : Nat) (t : Tensor) : State :=
  let d := s.die die
  let blocks := t.count / tensorBlk t.fmt
  let pages := d.pagesIn view (t.count * t.outBytes) ++ d.pagesIn t.hdr 64
    ++ d.pagesIn (t.hdr + t.elemOff) (blocks * tensorElem t.fmt) ++ d.pagesIn (t.hdr + t.scaleOff) blocks
  (pages.foldl (fun acc p => acc.setFormat die p true) s).modDie die fun x =>
    { x with fmtPages := (n, pages) :: x.fmtPages.filter fun y => y.1 != n }

/-- A region is no longer enabled: the frames that no other region marks are plain again, and its decoded sectors go
(R70). -/
def State.leaveFormat (s : State) (die n : Nat) : State :=
  let d := s.die die
  let of_ (mine : Bool) : List Nat := (d.fmtPages.filter fun y => (y.1 == n) == mine).flatMap Prod.snd
  let gone := (of_ true).filter fun p => !(of_ false).contains p
  (gone.foldl (fun acc p => acc.setFormat die p false) s).modDie die fun x =>
    { x with fmtPages := x.fmtPages.filter fun y => y.1 != n, sectors := x.sectors.filter fun f => f.region != n }

/-- Holds a decoded sector in L2: a slice that has retired holds nothing (R362), and one holds at most 1 MiB (R232). -/
def Die.holdSector (d : Die) (x : FmtSector) : Die :=
  let slice := sliceOf (32 * x.sector)
  let here (f : FmtSector) : Bool := sliceOf (32 * f.sector) == slice
  if d.retired.contains (.slice slice) then d
  else { d with sectors := d.sectors.filter (fun f => !here f) ++ keepLatest 32768 (d.sectors.filter here ++ [x]) }

/-- A sector of a view as L2 serves it: a held one is used, another is filled (R72). -/
def State.viewSector (s : State) (die sector r view : Nat) (t : Tensor) : State × Nat :=
  match s.heldSector die r sector with
  | some f => (s, f.data.toNat)
  | none =>
    let x := s.decodeSector die t view sector
    ((s.markFormat die r view t).modDie die fun d => d.holdSector { region := r, sector := sector, data := BitVec.ofNat 256 x }, x)

/-- What a view gives for the 32-byte sector of an IA; none where the bytes are read as they lie there. -/
def State.viewFill (s : State) (kind : RangeKind) (die ia : Nat) (world : BitVec 16) : Option (State × Nat) :=
  match s.viewFor kind die ia world with
  | .view r view t => some (s.viewSector die (ia / 32) r view t)
  | .spoilt r =>
    match s.heldSector die r (ia / 32) with
    | some f => some (s, f.data.toNat)
    | none =>
      let x := fromUnits 4 ((upFrom 0 8).map fun i => Config.free (s.draws * 8 + i) % 2 ^ 32)
      some ((s.modDie die fun d => d.holdSector { region := r, sector := ia / 32, data := BitVec.ofNat 256 x }).drawn, x)
  | _ => none

/-- `n` bytes of a sector, which they do not leave. -/
def sectorBytes (x ia n : Nat) : Nat := (x / 2 ^ (8 * (ia % 32))) % 2 ^ (8 * n)

/-- A byte as a fill for the context's world gives it to an agent below the clusters: decoded where a view holds it (R72). -/
def State.viewByte (s : State) (kind : RangeKind) (die : Nat) (world : BitVec 16) (ia : Nat) : Option Nat :=
  match s.viewFill kind die ia world with
  | some r => some (sectorBytes r.2 ia 1)
  | none => s.readIa die ia 1
/-- Does a die have an enabled format region. -/
def Die.hasViews (d : Die) : Bool := (upFrom 0 8).any fun n => (spGet d.fmt (0x100 + 2 * n)).getLsbD 0
/-- Bytes of IA as a view holds them, one by one; none where a page is not mapped. -/
def State.viewBytes (s : State) (kind : RangeKind) (die : Nat) (world : BitVec 16) (ia n : Nat) : Option Nat :=
  match n with
  | 0 => some 0
  | k + 1 =>
    match s.viewByte kind die world ia, s.viewBytes kind die world (ia + 1) k with
    | some x, some r => some (x + 256 * r)
    | _, _ => none
/-- Bytes of IA as the front end, Percale and Twill read them: through the views of the die that holds them. Such a read leaves no
decoded sector in L2, which may drop one at any time (DESIGN CHOICE, log 32). -/
def State.readSeen (s : State) (kind : RangeKind) (die : Nat) (world : BitVec 16) (ia n : Nat) : Option Nat :=
  if (s.die die).hasViews then s.viewBytes kind die world ia n else s.readIa die ia n

/-- A load of decoded data that the cluster cache may hold, read-only (R224). -/
def State.viewCached (s : State) (die cl key n ia x : Nat) : State × Nat :=
  if s.cacheWays die cl == 0 then (s, sectorBytes x ia n)
  else
    let s1 := (wordsOf key n).foldl (fun a w =>
      if (a.cword die cl w).isSome then a
      else a.enterWord die cl w (BitVec.ofNat 32 (sectorBytes x (4 * w + ia - key) 4)) true) s
    (s1, s1.cachedRead die cl key n)

/-- A load of decoded data by the read-only path: a miss fills the sector (R224, R235). -/
def State.viewRo (s : State) (die cl key n ia x iaDie : Nat) : State × Nat :=
  match s.roLine die cl (key / 128) (key % 128 / 32) with
  | some r => (s, lineBytes r.data.toNat key n)
  | none =>
    let r : RoLine := { die := die, cluster := cl, line := key / 128,
                        data := BitVec.ofNat 1024 (x * 2 ^ (256 * (key % 128 / 32))),
                        valid := 1#4 <<< (key % 128 / 32), iaDie := iaDie, iaPage := ia / 65536 }
    ((if (s.die die).retired.contains (.bank cl readOnlyBank) then s else s.enterRo r), sectorBytes x ia n)

/-! ## Reads and writes at a virtual address -/

/-- What reaching a virtual address below the clusters answers. -/
inductive VaAns where
  | noRange
  | fault (v : Verdict) (ia : Nat) (home : Nat) (page : Nat)
  | ok (h : Hit) (home : Nat) (key : Nat)
  deriving DecidableEq, Repr

/-- Resolves a virtual address of a context on a die; `res` gives the physical die of a logical one. -/
def State.reach (s : State) (c : Ctx) (die : Nat) (res : List Nat) (way : Way) (va n : Nat) : VaAns :=
  match c.hit va n with
  | none => .noRange
  | some h =>
    let home := if h.kind == .peer then listGet 31 res h.pdie else die
    if decide (messageBase ≤ h.ia) then .noRange
    else
      match s.verdict home h.ia c.world h.kind way, s.viewVerdict h.kind way home h.ia c.world with
      | .mapped, .mapped =>
        match s.keyOf home h.ia with
        | some k => .ok h home k
        | none => .fault .page h.ia home (h.ia / 65536)
      | .mapped, v => .fault v h.ia home (h.ia / 65536)
      | v, _ => .fault v h.ia home (h.ia / 65536)

/-- Reads `n` bytes at a virtual address that lies in a plain or code range, inside one page. -/
def State.readVa (s : State) (c : Ctx) (die va n : Nat) : Option Nat :=
  match s.reach c die [] .read va n with
  | .ok h _ _ => if h.kind == .plain || h.kind == .code then s.readSeen h.kind die c.world h.ia n else none
  | _ => none

/-- Writes `n` bytes at a virtual address of a plain range, where it can be reached. -/
def State.writeVa (s : State) (c : Ctx) (die va n v : Nat) : State :=
  match s.reach c die [] .write va n with
  | .ok h _ k => if h.kind == .plain then s.l2Write k n v else s
  | _ => s

/-! ## Matching translations (R316) -/

/-- Does a translation hold the word at an address: in its extent, and reached by a path (R47, R313). -/
def Translation.holds (t : Translation) (pc : Nat) : Bool :=
  decide (t.base ≤ pc) && decide (pc < t.base + 4 * t.words.length) && listGet false t.reached ((pc - t.base) / 4)

/-- The function of a launch that Twill has met at an address. -/
def Rec.fnAt (r : Rec) (pc : Nat) : Option FnUse :=
  findFirst (fun f => decide (f.base ≤ pc) && decide (pc < f.base + 4 * f.words)) r.fns

/-- Code IA of a virtual address; none where no code range holds it. -/
def Ctx.codeIa (c : Ctx) (va : Nat) : Option Nat :=
  match c.hit va 4 with
  | some h => if h.kind == .code then some h.ia else none
  | none => none

/-- Has a translation the tag of a function: code IA, level, order, die and world (R316). All dies are of one revision. -/
def Translation.tagged (t : Translation) (die : Nat) (world : BitVec 16) (ia level : Nat) (o : JetOrder) : Bool :=
  t.die == die && t.world == world && t.ia == ia && t.level == level && t.order == o

/-- The translation a fetch of a workgroup's launch at a program counter matches, at the launch's own virtual addresses
(R316). -/
def State.transAt (s : State) (w : Wg) (order : JetOrder) (pc : Nat) : Option Translation :=
  match (s.record w.launch).fnAt pc with
  | none => none
  | some f =>
    match (s.ctx w.ctx).codeIa f.base with
    | none => none
    | some ia =>
      let here (t : Translation) : Translation := { t with base := f.base }
      (findFirst (fun t => t.stored && t.tagged w.die (s.ctx w.ctx).world ia f.level order && (here t).holds pc)
        s.trans).map here

/-- The bodies of a translation that end at a program counter. -/
def Translation.loopsAt (t : Translation) (pc : Nat) : Loops :=
  (t.bodies.filter fun b => t.base + 4 * b.2.1 == pc).map fun b => (BitVec.ofNat 64 (t.base + 4 * b.1), b.2.2)

/-- The bodies that end at a program counter of a team. -/
def State.loopsAt (s : State) (w : Wg) (t : Team) (pc : BitVec 64) : Loops :=
  match s.transAt w t.jord pc.toNat with
  | some tr => tr.loopsAt pc.toNat
  | none => []

end Sys2Proof.Machine
end

