-- ==== Sys2Proof/Machine/Front.lean ====
section
/-!
DEFINITION. The command front end: records as they lie in memory (R287 to R289), acceptance (R286), completion (R291),
cancel (R293), and the end of a context's launches (R208, R237).
-/
namespace Sys2Proof.Machine

/-- Bits of a record. -/
def bitsOf (x lo len : Nat) : Nat := (x / 2 ^ lo) % 2 ^ len

def kindCode : RecKind → Nat
  | .launch => 1 | .graph => 2 | .phase => 3 | .job => 4
def kindOf (n : Nat) : Option RecKind :=
  match n with
  | 1 => some .launch | 2 => some .graph | 3 => some .phase | 4 => some .job | _ => none

/-- Status codes a record completes with (R287). -/
def codeOk : Nat := 0
def codeCancelled : Nat := 2
def codeBadArg : Nat := 6
def codePhaseFit : Nat := 0x0E

/-- The first doubleword of a record as the front end has it (R287). -/
def Rec.head (r : Rec) : Nat :=
  kindCode r.kind + r.state * 2 ^ 8 + r.code * 2 ^ 16 + (r.total % 2 ^ 32) * 2 ^ 32

/-- Writes the first doubleword of a record. -/
def State.writeHead (s : State) (u : Nat) : State :=
  let r := s.record u
  s.writeVa (s.ctx r.ctx) r.die r.addr 8 r.head
/-- Writes DONE of a record. -/
def State.writeDone (s : State) (u : Nat) : State :=
  let r := s.record u
  s.writeVa (s.ctx r.ctx) r.die (r.addr + 8) 8 r.done

def Rec.isDone (r : Rec) : Bool := r.state == 3

/-! ## Reading records -/

/-- `n` bytes of a record in a plain range. -/
def State.readPlain (s : State) (c : Ctx) (die va n : Nat) : Option Nat :=
  match s.reach c die [] .read va n with
  | .ok h _ _ => if h.kind == .plain then s.readSeen h.kind die c.world h.ia n else none
  | _ => none
/-- `n` bytes in a code range. -/
def State.readCode (s : State) (c : Ctx) (die va n : Nat) : Option Nat :=
  match s.reach c die [] .read va n with
  | .ok h _ _ => if h.kind == .code then s.readSeen h.kind die c.world h.ia n else none
  | _ => none
/-- Does a code range hold an address (R151, R306). -/
def Ctx.inCode (c : Ctx) (va n : Nat) : Bool :=
  match c.hit va n with
  | some h => h.kind == .code
  | none => false

/-- An array of 8-byte addresses. -/
def State.readArray (s : State) (c : Ctx) (die va n : Nat) : Option (List Nat) :=
  match n with
  | 0 => some []
  | k + 1 =>
    match s.readPlain c die va 8, s.readArray c die (va + 8) k with
    | some x, some t => some (x :: t)
    | _, _ => none

/-- Adds a record to those held; answers its running number. -/
def State.addRec (s : State) (r : Rec) : State × Nat :=
  ({ s with recs := s.recs ++ [{ r with uid := s.nextId, order := s.nextId }], nextId := s.nextId + 1 }, s.nextId)

/-- A record as it is taken up, its place and parent. -/
def newRec (ctx die addr : Nat) (kind : RecKind) (parent : Option Nat) (state : Nat) : Rec :=
  { Rec.absent with ctx := ctx, die := die, addr := addr, kind := kind, parent := parent, state := state }

/-- Takes up one child record; it is bad where its type or PARENT is wrong (R289). One of those `known`, which a cancel has dropped
already, stays the record it is, though its STATE is no longer 0 (R293; DEDUCED, log 41). -/
def State.adoptOne (s : State) (ctx die : Nat) (want : Nat → Bool) (pAddr pUid : Nat) (known : List Nat) (addr : Nat) : State × Nat :=
  let x? := s.readPlain (s.ctx ctx) die addr 64
  let fits : Bool := match x? with
    | none => false
    | some x => want (bitsOf x 0 4) && addr % 64 == 0 && bitsOf x 320 64 == pAddr
  match findFirst (fun k => (s.record k).addr == addr) known, x? with
  | some k, _ => (s.modRec k fun r => { r with parent := some pUid, bad := !fits }, k)
  | none, none => s.addRec { newRec ctx die addr .launch (some pUid) 0 with bad := true }
  | none, some x =>
    s.addRec { newRec ctx die addr ((kindOf (bitsOf x 0 4)).getD .launch) (some pUid) 0 with
      bad := !(fits && bitsOf x 8 2 == 0), npred := bitsOf x 448 16, capacity := bitsOf x 256 64 }

/-- Takes up the children an array names. -/
def State.adoptAll (s : State) (ctx die : Nat) (want : Nat → Bool) (pAddr pUid : Nat) (known as : List Nat) :
    State × List Nat :=
  as.foldl (fun (acc : State × List Nat) a =>
    let (s1, u) := acc.1.adoptOne ctx die want pAddr pUid known a
    (s1, acc.2 ++ [u])) (s, [])

/-- The array of a record's children: address, count, whether the count is allowed, and the types allowed (R289). -/
def childArray (kind : RecKind) (x : Nat) : Option (Nat × Nat × Bool) :=
  match kind with
  | .launch => none
  | .graph => some (bitsOf x 128 64, bitsOf x 192 16, decide (1 ≤ bitsOf x 192 16) && decide (bitsOf x 192 16 ≤ 4096))
  | .phase => some (bitsOf x 192 64, bitsOf x 256 8, decide (1 ≤ bitsOf x 256 8) && decide (bitsOf x 256 8 ≤ 64))
  | .job => some (bitsOf x 128 64, bitsOf x 192 16, decide (1 ≤ bitsOf x 192 16) && decide (bitsOf x 192 16 ≤ 256))
def childWanted : RecKind → Nat → Bool
  | .launch, _ => false
  | .graph, n => n == 1
  | .phase, n => n == 2
  | .job, n => n == 2 || n == 3

/-- Takes up the children of one record (R293: every member reached from a held record is held). -/
def State.adoptChildren (s : State) (known : List Nat) (u : Nat) : State :=
  let r := s.record u
  match s.readPlain (s.ctx r.ctx) r.die r.addr 64 with
  | none => s.modRec u fun r => { r with bad := true }
  | some x =>
    match childArray r.kind x with
    | none => s
    | some (va, n, okCount) =>
      match (if okCount then s.readArray (s.ctx r.ctx) r.die va n else none) with
      | none => s.modRec u fun r => { r with bad := true }
      | some as =>
        let (s1, us) := s.adoptAll r.ctx r.die (childWanted r.kind) r.addr u known as
        s1.modRec u fun r => { r with children := us, bad := r.bad || us.any fun k => (s1.record k).bad }

/-- Links the SUCC arrays of a graph's members by their addresses (R288). -/
def State.linkSucc (s : State) (u : Nat) : State :=
  let g := s.record u
  g.children.foldl (fun acc k =>
    let r := acc.record k
    match acc.readPlain (acc.ctx r.ctx) r.die r.addr 128 with
    | none => acc
    | some x =>
      match acc.readArray (acc.ctx r.ctx) r.die (bitsOf x 384 64) (bitsOf x 464 16) with
      | none => acc.modRec k fun r => { r with bad := true }
      | some as =>
        let us := as.map fun a => (findFirst (fun q => (acc.record q).addr == a) g.children).getD 0
        acc.modRec k fun r => { r with succ := us, bad := r.bad || us.contains 0 }) s

/-- Takes up a whole tree below a record: at most job, phase, graph, launch. -/
def State.adoptTree (s : State) (known : List Nat) (u depth : Nat) : State :=
  match depth with
  | 0 => s
  | k + 1 =>
    let s1 := s.adoptChildren known u
    let s2 := (s1.record u).children.foldl (fun acc c => if known.contains c then acc else acc.adoptTree known c k) s1
    if (s2.record u).kind == .graph then s2.linkSucc u else s2

/-- Bytes of a record (R288, R289). -/
def RecKind.size : RecKind → Nat
  | .launch => 128
  | _ => 64

/-- The test at the doors (R286): type, state and parent of the record at an address, which lies in a plain range whole. -/
def State.doorTest (s : State) (c : Ctx) (die addr : Nat) : Option RecKind :=
  if addr % 64 == 0 then
    match s.readPlain c die addr 64 with
    | none => none
    | some x =>
      match kindOf (bitsOf x 0 4) with
      | some k => if bitsOf x 8 2 == 0 && bitsOf x 320 64 == 0 && (s.readPlain c die addr k.size).isSome then some k else none
      | none => none
  else none

/-- Accepts a record: STATE becomes 1 (R286) (DEDUCED, log 41). -/
def State.accept (s : State) (ctx die addr : Nat) (kind : RecKind) : State :=
  let (s1, u) := s.addRec (newRec ctx die addr kind none 1)
  let s2 := s1.writeVa (s1.ctx ctx) die addr 8 (((s1.readPlain (s1.ctx ctx) die addr 8).getD 0) + 2 ^ 8)
  s2.adoptTree [] u 4

/-! ## Completion (R291) -/

/-- A child of a record has ended: DONE rises; with the last child the record's completion falls due. A record that is done
already, a dropped one among them, keeps its DONE (R293). -/
def State.childEnded (s : State) (p : Option Nat) : State :=
  match p with
  | none => s
  | some u =>
    if (s.record u).isDone then s
    else
    let s1 := s.modRec u fun r => { r with done := r.done + 1 }
    let s2 := s1.writeDone u
    s2.modRec u fun r => { r with ending := r.ending || decide (r.total ≤ r.done) && r.state == 2 }

/-- Takes a record out of the device queue it waits in: the front end has taken it, or it has ended (R285) (DEDUCED, log 74). -/
def State.unqueue (s : State) (u : Nat) : State :=
  { s with dies := s.dies.map fun d => { d with deviceQueue := d.deviceQueue.filter fun x => x != u } }

/-- The front end takes a record that came to it through a door: it takes the entries of its context that reached it before from the
device queue as well (R285) (DEDUCED, log 74). -/
def State.takeFrom (s : State) (u : Nat) : State :=
  let r := s.record u
  let before (x : Nat) : Bool := (s.record x).ctx == r.ctx && decide ((s.record x).order ≤ r.order)
  if r.parent.isNone then
    { s with dies := mapIdxFrom (fun i d => if i == r.die then { d with deviceQueue := d.deviceQueue.filter fun x => !before x } else d) 0 s.dies }
  else s

/-- Completes a record: STATE 3 and CODE in one write, then the parent's DONE (R291). -/
def State.complete (s : State) (u code : Nat) : State :=
  if (s.record u).isDone then s
  else
    let s0 := if (s.record u).lease.waiting then s.seeLease (s.record u).ctx else s
    let s1 := s0.modRec u fun r => { r with state := 3, code := code, ending := false, lease := Lease.init }
    let s2 := (s1.unqueue u).writeHead u
    s2.childEnded (s.record u).parent

/-- Unbinds the tags of a record on every die (R295). -/
def State.unbind (s : State) (u : Nat) : State :=
  { s with dies := s.dies.map fun d => { d with tags := d.tags.filter fun t => t.record != u } }

/-- Drops a record that has not started: CANCELLED, DONE 0 (R291, R293). -/
def State.dropRec (s : State) (u : Nat) : State :=
  let r := s.record u
  if r.isDone || r.state == 2 then s
  else
    let s1 := s.unbind u
    let s2 := s1.modRec u fun r => { r with done := 0, cancelled := true }
    (s2.writeDone u).complete u codeCancelled

/-- Everything SUCC reaches from some launches. -/
def State.succReach (s : State) (fuel : Nat) (us : List Nat) : List Nat :=
  match fuel with
  | 0 => us
  | k + 1 =>
    let next := us.foldl (fun acc u => acc ++ (s.record u).succ.filter fun x => !acc.contains x) us
    if next.length == us.length then us else s.succReach k next

/-- A record and everything below it. -/
def State.treeOf (s : State) (depth u : Nat) : List Nat :=
  match depth with
  | 0 => [u]
  | k + 1 => u :: ((s.record u).children.map fun c => s.treeOf k c).flatten

/-- A cancel reaches one record: dropped when it has not started, marked when it runs (R293); not one whose last
end arrived first (R294). -/
def State.cancelOne (s : State) (u : Nat) : State :=
  let r := s.record u
  if r.isDone || r.ending then s
  else if r.state == 2 then s.modRec u fun x => { x with cancelled := true }
  else s.dropRec u

/-- CANCEL of a held record (R293). -/
def State.cancelTree (s : State) (u : Nat) : State :=
  let base := s.treeOf 4 u
  let all := s.succReach s.recs.length base
  all.foldl (fun acc k => acc.cancelOne k) s

/-- The successors of a launch after its completion: counted when OK, dropped otherwise (R291). -/
def State.countSuccessors (s : State) (u code : Nat) : State :=
  let r := s.record u
  if code == codeOk then
    r.succ.eraseDups.foldl (fun acc k => acc.modRec k fun x => { x with predsDone := x.predsDone + 1 }) s
  else
    ((s.succReach s.recs.length r.succ).filter fun k => (s.record k).state != 2).foldl (fun acc k => acc.dropRec k) s

/-- Code of a graph, phase or job from its children (R291). -/
def State.parentCode (s : State) (r : Rec) : Nat :=
  if r.cancelled then codeCancelled
  else if r.kind == .phase then
    match r.chosen with
    | some c => (s.record c).code
    | none => codePhaseFit
  else
    match findFirst (fun k => (s.record k).isDone && (s.record k).code != codeOk) r.children with
    | some k => (s.record k).code
    | none => codeOk

/-! ## Workgroups that go -/

/-- Forgets what a workgroup has in flight; writes that it has sent arrive (R354). -/
def State.forgetWg (s : State) (u : Nat) : State :=
  let s1 := s.landWhere fun x => x.wg == u
  { s1 with accs := s1.accs.filter fun a => a.wg != u, waiters := s1.waiters.filter fun x => x.wg != u,
            unacked := s1.unacked.filter fun x => x.wg != u, slog := s1.slog.filter fun x => x.wg != u,
            agenda := s1.agenda.filter fun t => match t with | .issue w _ => w != u | _ => true }

/-- Marks a core as holding what an owner context left there; a cluster left without a workgroup may be power-gated, so
it is scrub-pending from then on (R345) (DEDUCED, log 67). -/
def State.touch (s : State) (w : Wg) : State :=
  if (s.ctx w.ctx).auth == 1 && w.uid != 0 then
    let cl := clusterOf w.core
    let idle := !s.wgs.any fun y => y.die == w.die && clusterOf y.core == cl
    s.modDie w.die fun d =>
      { d with touched := if d.touched.contains (w.core, w.ctx) then d.touched else d.touched ++ [(w.core, w.ctx)],
               scrubPending := if idle && !d.scrubPending.contains cl then d.scrubPending ++ [cl] else d.scrubPending }
  else s

/-- A workgroup returns its resources (R215): its scratch, queues, barriers, shared registers, slots and blocks go
with it. A context without a workgroup is idle (R323). -/
def State.removeWg (s : State) (u : Nat) : State :=
  let w := s.wg u
  let s1 := s.forgetWg u
  let s2 := ({ s1 with wgs := s1.wgs.filter fun y => y.uid != u } : State).touch w
  let s3 := s2.modCtx w.ctx fun c =>
    if c.state != .saved && !s2.wgs.any (fun y => y.ctx == w.ctx) then { c with state := .idle } else c
  if w.urgent && !w.ended then s3.continueVictim w.die w.core else s3

/-- Pins that a launch made go when it ends (R318). -/
def State.endPins (s : State) (u : Nat) : State :=
  { s with trans := s.trans.map fun t => { t with pins := t.pins.filter fun p => p.launch != u } }

/-- The workgroups of a sealed image end with their launches: nothing of them is left to resume. -/
def Image.emptied (i : Image) : Image := { i with wgs := [], slog := [], engines := [] }

/-- A cancel reaches every record of a context, on every die: what has not started is dropped, and what runs is cancelled; its
workgroups run on to their next TFETCH (R237, R293, R294). -/
def State.cancelCtx (s : State) (ctx : Nat) : State :=
  ((s.recs.filter fun r => r.ctx == ctx).map Rec.uid).foldl State.cancelOne s

/-- Stops every launch of a context, on every die (R344, R373): what has not started is dropped, the workgroups that there still
are end at once and count as ended, and the records complete CANCELLED, the launches first. -/
def State.endLaunches (s : State) (ctx : Nat) : State :=
  let mine (a : State) (f : Rec → Bool) : List Nat := (a.recs.filter fun r => r.ctx == ctx && !r.isDone && f r).map Rec.uid
  let s1 := (mine s fun r => r.state != 2).foldl State.dropRec s
  let held := match (s1.ctx ctx).image with
    | some i => i.wgs.map Wg.launch
    | none => []
  let s2 := (s1.wgs.filter fun w => w.ctx == ctx).foldl (fun acc w => (acc.removeWg w.uid).childEnded (some w.launch)) s1
  let s3 := (held.foldl (fun acc u => acc.childEnded (some u)) s2).modCtx ctx fun c => { c with image := c.image.map Image.emptied }
  [RecKind.launch, .graph, .phase, .job].foldl (fun acc k => (mine acc fun r => r.kind == k).foldl (fun a u =>
    ((a.modRec u fun r => { r with cancelled := true }).complete u codeCancelled).endPins u) acc) s3

/-- What threads of a team that have left waited for goes: threshold loads and engine waits whose results nothing awaits. -/
def State.purge (s : State) (u ti : Nat) : State :=
  let t := (s.wg u).team ti
  let awaits (l id : Nat) : Bool := (t.thread l).outs.any fun o => o.id == id
  let any_ (id : Nat) : Bool := t.threads.any fun th => th.outs.any fun o => o.id == id
  let mine (wg team : Nat) : Bool := wg == u && team == ti
  let trim (a : Access) : Access :=
    if a.again && mine a.wg a.team then { a with lanes := a.lanes.filter fun x => awaits x.lane a.id } else a
  { s with
    waiters := s.waiters.filter fun x => !mine x.wg x.team || if x.cell then awaits x.lane x.id else any_ x.id,
    accs := (s.accs.map trim).filter fun a => !(a.again && a.lanes.isEmpty) }

/-- Threads that would consume a poisoned word do not receive it. The spec gives no trap for them: they leave their workgroup, as
EXIT has threads leave (R237; DESIGN CHOICE, log 33). -/
def State.withoutWord (s : State) (u ti : Nat) (ls : List Nat) : State :=
  ((ls.filter fun l => !(((s.wg u).team ti).thread l).exited).foldl (fun acc l => acc.leave u ti l) s).purge u ti

/-- A poisoned word would be consumed (R237): the launches of the context are cancelled, one owner and one operator record are
written; `o` says what the owner record names beside the code (DEDUCED, log 33, log 34). -/
def State.dataError (s : State) (ctx die kind page count : Nat) (o : OwnerInfo) : State :=
  ((s.ownerRecord ctx { o with code := 0x0E }).operatorRecord die ctx kind 3 count page).cancelCtx ctx

/-- A poisoned word of register or scratch state would be consumed by lanes of a team: the record names the class, and the lanes
leave. -/
def State.registerError (s : State) (w : Wg) (team : Nat) (ls : List Nat) (cls kind vpc : Nat) : State :=
  (s.dataError w.ctx w.die kind 0 (max 1 ls.length)
    (OwnerInfo.place { code := 0x0E, lane := ls.headD 0, vpc := vpc, ia := Config.registerClass cls } w team)).withoutWord w.uid team ls

end Sys2Proof.Machine
end

