-- ==== Sys2Proof/Machine/Flags.lean ====
section
/-!
DEFINITION. The flags of JST (R8, R85): five per coefficient, invalid, divide-by-zero, overflow, underflow, inexact.
-/
namespace Sys2Proof.Machine

/-- Flags of one coefficient at their place in JST. -/
def jstAt (k : Nat) (f : Flags5) : BitVec 40 := (f.setWidth 40) <<< (5 * k)
/-- Group c of JST. -/
def jstGroup (j : BitVec 40) (c : Nat) : Flags5 := (j >>> (5 * c)).setWidth 5
/-- JST with group c cleared. -/
def jstClear (j : BitVec 40) (c : Nat) : BitVec 40 := j &&& ~~~(jstAt c 0x1F)
/-- The flags of the coefficients of a jet, the first at place `k`. -/
def jstOf (k : Nat) (rs : List Fres) : BitVec 40 :=
  match rs with
  | [] => 0
  | r :: t => jstAt k r.flags ||| jstOf (k + 1) t
/-- Flags of several results merged in group 0. -/
def jstMerged (rs : List Fres) : BitVec 40 := rs.foldl (fun a r => a ||| jstAt 0 r.flags) 0

end Sys2Proof.Machine
end

