-- ==== Sys2Proof/Machine/Sf.lean ====
section
/-!
DEFINITION. The special functions of R107 to R109. The spec bounds coefficient 0 by one or two units in the last place
and leaves the delivered bits open inside the bound; the model encloses the exact value between two rationals, lists
every FP32 value that the bound admits and lets `Config.pick` choose one by function and operand alone (R109; DESIGN CHOICE, log 7).
The exact and special values of R107 and R108 are delivered as they are listed.
-/
namespace Sys2Proof.Machine

/-- Fraction bits of the fixed-point numbers below. -/
def sfP : Nat := 224
/-- One, in fixed point. -/
def sfOne : Nat := 2 ^ sfP
/-- Slack, in fixed-point units, that covers every truncation of the evaluation. -/
def sfSlack : Nat := 2 ^ 24
/-- π times 2^640, rounded down. -/
def pi640 : Nat :=
  0x3243f6a8885a308d313198a2e03707344a4093822299f31d0082efa98ec4e6c89452821e638d01377be5466cf34e90c6cc0ac29b7c97c50dd3f84d5b5b54709179216d5d98979fb1bd1310ba698dfb5ac
/-- ln 2 times 2^256, rounded down. -/
def ln2x256 : Nat := 0xb17217f7d1cf79abc9e3b39803f2f6af40f343267298b62d8a0d175b8baafa2b
/-- ln 2 in fixed point. -/
def sfLn2 : Nat := ln2x256 / 2 ^ (256 - sfP)

/-- Product in fixed point. -/
def fixMul (a b : Nat) : Nat := a * b / sfOne

/-- The exponential series from term `i`, for an argument below one. -/
def expSeries (y : Nat) (fuel i term acc : Nat) : Nat :=
  match fuel with
  | 0 => acc
  | k + 1 => expSeries y k (i + 1) (fixMul term y / i) (acc + fixMul term y / i)

/-- e^y for fixed-point `0 ≤ y < 1`. -/
def expFix (y : Nat) : Nat := expSeries y 48 1 sfOne sfOne

/-- 2^f for fixed-point `0 ≤ f ≤ 1`. -/
def exp2Fix (f : Nat) : Nat := expFix (fixMul f sfLn2)

/-- Alternating series with the terms `x^i / ((2i)! or (2i+1)!)`; `j` is the first divisor of the next term. -/
def altSeries (x : Nat) (fuel : Nat) (j : Nat) (term : Nat) (minus : Bool) (acc : Int) : Int :=
  match fuel with
  | 0 => acc
  | k + 1 =>
    let t := fixMul term x / (j * (j + 1))
    altSeries x k (j + 2) t (!minus) (if minus then acc - (t : Int) else acc + (t : Int))

/-- sin r / r, as a series in r² (fixed point). -/
def sinOverR (r2 : Nat) : Nat := (altSeries r2 30 2 sfOne true sfOne).toNat
/-- cos r, as a series in r² (fixed point). -/
def cosOfR (r2 : Nat) : Nat := (altSeries r2 30 1 sfOne true sfOne).toNat

/-- The atanh series: z^(2i+1) / (2i+1). -/
def atanhSeries (z2 : Nat) (fuel i power acc : Nat) : Nat :=
  match fuel with
  | 0 => acc
  | k + 1 => atanhSeries z2 k (i + 2) (fixMul power z2) (acc + fixMul power z2 / i)

/-- atanh z for fixed-point z. -/
def atanhFix (z : Nat) : Nat := atanhSeries (fixMul z z) 64 3 z z

/-- An exact magnitude strictly between `lo · 2^ex` and `hi · 2^ex`. -/
structure Enclosure where
  lo : Nat
  hi : Nat
  ex : Int
  deriving DecidableEq, Repr

/-- `m · 2^e` in fixed point, rounded down. -/
def toFix (m : Nat) (e : Int) : Nat := let (n, d) := scale2 m 1 (e + (sfP : Int)); n / d

/-- 2^(−x) for fixed-point x: a fixed-point mantissa and its binary exponent. -/
def exp2Neg (x : Nat) : Nat × Int :=
  let n := x / sfOne
  (exp2Fix (sfOne - x % sfOne), -((n : Int) + 1))

/-- e^(−|a|) for a magnitude, by 2^(−|a| / ln 2). -/
def expNeg (m : Nat) (e : Int) : Nat × Int := exp2Neg (toFix m e * sfOne / sfLn2)

/-- 2^a. -/
def encExp2 (neg : Bool) (m : Nat) (e : Int) : Enclosure :=
  let x := toFix m e
  if neg then
    if 2 ^ 10 * sfOne ≤ x then ⟨0, 1, -600⟩
    else
      let (v, k) := exp2Neg x
      ⟨v - sfSlack, min (v + sfSlack) (2 * sfOne), k - (sfP : Int)⟩
  else
    let v := exp2Fix (x % sfOne)
    ⟨max (v - sfSlack) sfOne, v + sfSlack, ((x / sfOne : Nat) : Int) - (sfP : Int)⟩

/-- |log₂ a| for a positive `m · 2^e`, and whether it is negative. -/
def encLog2 (m : Nat) (e : Int) : Bool × Enclosure :=
  let k := Nat.log2 m
  let low := decide (2 * m ≤ 3 * 2 ^ k)
  let n : Int := (k : Int) + e + (if low then 0 else 1)
  let base := if low then 2 ^ k else 2 ^ (k + 1)
  let z := (if m < base then base - m else m - base) * sfOne / (m + base)
  let l : Int := ((2 * atanhFix z * sfOne / sfLn2 : Nat) : Int)
  let v : Int := n * (sfOne : Int) + (if m < base then -l else l)
  (decide (v < 0), ⟨v.natAbs - sfSlack, v.natAbs + sfSlack, -(sfP : Int)⟩)

/-- tanh |a|. -/
def encTanh (m : Nat) (e : Int) : Enclosure :=
  if 100 * sfOne ≤ toFix m e then ⟨sfOne - 1, sfOne, -(sfP : Int)⟩
  else
    let (v, k) := expNeg (2 * m) e
    let q := v / 2 ^ (-k).toNat
    let t := (sfOne - q) * sfOne / (sfOne + q)
    ⟨t - sfSlack, min (t + sfSlack) sfOne, -(sfP : Int)⟩

/-- 1 / (1 + e^−a). -/
def encSigm (neg : Bool) (m : Nat) (e : Int) : Enclosure :=
  if 300 * sfOne ≤ toFix m e then
    if neg then ⟨0, 1, -400⟩ else ⟨sfOne - 1, sfOne, -(sfP : Int)⟩
  else
    let (v, k) := expNeg m e
    let q := v / 2 ^ (-k).toNat
    if neg then
      let t := v * sfOne / (sfOne + q)
      let top : Nat := if k == -1 then sfOne else 2 * sfOne
      ⟨t - sfSlack, min (t + sfSlack) top, k - (sfP : Int)⟩
    else
      let t := sfOne * sfOne / (sfOne + q)
      ⟨max (t - sfSlack) (sfOne / 2), min (t + sfSlack) sfOne, -(sfP : Int)⟩

/-- sin r for a magnitude `rm · 2^rex` of at most π/4. -/
def encSinR (rm : Nat) (rex : Int) : Enclosure :=
  let r2 := let (n, d) := scale2 (rm * rm) 1 (2 * rex + (sfP : Int)); n / d
  let s := sinOverR r2
  ⟨rm * (s - sfSlack), min (rm * (s + sfSlack)) (rm * sfOne), rex - (sfP : Int)⟩

/-- cos r for a magnitude of at most π/4. -/
def encCosR (rm : Nat) (rex : Int) : Enclosure :=
  let r2 := let (n, d) := scale2 (rm * rm) 1 (2 * rex + (sfP : Int)); n / d
  let c := cosOfR r2
  ⟨c - sfSlack, min (c + sfSlack) sfOne, -(sfP : Int)⟩

/-- An angle reduced to a quadrant `k` and a remainder of at most half a quadrant: `rm · 2^rex` radians, signed. -/
structure Reduced where
  quadrant : Nat
  neg : Bool
  rm : Nat
  rex : Int
  deriving DecidableEq, Repr

/-- Radians, reduced against π to full precision. -/
def reduceRadians (m : Nat) (e : Int) : Reduced :=
  let a := m * 2 ^ (e + 640).toNat
  let h := pi640 / 2
  let k := (2 * a + h) / (2 * h)
  let r : Int := (a : Int) - (k * h : Nat)
  ⟨k % 4, decide (r < 0), r.natAbs, -640⟩

/-- Turns: the remainder is a number of quadrants in units of 2^−160 (R108). -/
def reduceTurns (m : Nat) (e : Int) : Reduced :=
  let t := m * 2 ^ (e + 162).toNat
  let k := (t + 2 ^ 159) / 2 ^ 160
  let r : Int := (t : Int) - (k * 2 ^ 160 : Nat)
  ⟨k % 4, decide (r < 0), r.natAbs * pi640, -801⟩

/-- Sign and enclosure of the sine of a reduced angle. -/
def sinReduced (r : Reduced) : Bool × Enclosure :=
  match r.quadrant with
  | 0 => (r.neg, encSinR r.rm r.rex)
  | 1 => (false, encCosR r.rm r.rex)
  | 2 => (!r.neg, encSinR r.rm r.rex)
  | _ => (true, encCosR r.rm r.rex)

/-- Sign and enclosure of the cosine of a reduced angle. -/
def cosReduced (r : Reduced) : Bool × Enclosure := sinReduced { r with quadrant := (r.quadrant + 1) % 4 }

/-- The FP32 magnitudes an exact value admits within `b` units in the last place (R107). The unit is the spacing of the binade that
the exact value lies in, also beside a power of two (DESIGN CHOICE, log 76). -/
def admitted (b : Nat) (x : Enclosure) : List Nat :=
  let lo := if x.lo == 0 then 1 else x.lo
  let k := exponentOf lo 1 x.ex
  let u : Int := if k - 23 < -149 then -149 else k - 23
  let n := (roundAt .rtz false lo 1 x.ex u).1
  let c := n + (u + 149).toNat * 2 ^ 23
  let base := if x.ex < -149 then x.ex else -149
  let sc (m : Nat) (e : Int) : Nat := m * 2 ^ (e - base).toNat
  let slack := sc b u
  (upFrom (c - 3) 8).filter fun code =>
    match decodeFp .fp32 code with
    | .fin _ m e => decide (sc m e < sc x.hi x.ex + slack) && decide (sc x.lo x.ex < sc m e + slack)
    | _ => false

/-- Delivers one of the admitted results, inexact, with the flags of R63 judged on the exact value. -/
def deliverSf (fn : Nat) (a : BitVec 32) (b : Nat) (neg : Bool) (x : Enclosure) : Fres :=
  let cs := admitted b x
  let code := listGet 0 cs (Config.pick fn a.toNat % cs.length)
  let fl := (roundTo .fp32 .toInf false (4 * x.lo + 1) 1 (x.ex - 2)).flags
  ⟨signed .fp32 neg code, fl ||| flagInexact⟩

/-- FEXP2 (R107). -/
def sfExp2 (a : BitVec 32) : Fres :=
  match val32 a with
  | .nan => nanRes .fp32
  | .inf s => if s then ⟨0, 0⟩ else ⟨Fmt.fp32.infCode, 0⟩
  | .fin s m e =>
    let (n, exact) := roundAt .rtz s m 1 e 0
    if !s && 128 ≤ n then ⟨Fmt.fp32.infCode, flagOverflow ||| flagInexact⟩
    else if exact && (!s || n ≤ 149) then roundTo .fp32 .toInf false 1 1 (if s then -(n : Int) else (n : Int))
    else deliverSf 0 a 1 false (encExp2 s m e)

/-- FLOG2 (R107). -/
def sfLog2 (a : BitVec 32) : Fres :=
  match val32 a with
  | .nan => nanRes .fp32
  | .inf s => if s then invalidRes .fp32 else ⟨Fmt.fp32.infCode, 0⟩
  | .fin s m e =>
    if m == 0 then ⟨signed .fp32 true Fmt.fp32.infCode, flagDivZero⟩
    else if s then invalidRes .fp32
    else
      let k := Nat.log2 m
      if m == 2 ^ k then roundVal .fp32 .toInf (.fin (decide ((k : Int) + e < 0)) ((k : Int) + e).natAbs 0)
      else let (neg, x) := encLog2 m e; deliverSf 1 a 1 neg x

/-- FTANH (R107). -/
def sfTanh (a : BitVec 32) : Fres :=
  match val32 a with
  | .nan => nanRes .fp32
  | .inf s => ⟨signed .fp32 s 0x3F800000, 0⟩
  | .fin s m e =>
    if m == 0 then ⟨a.toNat, 0⟩
    else if exponentOf m 1 e < -12 then
      ⟨a.toNat, (if exponentOf m 1 e < -126 then flagUnderflow ||| flagInexact else flagInexact)⟩
    else deliverSf 2 a 2 s (encTanh m e)

/-- FSIGM (R107). -/
def sfSigm (a : BitVec 32) : Fres :=
  match val32 a with
  | .nan => nanRes .fp32
  | .inf s => if s then ⟨0, 0⟩ else ⟨0x3F800000, 0⟩
  | .fin s m e => if m == 0 then ⟨0x3F000000, 0⟩ else deliverSf 3 a 2 false (encSigm s m e)

/-- FSIN (R107). -/
def sfSin (a : BitVec 32) : Fres :=
  match val32 a with
  | .nan => nanRes .fp32
  | .inf _ => invalidRes .fp32
  | .fin s m e =>
    if m == 0 then ⟨a.toNat, 0⟩
    else let (neg, x) := sinReduced (reduceRadians m e); deliverSf 4 a 1 (s != neg) x

/-- FCOS (R107). -/
def sfCos (a : BitVec 32) : Fres :=
  match val32 a with
  | .nan => nanRes .fp32
  | .inf _ => invalidRes .fp32
  | .fin _ m e =>
    if m == 0 then ⟨0x3F800000, 0⟩
    else let (neg, x) := cosReduced (reduceRadians m e); deliverSf 5 a 1 neg x

/-- FSINT (R108). -/
def sfSint (a : BitVec 32) : Fres :=
  match val32 a with
  | .nan => nanRes .fp32
  | .inf _ => invalidRes .fp32
  | .fin s m e =>
    let r := reduceTurns m e
    if r.rm == 0 then
      match r.quadrant with
      | 1 => ⟨signed .fp32 s 0x3F800000, 0⟩
      | 3 => ⟨signed .fp32 (!s) 0x3F800000, 0⟩
      | _ => ⟨signed .fp32 s 0, 0⟩
    else let (neg, x) := sinReduced r; deliverSf 6 a 1 (s != neg) x

/-- FCOST (R108). -/
def sfCost (a : BitVec 32) : Fres :=
  match val32 a with
  | .nan => nanRes .fp32
  | .inf _ => invalidRes .fp32
  | .fin _ m e =>
    let r := reduceTurns m e
    if r.rm == 0 then
      match r.quadrant with
      | 0 => ⟨0x3F800000, 0⟩
      | 2 => ⟨signed .fp32 true 0x3F800000, 0⟩
      | _ => ⟨0, 0⟩
    else let (neg, x) := cosReduced r; deliverSf 7 a 1 neg x

end Sys2Proof.Machine
end

