-- ==== Sys2Proof/Machine/Jets.lean ====
section
/-!
DEFINITION. The series rules of Taylor jets (R79 to R85). A jet is the list of its coefficients' patterns. Every
coefficient above 0 is one step, rounded once.
-/
namespace Sys2Proof.Machine

/-- A jet's patterns, coefficient 0 first. -/
abbrev Jet := List (BitVec 32)

/-- Coefficient k of a jet as a value. -/
def coef (j : Jet) (k : Nat) : Val := val32 (listGet 0 j k)
/-- A value times a small natural number. -/
def Val.timesNat (v : Val) (n : Nat) : Val :=
  match v with
  | .fin s m e => .fin s (m * n) e
  | v => v

/-- Extends the results of lower coefficients by one step. -/
def stepOnto (rs : List Fres) (f : Nat → Jet → Fres) (k : Nat) : List Fres :=
  rs ++ [f k (rs.map fun r => BitVec.ofNat 32 r.bits)]
/-- The coefficients 0 to K of a series, each from those below it. -/
def series (order : Nat) (y0 : Fres) (f : Nat → Jet → Fres) : List Fres :=
  (upFrom 1 order).foldl (fun rs k => stepOnto rs f k) [y0]

/-- LN2 and TWOPI of R82, as numerators over 2^64 and 2^61. -/
def ln2Num : Nat := 0xB17217F7D1CF79AC
def twoPiNum : Nat := 0xC90FDAA22168C235
/-- The value LN2. -/
def ln2Val : Val := .fin false ln2Num (-64)

/-! ## Add, multiply, fused -/

/-- FADD and FSUB. -/
def jetAdd (order : Nat) (minus : Bool) (a b : Jet) : List Fres :=
  (upFrom 0 (order + 1)).map fun k =>
    fusedSum .fp32 [(coef a k).term, if minus then (coef b k).term.negate else (coef b k).term]
/-- The Cauchy terms a_i·b_j with i + j = k. -/
def cauchy (a b : Jet) (k : Nat) : List Term :=
  (upFrom 0 (k + 1)).map fun i => mulTerm (coef a i) (coef b (k - i))
/-- FMUL. -/
def jetMul (order : Nat) (a b : Jet) : List Fres :=
  (upFrom 0 (order + 1)).map fun k => fusedSum .fp32 (cauchy a b k)
/-- FFMA, FFMSUB (`minusD`), FFNMA (`minusP`). -/
def jetFma (order : Nat) (minusP minusD : Bool) (a b d : Jet) : List Fres :=
  (upFrom 0 (order + 1)).map fun k =>
    fusedSum .fp32
      (((cauchy a b k).map fun t => if minusP then t.negate else t)
        ++ [if minusD then (coef d k).term.negate else (coef d k).term])

/-! ## Division family -/

/-- The terms −x_j·y_{k−j} for j from `lo`, `n` of them. -/
def minusConv (x y : Jet) (k lo n : Nat) : List Term :=
  (upFrom lo n).map fun j => (mulTerm (coef x j) (coef y (k - j))).negate

/-- FDIV. -/
def jetDiv (order : Nat) (a b : Jet) : List Fres :=
  series order (quotient (coef a 0).term 1 1 (coef b 0)) fun k y =>
    quotient (exactSum ((coef a k).term :: minusConv b y k 1 k)) 1 1 (coef b 0)
/-- FRCP: FDIV of (1, 0, …). -/
def jetRcp (order : Nat) (a : Jet) : List Fres := jetDiv order [0x3F800000] a
/-- FSQRT. -/
def jetSqrt (order : Nat) (a : Jet) : List Fres :=
  series order (fsqrtVal (coef a 0)) fun k y =>
    quotient (exactSum ((coef a k).term :: minusConv y y k 1 (k - 1))) 1 1 ((coef y 0).timesNat 2)
/-- FRSQ. -/
def jetRsq (order : Nat) (a : Jet) : List Fres :=
  series order (frsqVal (coef a 0)) fun k y =>
    quotient (exactSum ((upFrom 1 k).map fun j =>
      (mulTerm (coef a j) (coef y (k - j))).mul (.fin true (2 * k - j) (-1)))) 1 k (coef a 0)

/-! ## Special functions -/

/-- The terms j·a_j·x_{k−j} for j = 1 to k. -/
def scaledConv (a x : Jet) (k : Nat) : List Term :=
  (upFrom 1 k).map fun j => mulTerm ((coef a j).timesNat j) (coef x (k - j))

/-- FEXP2. -/
def jetExp2 (order : Nat) (a : Jet) : List Fres :=
  series order (sfExp2 (listGet 0 a 0)) fun k y =>
    quotient (exactSum (scaledConv a y k)) ln2Num (k * 2 ^ 64) Val.one
/-- FLOG2. -/
def jetLog2 (order : Nat) (a : Jet) : List Fres :=
  series order (sfLog2 (listGet 0 a 0)) fun k y =>
    quotient (exactSum (((coef a k).timesNat k).term :: ((upFrom 1 (k - 1)).map fun j =>
      ((mulTerm ((coef y j).timesNat j) (coef a (k - j))).mul ln2Val).negate))) (2 ^ 64) (k * ln2Num) (coef a 0)
/-- W_m of FTANH: the exact sum of [m == 0] and −y_i·y_{m−i}. -/
def tanhW (y : Jet) (m : Nat) : Term :=
  exactSum ((if m == 0 then [Val.one.term] else []) ++ minusConv y y m 0 (m + 1))
/-- W_m of FSIGM: the exact sum of y_m and −y_i·y_{m−i}. -/
def sigmW (y : Jet) (m : Nat) : Term := exactSum ((coef y m).term :: minusConv y y m 0 (m + 1))
/-- A step Σ j·a_j·W_{k−j} / k. -/
def wStep (w : Jet → Nat → Term) (a : Jet) (k : Nat) (y : Jet) : Fres :=
  quotient (exactSum ((upFrom 1 k).map fun j => ((coef a j).timesNat j).term.times (w y (k - j)))) 1 k Val.one
/-- FTANH. -/
def jetTanh (order : Nat) (a : Jet) : List Fres := series order (sfTanh (listGet 0 a 0)) (wStep tanhW a)
/-- FSIGM. -/
def jetSigm (order : Nat) (a : Jet) : List Fres := series order (sfSigm (listGet 0 a 0)) (wStep sigmW a)

/-- Both chains of R83: sines and cosines. -/
structure Chains where
  s : List Fres
  c : List Fres
  deriving DecidableEq, Repr

/-- One coefficient of both chains: Ω times the finished sum, and −Ω times it. -/
def chainStep (num den : Nat) (a : Jet) (x : Chains) (k : Nat) : Chains :=
  let s : Jet := x.s.map fun r => BitVec.ofNat 32 r.bits
  let c : Jet := x.c.map fun r => BitVec.ofNat 32 r.bits
  { s := x.s ++ [quotient (exactSum (scaledConv a c k)) num (k * den) Val.one],
    c := x.c ++ [quotient (exactSum (scaledConv a s k)).negate num (k * den) Val.one] }
/-- SinCosChains of R83 for the constant `num / den`. -/
def chains (order num den : Nat) (a : Jet) (s0 c0 : Fres) : Chains :=
  (upFrom 1 order).foldl (chainStep num den a) ⟨[s0], [c0]⟩

def jetSin (order : Nat) (a : Jet) : List Fres :=
  (chains order 1 1 a (sfSin (listGet 0 a 0)) (sfCos (listGet 0 a 0))).s
def jetCos (order : Nat) (a : Jet) : List Fres :=
  (chains order 1 1 a (sfSin (listGet 0 a 0)) (sfCos (listGet 0 a 0))).c
def jetSint (order : Nat) (a : Jet) : List Fres :=
  (chains order twoPiNum (2 ^ 61) a (sfSint (listGet 0 a 0)) (sfCost (listGet 0 a 0))).s
def jetCost (order : Nat) (a : Jet) : List Fres :=
  (chains order twoPiNum (2 ^ 61) a (sfSint (listGet 0 a 0)) (sfCost (listGet 0 a 0))).c

/-! ## Selection and sign (R79) -/

/-- FMIN and FMAX: the whole chosen jet. -/
def jetSelect (order : Nat) (hi : Bool) (a b : Jet) : Jet :=
  match chooseFp hi (listGet 0 a 0) (listGet 0 b 0) with
  | .left => a
  | .right => b
  | .defaultNan => (upFrom 0 (order + 1)).map fun _ => 0x7FC00000
/-- Bit 31 of every coefficient flipped, or none. -/
def jetFlip (flip : Bool) (a : Jet) : Jet := a.map fun x => if flip then x ^^^ 0x80000000 else x

end Sys2Proof.Machine
end

