-- ==== Sys2Proof/WellFormed.lean ====
section
/-!
DEFINITION. Well-formedness of an instruction: the parts of R40 to R44, R160 and R181 that no field type expresses.
What depends on the function or on the jet order in force (branch targets, LOOP nesting, JALIGN, JORDSUP, HAZARD, and
R160 at order 1) is checked by the translator, Sys2Proof/Machine/Twill.lean.
-/
namespace Sys2Proof

/-- A register number that is a multiple of the size of the group it starts. -/
def aligned (r : BitVec 6) (n : Nat) : Bool := r.toNat % n == 0

/-- `n` registers from `r` that neither pass v63 nor straddle v31 and v32 (R40, R160). -/
def regSpan (r : BitVec 6) (n : Nat) : Bool :=
  decide (r.toNat + n ≤ 64) && (decide (r.toNat + n ≤ 32) || decide (32 ≤ r.toNat))

/-- A 64-bit source names an even register, or a uniform register (R91). -/
def Src.pairOk (a : Src) : Bool := a.sel == .uni || aligned a.reg 2

/-- Bytes of an LM access (R33). -/
def Size.bytes : Size → Nat
  | .b8 => 1 | .b16 => 2 | .b32 => 4 | .b64 => 8 | .b128 => 16 | .b256 => 32

/-- Registers an LM size names (R33). -/
def Size.regs : Size → Nat
  | .b8 => 1 | .b16 => 1 | .b32 => 1 | .b64 => 2 | .b128 => 4 | .b256 => 8

/-- Registers one operand of an atomic takes (R40). -/
def AtomWidth.regs : AtomWidth → Nat
  | .w32 => 1 | .w64 => 2

/-- Bytes of an atomic. -/
def AtomWidth.bytes : AtomWidth → Nat
  | .w32 => 4 | .w64 => 8

/-- Registers of a queue access (R144). -/
def QSize.regs : QSize → Nat
  | .q32 => 1 | .q64 => 2 | .q128 => 4

/-- The jet order K (R77). -/
def JetOrder.order : JetOrder → Nat
  | .k0 => 0 | .k1 => 1 | .k3 => 3 | .k7 => 7

/-- An even pair, or a uniform register (R151). -/
def Target.wf : Target → Bool
  | .pair v => aligned v 2
  | .uni _ => true

/-- Element registers of an A group (R160). -/
def MmaType.aElems : MmaType → Nat
  | .mxfp4 => 16
  | _ => 8

/-- Element registers of a B group (R160). -/
def MmaType.bElems : MmaType → Nat
  | .mxfp4 => 4
  | _ => 2

/-- Scale registers of a group (R160). -/
def MmaType.scaleRegs : MmaType → Nat
  | .bf16 => 0 | .f16 => 0 | .e4m3 => 0 | .e5m2 => 0
  | .mxE4m3 => 1 | .mxE5m2 => 1 | .mxfp4 => 1 | .s8E4m3 => 1 | .s8E5m2 => 1

/-- Registers of an A group at order 0 (R160). -/
def MmaType.aRegs (t : MmaType) : Nat := t.aElems + t.scaleRegs
/-- Registers of a B group at order 0 (R160). -/
def MmaType.bRegs (t : MmaType) : Nat := t.bElems + t.scaleRegs

/-- Two register spans that share no register. -/
def disjointSpans (a n b k : Nat) : Bool := decide (a + n ≤ b) || decide (b + k ≤ a)

/-- The rules of R160 for one operand group of `n` registers at base `r`, `acc` accumulator registers at `d`. -/
def mmaGroupOk (n elems acc : Nat) (r d : VReg) : Bool :=
  aligned r elems && regSpan r n && disjointSpans r.toNat n d.toNat acc

/-- R160 at order 0: groups of `n` registers against 16 accumulators. -/
def MmaType.groupOk (_t : MmaType) (n elems : Nat) (r d : VReg) : Bool := mmaGroupOk n elems 16 r d

/-- The indices of the control-register map (R181). -/
def controlListed (n : Nat) : Bool :=
  decide (n ≤ 4) || decide (6 ≤ n ∧ n ≤ 8)
  || decide (0x10 ≤ n ∧ n ≤ 0x12) || decide (0x14 ≤ n ∧ n ≤ 0x16) || decide (0x18 ≤ n ∧ n ≤ 0x1A)
  || decide (0x20 ≤ n ∧ n ≤ 0xB7) || decide (0xC0 ≤ n ∧ n ≤ 0xC4) || decide (0xC8 ≤ n ∧ n ≤ 0xCA)
  || decide (0xD0 ≤ n ∧ n ≤ 0xD4) || decide (0xD8 ≤ n ∧ n ≤ 0xDB) || decide (0x100 ≤ n ∧ n ≤ 0x10F)

/-- The counters CNTRD can name (R210). -/
def counterListed (n : Nat) : Bool := decide (n ≤ 5) || decide (0x10 ≤ n ∧ n ≤ 0x1F)

/-- The rules of R40 to R44 that bear on one instruction alone: register groups, reserved register numbers and
reserved indices. The further steps have no encoding and are always well formed (DEDUCED, log 59). -/
def Instr.wellFormed (i : Instr) : Bool :=
  match i with
  | .iadd _ _ _ => true
  | .isub _ _ _ => true
  | .iminS _ _ _ => true
  | .imaxS _ _ _ => true
  | .iminN _ _ _ => true
  | .imaxN _ _ _ => true
  | .iabsd _ _ _ => true
  | .ipopc _ _ => true
  | .iand _ _ _ => true
  | .ior _ _ _ => true
  | .ixor _ _ _ => true
  | .iandn _ _ _ => true
  | .ishl _ _ _ => true
  | .ishr _ _ _ => true
  | .isar _ _ _ => true
  | .irot _ _ _ => true
  | .imul _ _ _ => true
  | .imulhiS _ _ _ => true
  | .imulhiN _ _ _ => true
  | .imad _ _ _ => true
  | .iclz _ _ => true
  | .ibrev _ _ => true
  | .ibfx _ _ _ => true
  | .ibfi _ _ _ => true
  | .icmpSEq _ _ _ => true
  | .icmpSNe _ _ _ => true
  | .icmpSLt _ _ _ => true
  | .icmpSLe _ _ _ => true
  | .icmpNEq _ _ _ => true
  | .icmpNNe _ _ _ => true
  | .icmpNLt _ _ _ => true
  | .icmpNLe _ _ _ => true
  | .psub _ _ _ _ => true
  | .padd _ _ _ _ => true
  | .pmov _ _ _ _ => true
  | .pand _ _ _ => true
  | .por _ _ _ => true
  | .pxor _ _ _ => true
  | .pandn _ _ _ => true
  | .iaddi _ _ _ => true
  | .iandi _ _ _ => true
  | .ishli _ _ _ => true
  | .ishri _ _ _ => true
  | .isari _ _ _ => true
  | .iroti _ _ _ => true
  | .icmpi _ _ _ _ => true
  | .movi _ _ => true
  | .movhi _ _ => true
  | .srd _ i => decide (i.toNat ≤ 0x12)
  | .tidx d a _ => regSpan d 5 && a.pairOk
  | .fadd _ _ _ => true
  | .fsub _ _ _ => true
  | .fmul _ _ _ => true
  | .ffma _ _ _ => true
  | .fmin _ _ _ => true
  | .fmax _ _ _ => true
  | .ffmsub _ _ _ => true
  | .ffnma _ _ _ => true
  | .fabs _ _ => true
  | .fneg _ _ => true
  | .fcpsgn _ _ _ => true
  | .fnabs _ _ => true
  | .fcmpEq _ _ _ => true
  | .fcmpLt _ _ _ => true
  | .fcmpLe _ _ _ => true
  | .fcmpUnord _ _ _ => true
  | .fdiv _ _ _ => true
  | .fsqrt _ _ => true
  | .frcp _ _ => true
  | .frsq _ _ => true
  | .fexp2 _ _ => true
  | .flog2 _ _ => true
  | .ftanh _ _ => true
  | .fsigm _ _ => true
  | .fsin _ _ => true
  | .fcos _ _ => true
  | .fsint _ _ => true
  | .fcost _ _ => true
  | .frndRne _ _ => true
  | .frndRtz _ _ => true
  | .frndFloor _ _ => true
  | .frndCeil _ _ => true
  | .cvtF32I32 _ _ => true
  | .cvtF32N32 _ _ => true
  | .cvtI32F32 _ _ => true
  | .cvtN32F32 _ _ => true
  | .unpkBf16lo _ _ => true
  | .unpkBf16hi _ _ => true
  | .packBf16 _ _ _ => true
  | .packF16 _ _ _ => true
  | .unpkE4m3 d _ => aligned d 4
  | .unpkE5m2 d _ => aligned d 4
  | .pkE4m3 _ a => aligned a 4
  | .pkE5m2 _ a => aligned a 4
  | .jseedSeed _ _ _ => true
  | .jseedConst _ _ => true
  | .jseedCopy _ _ => true
  | .jget _ _ _ => true
  | .jput _ _ _ => true
  | .jflgRd _ _ => true
  | .jflgRc _ _ => true
  | .jflgClr _ _ => true
  | .ballot d _ => aligned d 2
  | .any _ _ => true
  | .all _ _ => true
  | .count _ _ => true
  | .reduxIadd _ _ => true
  | .reduxIminS _ _ => true
  | .reduxImaxS _ _ => true
  | .reduxOr _ _ => true
  | .scanIadd _ _ => true
  | .scanFadd _ _ => true
  | .scanImaxS _ _ => true
  | .scanIaddExcl _ _ => true
  | .ldG d _ _ _ z => aligned d z.regs
  | .stG d _ _ _ z => aligned d z.regs
  | .ldS d _ _ z => aligned d z.regs
  | .stS d _ _ _ z => aligned d z.regs
  | .ldth d _ _ z => aligned d z.regs
  | .ljoin d _ _ _ z => aligned d z.regs
  | .atomAdd d _ _ _ w => aligned d w.regs
  | .atomMinS d _ _ _ w => aligned d w.regs
  | .atomMaxS d _ _ _ w => aligned d w.regs
  | .atomMinN d _ _ _ w => aligned d w.regs
  | .atomMaxN d _ _ _ w => aligned d w.regs
  | .atomAnd d _ _ _ w => aligned d w.regs
  | .atomOr d _ _ _ w => aligned d w.regs
  | .atomXor d _ _ _ w => aligned d w.regs
  | .atomExch d _ _ _ w => aligned d w.regs
  | .atomCas d _ _ _ w => aligned d (2 * w.regs)
  | .atomFadd _ _ _ _ => true
  | .atomFmax _ _ _ _ => true
  | .qpop d _ s _ => aligned d s.regs
  | .qpush d _ s _ => aligned d s.regs
  | .br p n _ => !(p == 7#3 && n)
  | .call _ => true
  | .jmpi a => a.wf
  | .calli a => a.wf
  | .ret => true
  | .loop _ _ _ => true
  | .exit => true
  | .brk => true
  | .yield => true
  | .nop => true
  | .trap _ => true
  | .barArrive _ => true
  | .barWait _ => true
  | .barSync _ => true
  | .fence _ _ _ _ => true
  | .mmaRr d a b t _ => aligned d 16 && t.groupOk t.aRegs t.aElems a d && t.groupOk t.bRegs t.bElems b d
  | .mmaRs d a b t _ => aligned d 16 && t.groupOk t.aRegs t.aElems a d && aligned b 2
  | .mmaSs d a b _ _ => aligned d 16 && aligned a 2 && aligned b 2
  | .maccZero d => aligned d 16
  | .maccBf16 d a => aligned d 16 && aligned a 8
  | .maccE4m3 d a => aligned d 16 && aligned a 4
  | .maccScale d _ => aligned d 16
  | .sadd _ _ _ => true
  | .ssub _ _ _ => true
  | .smul _ _ _ => true
  | .smulhiS _ _ _ => true
  | .smulhiN _ _ _ => true
  | .sand _ _ _ => true
  | .sor _ _ _ => true
  | .sxor _ _ _ => true
  | .sandn _ _ _ => true
  | .sshlv _ _ _ => true
  | .sshrv _ _ _ => true
  | .ssarv _ _ _ => true
  | .sminS _ _ _ => true
  | .smaxS _ _ _ => true
  | .sminN _ _ _ => true
  | .smaxN _ _ _ => true
  | .sclz _ _ => true
  | .spopc _ _ => true
  | .srotv _ _ _ => true
  | .sctz _ _ => true
  | .sbrev _ _ => true
  | .smov _ _ => true
  | .scmp _ _ _ _ => true
  | .saddi _ _ _ => true
  | .sandi _ _ _ => true
  | .sori _ _ _ => true
  | .sshli _ _ _ => true
  | .sshri _ _ _ => true
  | .ssari _ _ _ => true
  | .sroti _ _ _ => true
  | .smovi _ _ => true
  | .slitA _ _ => true
  | .slitB _ _ => true
  | .slitC _ _ => true
  | .srds _ i => controlListed i.toNat
  | .swrs _ _ i => controlListed i.toNat
  | .ubr a c _ => c != .always || a == 0#6
  | .sld _ _ _ => true
  | .sst _ _ _ _ => true
  | .satomAdd _ _ _ => true
  | .satomMinS _ _ _ => true
  | .satomMaxS _ _ _ => true
  | .satomMinN _ _ _ => true
  | .satomMaxN _ _ _ => true
  | .satomAnd _ _ _ => true
  | .satomOr _ _ _ => true
  | .satomXor _ _ _ => true
  | .satomExch _ _ _ => true
  | .satomCas _ _ _ _ => true
  | .xpat _ => true
  | .jord _ => true
  | .tfetch _ => true
  | .tfetchB d _ => aligned d 2
  | .tfetchR _ => true
  | .shpset _ _ => true
  | .xacq => true
  | .xrel => true
  | .xgive _ => true
  | .xtake _ => true
  | .barset _ _ => true
  | .etail _ _ => true
  | .ewait _ _ _ => true
  | .cmoClean _ _ _ => true
  | .cmoInvalidate _ _ _ => true
  | .cmoCleanInvalidate _ _ _ => true
  | .tinv _ _ _ => true
  | .bankmode _ _ o => o != .unnamed
  | .qopen _ _ _ => true
  | .qclose _ _ _ => true
  | .qtry _ _ => true
  | .arm _ _ _ => true
  | .launch _ _ => true
  | .cancel _ _ _ => true
  | .frpt _ _ _ => true
  | .fopr _ _ _ => true
  | .place _ _ _ => true
  | .unplace _ _ => true
  | .preempt _ _ _ c => c != 63#6
  | .migrate _ _ _ => true
  | .resume _ _ _ => true
  | .creset _ _ => true
  | .mapsync _ _ _ => true
  | .cntrd _ i => counterListed i.toNat
  | .cntcfg _ _ _ => true
  | .tret => true
  | .strap _ c => decide (c.toNat < 6)
  | .dbgHalt _ _ _ => true
  | .dbgStep _ _ _ => true
  | .dbgStepall _ _ _ => true
  | .dbgCont _ _ _ => true
  | .dbgRdsel _ _ _ => true
  | .grd _ _ => true
  | .gwr _ _ _ => true
  | .gadd _ _ _ => true
  | .gxch _ _ _ => true
  | .ldk _ _ _ => true
  | .resultReturn _ => true
  | .verdictArrival _ => true
  | .regionCommit _ => true
  | .trapDelivery _ _ _ => true
  | .rendezvousComplete _ _ _ => true
  | .heldAccessReissue _ => true
  | .sideLogReplay _ _ => true
  | .twillTranslation _ _ _ => true
  | .blockGrant _ _ => true
  | .workgroupEnd _ => true
  | .launchCompletion _ => true
  | .launchStart _ => true
  | .workgroupPlacement _ _ => true
  | .phaseStart _ => true
  | .doorbellWrite _ _ _ => true
  | .taggedMessage _ _ => true
  | .engineRecord _ _ _ _ => true
  | .queueWake _ _ => true
  | .ldthCellChange _ => true
  | .ldthPoll _ => true
  | .ldthWaitExpiry _ => true
  | .ewaitWake _ => true
  | .ewaitWaitExpiry _ => true
  | .tokenPass _ _ => true
  | .leaseGrant _ => true
  | .leaseQuantumEnd _ => true
  | .ageingTopPriority _ _ _ => true
  | .preemptFreeze _ _ => true
  | .exchangeBoundary _ _ => true
  | .lineJoin _ => true
  | .heldLineJoin _ => true
  | .softError _ => true
  | .targetedTest _ => true
  | .linkReplay _ _ => true
  | .linkTrainRetry _ _ _ => true
  | .moduleResetRelease _ => true
  | .modulePowerOff => true
  | .unitWakeScrub _ _ => true
  | .drainFrameCopy _ => true
  | .capFrame _ => true
  | .getVersion _ _ => true
  | .getCapabilities _ _ => true
  | .negotiateAlgorithms _ _ => true
  | .getDigests _ _ => true
  | .getCertificate _ _ _ _ _ => true
  | .challenge _ _ _ _ => true
  | .getMeasurements _ _ _ _ => true
  | .keyExchange _ _ _ => true
  | .finish _ _ _ => true
  | .endSession _ _ _ => true
  | .setCertificate _ _ _ _ _ => true
  | .spdmUnsupportedRequest _ _ _ => true
  | .spdmResponseRelease _ => true
  | .getTdispVersion _ _ => true
  | .getTdispCapabilities _ _ => true
  | .lockInterfaceRequest _ _ _ => true
  | .getDeviceInterfaceReport _ _ _ _ _ => true
  | .getDeviceInterfaceState _ _ _ => true
  | .startInterfaceRequest _ _ _ _ => true
  | .stopInterfaceRequest _ _ _ => true
  | .tdispUnsupportedRequest _ _ _ => true
  | .setHallKey _ _ => true
  | .configure _ _ => true
  | .dissolve _ _ => true
  | .query _ => true
  | .setMgmt _ _ _ => true
  | .configUnsupported _ _ => true
  | .fmtvWrite _ _ _ => true
  | .fmthWrite _ _ _ => true
  | .rattrWrite _ _ _ => true
  | .rangeBoundWrite _ _ _ _ => true
  | .windowWrite _ _ _ => true
  | .engheadWrite _ _ _ => true
  | .engseqaWrite _ _ _ => true
  | .xschedWrite _ _ _ => true
  | .xboundWrite _ _ => true
  | .xstatRead _ => true
  | .diemapWrite _ _ _ => true
  | .expbWrite _ _ _ => true
  | .ptrootWrite _ _ => true
  | .plpolWrite _ _ => true
  | .hallkeyWrite _ _ _ => true
  | .pcapWrite _ _ => true
  | .dstateWrite _ _ => true
  | .evachnWrite _ _ => true
  | .capcauseRead _ => true
  | .writeAcknowledged _ => true
  | .linkDown _ _ => true
  | .dieLostWithoutEvacuation _ => true
  | .hbmOrFabricTestFailure _ => true
  | .thermalProtection _ _ => true
  | .electricalProtection _ => true

end Sys2Proof
end

