-- ==== Sys2Proof/Machine/Operands.lean ====
section
/-!
DEFINITION. Operands of lane instructions (R34 to R37, R91) and the one way every register-only lane instruction executes:
per thread, as a member of a rendezvous (R36), or as a participant of a collective (R115).
-/
namespace Sys2Proof.Machine

/-! ## Operand patterns (R35) -/

/-- SLOT1, SLOT2 and MASKREG of XPAT. -/
def xpatSlot1 (x : BitVec 32) : Nat := field x 0 8
def xpatSlot2 (x : BitVec 32) : Nat := field x 8 8
def xpatMaskReg (x : BitVec 32) : Nat := field x 16 6

/-- Src(i) of a slot descriptor. -/
def slotLane (slot i : Nat) : Nat :=
  let a := slot % 64
  match slot / 64 with
  | 0 => (i + a) % 64
  | 1 => i ^^^ a
  | 2 => (i ^^^ (2 ^ (a % 8) - 1)) % 64
  | _ => a

/-- What one thread sees when it executes a lane instruction. -/
structure LaneEnv where
  wg : Wg
  teamId : Nat
  team : Team
  lane : Nat
  cycles : BitVec 64
  own : Thread
  /-- The threads that slots 1 and 2 read. -/
  one : Thread
  two : Thread
  deriving DecidableEq, Repr

/-- The thread a selector reads. -/
def LaneEnv.thread (e : LaneEnv) (s : Sel) : Thread :=
  match s with
  | .slot1 => e.one
  | .slot2 => e.two
  | _ => e.own

/-- Src(f): a 32-bit source (R91). -/
def LaneEnv.src (e : LaneEnv) (a : Src) : BitVec 32 :=
  match a.sel with
  | .uni => (e.team.sreg a.reg.toNat).setWidth 32
  | _ => (e.thread a.sel).v32 a.reg.toNat
/-- Src64(f) (R91). -/
def LaneEnv.src64 (e : LaneEnv) (a : Src) : BitVec 64 :=
  match a.sel with
  | .uni => e.team.sreg a.reg.toNat
  | _ => (e.thread a.sel).v64 a.reg.toNat
/-- SrcJet(f): K+1 registers, or the constant jet of a uniform source (R34). -/
def LaneEnv.srcJet (e : LaneEnv) (order : Nat) (a : Src) : Jet :=
  match a.sel with
  | .uni => (e.team.sreg a.reg.toNat).setWidth 32 :: (upFrom 1 order).map fun _ => 0
  | _ => (upFrom 0 (order + 1)).map fun k => (e.thread a.sel).v32 (a.reg.toNat + k)
/-- V(n). -/
def LaneEnv.v (e : LaneEnv) (r : VReg) : BitVec 32 := e.own.v32 r.toNat
/-- The jet group of own registers from n. -/
def LaneEnv.vJet (e : LaneEnv) (order : Nat) (r : VReg) : Jet :=
  (upFrom 0 (order + 1)).map fun k => e.own.v32 (r.toNat + k)
/-- Pred(n). -/
def LaneEnv.p (e : LaneEnv) (p : PReg) : Bool := e.own.pred p.toNat

/-- What a lane instruction does to its thread. -/
structure LaneRes where
  regs : List (Nat × BitVec 32) := []
  preds : List (Nat × Bool) := []
  flags : BitVec 40 := 0
  /-- JST group that is cleared (R87). -/
  clear : Option Nat := none
  /-- New CLKHI latch (R99). -/
  latch : Option (BitVec 32) := none
  /-- LOOP: counter, trip count and body length (R152). -/
  loop : Option (Nat × BitVec 32 × Nat) := none
  deriving DecidableEq, Repr

/-- A register-only lane instruction. -/
structure LaneOp where
  /-- Its 8-bit source fields (R36 asks for their selectors). -/
  srcs : List Src
  /-- Lane registers it reads and writes (R10). -/
  reads : List Nat
  writes : List Nat
  /-- Its results are pending (R28). -/
  pending : Bool
  run : LaneEnv → LaneRes

/-- Lane registers that a field of `n` registers names. -/
def srcRegs (a : Src) (n : Nat) : List Nat := if a.sel == .uni then [] else upFrom a.reg.toNat n
def vregs (r : VReg) (n : Nat) : List Nat := upFrom r.toNat n

/-- Does the instruction name any of v32 to v63 (R10). -/
def LaneOp.extended (o : LaneOp) : Bool := (o.reads ++ o.writes).any fun r => decide (32 ≤ r)
/-- A cross-lane instruction (R36). -/
def LaneOp.cross (o : LaneOp) : Bool := o.srcs.any fun a => a.sel == .slot1 || a.sel == .slot2
def LaneOp.uses (o : LaneOp) (s : Sel) : Bool := o.srcs.any fun a => a.sel == s

/-- Results of a single register. -/
def oneReg (d : VReg) (x : BitVec 32) : LaneRes := { regs := [(d.toNat, x)] }
/-- Results of consecutive registers. -/
def regsFrom (r : Nat) (xs : List (BitVec 32)) : List (Nat × BitVec 32) :=
  match xs with
  | [] => []
  | x :: t => (r, x) :: regsFrom (r + 1) t
/-- A jet written, its flags by coefficient (R85). -/
def jetRes (d : VReg) (rs : List Fres) : LaneRes :=
  { regs := regsFrom d.toNat (rs.map fun r => BitVec.ofNat 32 r.bits), flags := jstOf 0 rs }

/-- Common shapes: one register from one or two 32-bit sources. -/
def op1 (d : VReg) (a : Src) (f : BitVec 32 → BitVec 32) : LaneOp :=
  { srcs := [a], reads := srcRegs a 1, writes := [d.toNat], pending := false, run := fun e => oneReg d (f (e.src a)) }
def op2 (d : VReg) (a b : Src) (f : BitVec 32 → BitVec 32 → BitVec 32) : LaneOp :=
  { srcs := [a, b], reads := srcRegs a 1 ++ srcRegs b 1, writes := [d.toNat], pending := false,
    run := fun e => oneReg d (f (e.src a) (e.src b)) }
/-- As `op2`, reading vD as well. -/
def op3 (d : VReg) (a b : Src) (f : BitVec 32 → BitVec 32 → BitVec 32 → BitVec 32) : LaneOp :=
  { srcs := [a, b], reads := srcRegs a 1 ++ srcRegs b 1 ++ [d.toNat], writes := [d.toNat], pending := false,
    run := fun e => oneReg d (f (e.src a) (e.src b) (e.v d)) }
/-- A predicate from two 32-bit sources. -/
def opCmp (p : PReg) (a b : Src) (f : BitVec 32 → BitVec 32 → Bool) : LaneOp :=
  { srcs := [a, b], reads := srcRegs a 1 ++ srcRegs b 1, writes := [], pending := false,
    run := fun e => { preds := [(p.toNat, f (e.src a) (e.src b))] } }

/-! ## Executing -/

/-- Results land in the thread at once. -/
def Thread.apply (th : Thread) (r : LaneRes) : Thread :=
  let th1 := (th.setVs r.regs).setPreds r.preds
  let j := match r.clear with
    | some c => jstClear th1.jst c
    | none => th1.jst
  { th1 with jst := j ||| r.flags,
             clkhi := match r.latch with
               | some x => x
               | none => th1.clkhi }

/-- A thread opens a counted body, or skips it on a zero count (R152). -/
def Thread.openLoop (th : Thread) (c : Nat) (n : BitVec 32) (len : Nat) : Thread :=
  { th with lc := spSet th.lc c n, status := .running,
            pc := if n == 0 then th.pc + 4 + BitVec.ofNat 64 (4 * len) else th.pc + 4 }

/-- A thread has executed a lane instruction: its results land or become pending, and it goes on (R28). -/
def Thread.finish (th : Thread) (id : Nat) (pending : Bool) (r : LaneRes) : Thread :=
  let th1 := if pending then th.addOut { id := id, ready := true, regs := r.regs, p6 := none, flags := r.flags }
    else th.apply r
  match r.loop with
  | none => th1.goOn
  | some (c, n, len) => th1.openLoop c n len

/-- What a thread that reads only its own registers sees. -/
def ownEnv (w : Wg) (ti : Nat) (t : Team) (cycles : BitVec 64) (lane : Nat) (th : Thread) : LaneEnv :=
  { wg := w, teamId := ti, team := t, lane := lane, cycles := cycles, own := th, one := th, two := th }

/-- Member lanes of a mask: live lanes whose bit is set (R36). -/
def Team.members (t : Team) (m : BitVec 64) : BitVec 64 := maskOf fun l => inMask m l && decide (l < t.threads.length)
/-- The member mask of a cross-lane instruction (R36, R7). -/
def Team.crossMask (t : Team) : BitVec 64 := t.members (t.sreg (xpatMaskReg t.xpat))
/-- Members of a collective (R115). -/
def Team.collectiveMask (t : Team) : BitVec 64 :=
  if xpatMaskReg t.xpat == 0 then t.members (BitVec.allOnes 64) else t.crossMask
/-- The lanes that the patterned source of a collective may read: its members, or with mask register 0 those of s0, under
R36. -/
def Team.patternMask (t : Team) (m : BitVec 64) : BitVec 64 := if xpatMaskReg t.xpat == 0 then t.crossMask else m

/-- The lane that a member reads through a slot: a source lane that is no member yields its own registers (R36). -/
def Meeting.source (k : Meeting) (slot lane : Nat) : Nat :=
  if inMask k.cross lane && inMask k.cross (slotLane slot lane) then slotLane slot lane else lane
/-- What a member sees; the pattern is the one of its own issue (R186). -/
def memberEnv (w : Wg) (ti : Nat) (t : Team) (cycles : BitVec 64) (k : Meeting) (lane : Nat) (th : Thread) : LaneEnv :=
  let pick (slot : Nat) : Thread := if k.source slot lane == lane then th else t.thread (k.source slot lane)
  { wg := w, teamId := ti, team := t, lane := lane, cycles := cycles, own := th,
    one := pick (xpatSlot1 k.xpat), two := pick (xpatSlot2 k.xpat) }

/-- Does a member read from a member that has exited (R36). -/
def readsExited (t : Team) (o : LaneOp) (k : Meeting) (lane : Nat) : Bool :=
  let bad (slot : Nat) : Bool :=
    let src := slotLane slot lane
    inMask k.cross lane && inMask k.cross src && (t.thread src).exited
  (o.uses .slot1 && bad (xpatSlot1 k.xpat)) || (o.uses .slot2 && bad (xpatSlot2 k.xpat))

/-- The lanes of a list that would consume a poisoned register (R237). -/
def poisonedLanes (t : Team) (ls : List Nat) (reads : List Nat) : List Nat :=
  ls.filter fun l => (t.thread l).poison.any fun r => reads.contains r
/-- Is there one. -/
def consumesPoison (t : Team) (ls : List Nat) (reads : List Nat) : Bool := !(poisonedLanes t ls reads).isEmpty
/-- Lanes that would consume a poisoned lane register do not receive it (R237). -/
def State.laneError (s : State) (w : Wg) (team : Nat) (t : Team) (ls reads : List Nat) (pc : BitVec 64) : State :=
  s.registerError w team (poisonedLanes t ls reads) 0 0 pc.toNat

/-- The rest of a group, without some lanes. -/
def Group.but (g : Group) (ls : List Nat) : Group := { g with lanes := g.lanes &&& ~~~(maskOf fun l => ls.contains l) }
/-- What is left of a group goes on, when some lanes have left: by the state as it is then. -/
def State.onwards (s : State) (g : Group) (gone : List Nat) (f : Group → Wg → Team → State) : State :=
  let t := (s.wg g.wg).team g.team
  if ((g.but gone).live t).isEmpty then s else f (g.but gone) (s.wg g.wg) t

/-- The rendezvous a thread waits in at a program counter. -/
def Thread.meeting (th : Thread) (pc : BitVec 64) : Option Meeting :=
  match th.status with
  | .waiting (.rendezvous k) => if th.pc == pc then some k else none
  | _ => none
/-- The rendezvous that threads of a team have begun at a program counter, as its lowest lane issued it. -/
def Team.meetingAt (t : Team) (pc : BitVec 64) : Option Meeting := t.threads.findSome? fun th => th.meeting pc
/-- The members of the rendezvous that a thread reaches: of one begun already, else by the mask as it stands (R36; DEDUCED,
log 35). -/
def Team.membersAt (t : Team) (pc : BitVec 64) (mask : BitVec 64) : BitVec 64 := ((t.meetingAt pc).map Meeting.mask).getD mask
/-- The word at a program counter as the team's translation holds it. -/
def State.wordAt (s : State) (w : Wg) (t : Team) (pc : BitVec 64) : BitVec 32 :=
  ((s.transAt w t.jord pc.toNat).map fun x => listGet 0 x.words ((pc.toNat - x.base) / 4)).getD 0

/-- Threads execute on their own registers. -/
def State.laneLocal (s : State) (g : Group) (w : Wg) (t : Team) (m : BitVec 64) (o : LaneOp) : State :=
  s.modLanes g.wg g.team m fun l th =>
    th.finish g.id o.pending (o.run (ownEnv w g.team t (s.ctx w.ctx).cycles l th))

/-- What the threads of a group take into a rendezvous of the members `m`, their patterned sources reading the lanes
`cross`. -/
def State.meetingOf (s : State) (g : Group) (w : Wg) (t : Team) (m cross : BitVec 64) : Meeting :=
  { mask := m, order := t.jord, word := s.wordAt w t g.pc, xpat := t.xpat, cross := cross }
/-- Members wait at a rendezvous; their arrival counts as an issue (R36, R217). -/
def State.arrive (s : State) (g : Group) (w : Wg) (t : Team) (m cross : BitVec 64) : State :=
  let k := s.meetingOf g w t m cross
  s.modLanes g.wg g.team (g.lanes &&& m) fun _ th => { th with status := .waiting (.rendezvous k) }

/-- A register-only lane instruction as it executes: each thread on its own, members of a rendezvous together (R27, R36). -/
def State.laneRun (s : State) (o : LaneOp) (g : Group) (w : Wg) (t : Team) : State :=
  if o.cross then
    let m := t.membersAt g.pc t.crossMask
    (s.laneLocal g w t (g.lanes &&& ~~~m) o).arrive g w t m m
  else s.laneLocal g w t g.lanes o
/-- One issue of a register-only lane instruction (R10, R237). -/
def State.laneIssue (s : State) (o : LaneOp) (g : Group) (w : Wg) (t : Team) : State :=
  if o.extended && !t.ext then s.raiseEach g.wg g.team (g.live t) (plainTrap 5)
  else if consumesPoison t (g.live t) o.reads then
    let s1 := s.laneError w g.team t (g.live t) o.reads g.pc
    s1.onwards g (poisonedLanes t (g.live t) o.reads) (s1.laneRun o)
  else s.laneRun o g w t

/-- A register-only lane instruction; `o` gives its operation at the team's jet order. -/
def State.lane (s : State) (o : Nat → LaneOp) : Result :=
  s.withGroup fun g w t => s.laneIssue (o t.jord.order) g w t

/-! ## Collectives (R115 to R119) -/

/-- What one participant contributes: its lane, predicate and 32-bit source. -/
structure Share where
  lane : Nat
  p : Bool
  x : BitVec 32
  deriving DecidableEq, Repr

/-- A collective: its source field or predicate, destinations, and the result of a participant. -/
structure Collective where
  src : Option Src
  pred : PReg
  writes : List Nat
  /-- Result of the participant in a lane, from all participants in ascending lane order. -/
  run : Nat → List Share → LaneRes

/-- The operation a collective is for operand purposes. -/
def Collective.op (c : Collective) : LaneOp :=
  { srcs := c.src.toList, reads := (c.src.map fun a => srcRegs a 1).getD [], writes := c.writes, pending := true,
    run := fun _ => {} }

/-- A participant's contribution. -/
def Collective.share (c : Collective) (e : LaneEnv) : Share :=
  { lane := e.lane, p := e.p c.pred, x := match c.src with
      | some a => e.src a
      | none => 0 }

/-- A collective as it executes: members wait, any other lane computes alone (R115). -/
def State.collectiveRun (s : State) (c : Collective) (g : Group) (w : Wg) (t : Team) : State :=
  let m := t.membersAt g.pc t.collectiveMask
  let alone := s.modLanes g.wg g.team (g.lanes &&& ~~~m) fun l th =>
    th.finish g.id true (c.run l [c.share (ownEnv w g.team t (s.ctx w.ctx).cycles l th)])
  alone.arrive g w t m (t.patternMask m)
/-- The issue of a collective (R10, R237). -/
def State.collectiveIssue (s : State) (c : Collective) (g : Group) (w : Wg) (t : Team) : State :=
  if c.op.extended && !t.ext then s.raiseEach g.wg g.team (g.live t) (plainTrap 5)
  else if consumesPoison t (g.live t) c.op.reads then
    let s1 := s.laneError w g.team t (g.live t) c.op.reads g.pc
    s1.onwards g (poisonedLanes t (g.live t) c.op.reads) (s1.collectiveRun c)
  else s.collectiveRun c g w t

def State.collective (s : State) (c : Collective) : Result := s.withGroup fun g w t => s.collectiveIssue c g w t

/-! ## Completion of a rendezvous -/

/-- Does a thread stand in the rendezvous of an instruction. -/
def Thread.standsAt (th : Thread) (pc : BitVec 64) : Bool := (th.meeting pc).isSome

/-- Members that have not exited. -/
def Team.present (t : Team) (m : BitVec 64) : List Nat := (lanesOf m).filter fun l => !(t.thread l).exited

/-- Do all members of a mask that have not exited stand at an instruction. -/
def Team.allThere (t : Team) (m : BitVec 64) (pc : BitVec 64) : Bool :=
  !(t.present m).isEmpty && (t.present m).all fun l => (t.thread l).standsAt pc

/-- Members with MEMBEREXIT fault; every other arrival is withdrawn (R36 step 2). -/
def State.memberExit (s : State) (u ti : Nat) (m : BitVec 64) (bad : List Nat) : State :=
  let s1 := s.modLanes u ti m fun _ th => if th.exited then th else { th with status := .running }
  s1.raiseEach u ti bad (plainTrap 0x0B)

/-- What a present member issued a rendezvous under; `k` stands in where it waits in none. -/
def Team.meetingOf (t : Team) (pc : BitVec 64) (k : Meeting) (l : Nat) : Meeting := ((t.thread l).meeting pc).getD k

/-- Would a member consume a poisoned register, its own or one of a lane it reads (R237). -/
def memberPoisoned (t : Team) (o : LaneOp) (k : Meeting) (lane : Nat) : Bool :=
  let hit (l : Nat) : Bool := (t.thread l).poison.any fun r => o.reads.contains r
  hit lane || (o.uses .slot1 && hit (k.source (xpatSlot1 k.xpat) lane)) || (o.uses .slot2 && hit (k.source (xpatSlot2 k.xpat) lane))

/-- Members execute a rendezvous, each as it issued it: under its own jet order (R78) and pattern (R186). -/
def State.crossRun (s : State) (u ti : Nat) (pc : BitVec 64) (k : Meeting) (op : Meeting → LaneOp) (ls : List Nat) : State :=
  let w := s.wg u
  let t := w.team ti
  let at_ := t.meetingOf pc k
  (s.numbered).modLanes u ti (maskOf fun l => ls.contains l) fun l th =>
    th.finish s.nextId (op (at_ l)).pending ((op (at_ l)).run (memberEnv w ti t (s.ctx w.ctx).cycles (at_ l) l th))

/-- A cross-lane instruction executes in every member (R36); `op` gives the operation. Members that would consume a poisoned
register leave, the others execute (R237). -/
def State.crossComplete (s : State) (u ti : Nat) (pc : BitVec 64) (k : Meeting) (op : Meeting → LaneOp) : State :=
  let w := s.wg u
  let t := w.team ti
  let ls := t.present k.mask
  let at_ := t.meetingOf pc k
  let bad := ls.filter fun l => readsExited t (op (at_ l)) (at_ l) l
  let hit := ls.filter fun l => memberPoisoned t (op (at_ l)) (at_ l) l
  if !bad.isEmpty then s.memberExit u ti k.mask bad
  else if !hit.isEmpty then
    (s.registerError w ti hit 0 0 pc.toNat).crossRun u ti pc k op (ls.filter fun l => !hit.contains l)
  else s.crossRun u ti pc k op ls

/-- A collective executes in every participant (R115). A patterned source reads under R36, by the pattern of the participant's own
issue. Where one of them would contribute a poisoned register, every result would consume it, and all leave (R237). -/
def State.collectiveComplete (s : State) (u ti : Nat) (pc : BitVec 64) (k : Meeting) (c : Collective) : State :=
  let w := s.wg u
  let t := w.team ti
  let ls := t.present k.mask
  let at_ := t.meetingOf pc k
  let bad := ls.filter fun l => readsExited t c.op (at_ l) l
  if !bad.isEmpty then s.memberExit u ti k.mask bad
  else if ls.any fun l => memberPoisoned t c.op (at_ l) l then s.registerError w ti ls 0 0 pc.toNat
  else
    let shares := ls.map fun l => c.share (memberEnv w ti t (s.ctx w.ctx).cycles (at_ l) l (t.thread l))
    (s.numbered).modLanes u ti (maskOf fun l => ls.contains l) fun l th => th.finish s.nextId true (c.run l shares)

end Sys2Proof.Machine
end

