-- ==== Sys2Proof/Machine/Collect.lean ====
section
/-!
DEFINITION. The collectives BALLOT, REDUX and SCAN (R115 to R119). Each gives the result of the participant in a lane from
the shares of all participants in ascending lane order.
-/
namespace Sys2Proof.Machine

/-- M of R116: bit i is one when lane i is a participant whose predicate is one. -/
def ballotMask (ss : List Share) : BitVec 64 :=
  ss.foldl (fun m x => if x.p then m ||| (1#64 <<< x.lane) else m) 0

/-- A collective on a predicate. -/
def voteOf (d : VReg) (p : PReg) (n : Nat) (f : List Share → List (BitVec 32)) : Collective :=
  { src := none, pred := p, writes := vregs d n, run := fun _ ss => { regs := regsFrom d.toNat (f ss) } }
/-- BALLOT. -/
def colBallot (d : VReg) (p : PReg) : Collective :=
  voteOf d p 2 fun ss => [(ballotMask ss).setWidth 32, (ballotMask ss >>> 32).setWidth 32]
def execBallot (d : VReg) (p : PReg) (s : State) : Result := s.collective (colBallot d p)
/-- ANY. -/
def colAny (d : VReg) (p : PReg) : Collective := voteOf d p 1 fun ss => [if ballotMask ss == 0 then 0 else 1]
def execAny (d : VReg) (p : PReg) (s : State) : Result := s.collective (colAny d p)
/-- ALL. -/
def colAll (d : VReg) (p : PReg) : Collective := voteOf d p 1 fun ss => [if ss.all fun x => x.p then 1 else 0]
def execAll (d : VReg) (p : PReg) (s : State) : Result := s.collective (colAll d p)
/-- COUNT. -/
def colCount (d : VReg) (p : PReg) : Collective := voteOf d p 1 fun ss => [BitVec.ofNat 32 (popCount (ballotMask ss))]
def execCount (d : VReg) (p : PReg) (s : State) : Result := s.collective (colCount d p)

/-- Combines the sources of a nonempty list of participants. -/
def combine (f : BitVec 32 → BitVec 32 → BitVec 32) (ss : List Share) : BitVec 32 :=
  match ss with
  | [] => 0
  | x :: t => t.foldl (fun a y => f a y.x) x.x

/-- REDUX: the same combination for every participant (R117). -/
def reduxOf (d : VReg) (a : Src) (f : BitVec 32 → BitVec 32 → BitVec 32) : Collective :=
  { src := some a, pred := 7, writes := [d.toNat], run := fun _ ss => oneReg d (combine f ss) }
/-- REDUX.iadd. -/
def colReduxIadd (d : VReg) (a : Src) : Collective := reduxOf d a fun x y => x + y
def execReduxIadd (d : VReg) (a : Src) (s : State) : Result := s.collective (colReduxIadd d a)
/-- REDUX.imin.s. -/
def colReduxIminS (d : VReg) (a : Src) : Collective := reduxOf d a fun x y => if y.slt x then y else x
def execReduxIminS (d : VReg) (a : Src) (s : State) : Result := s.collective (colReduxIminS d a)
/-- REDUX.imax.s. -/
def colReduxImaxS (d : VReg) (a : Src) : Collective := reduxOf d a fun x y => if x.slt y then y else x
def execReduxImaxS (d : VReg) (a : Src) (s : State) : Result := s.collective (colReduxImaxS d a)
/-- REDUX.or. -/
def colReduxOr (d : VReg) (a : Src) : Collective := reduxOf d a fun x y => x ||| y
def execReduxOr (d : VReg) (a : Src) (s : State) : Result := s.collective (colReduxOr d a)

/-- P(i) of R118: the participants up to and including a lane. -/
def prefixOf (l : Nat) (ss : List Share) : List Share := ss.filter fun x => decide (x.lane ≤ l)
/-- SCAN of an integer operation (R118). -/
def scanOf (d : VReg) (a : Src) (f : Nat → List Share → BitVec 32) : Collective :=
  { src := some a, pred := 7, writes := [d.toNat], run := fun l ss => oneReg d (f l ss) }
/-- SCAN.iadd. -/
def colScanIadd (d : VReg) (a : Src) : Collective := scanOf d a fun l ss => combine (fun x y => x + y) (prefixOf l ss)
def execScanIadd (d : VReg) (a : Src) (s : State) : Result := s.collective (colScanIadd d a)
/-- SCAN.imax.s. -/
def colScanImaxS (d : VReg) (a : Src) : Collective :=
  scanOf d a fun l ss => combine (fun x y => if x.slt y then y else x) (prefixOf l ss)
def execScanImaxS (d : VReg) (a : Src) (s : State) : Result := s.collective (colScanImaxS d a)
/-- SCAN.iadd.excl. -/
def colScanIaddExcl (d : VReg) (a : Src) : Collective :=
  scanOf d a fun l ss => combine (fun x y => x + y) (ss.filter fun x => decide (x.lane < l))
def execScanIaddExcl (d : VReg) (a : Src) (s : State) : Result := s.collective (colScanIaddExcl d a)

/-- The running sum of SCAN.fadd: a rounding at each step, the flags of the steps (R118). -/
def fsumFrom (acc : Fres) (xs : List (BitVec 32)) : Fres :=
  match xs with
  | [] => acc
  | x :: t =>
    let r := fusedSum .fp32 [(val32 (BitVec.ofNat 32 acc.bits)).term, (val32 x).term]
    fsumFrom ⟨r.bits, acc.flags ||| r.flags⟩ t
/-- SCAN.fadd; it works on single registers at every jet order. -/
def colScanFadd (d : VReg) (a : Src) : Collective :=
  { src := some a, pred := 7, writes := [d.toNat],
    run := fun l ss =>
      match (prefixOf l ss).map Share.x with
      | [] => oneReg d 0
      | x :: t =>
        let r := fsumFrom ⟨x.toNat, 0⟩ t
        { regs := [(d.toNat, BitVec.ofNat 32 r.bits)], flags := jstAt 0 r.flags } }
def execScanFadd (d : VReg) (a : Src) (s : State) : Result := s.collective (colScanFadd d a)

end Sys2Proof.Machine
end

