-- ==== Sys2Proof/Machine/LaneFloat.lean ====
section
/-!
DEFINITION. Floating-point arithmetic, selection, sign, compare, division family, special functions, rounding,
conversions and jet build (R79 to R87, R102 to R114). `k` is the jet order in force at the instruction's issue.
-/
namespace Sys2Proof.Machine

/-! ## Series instructions (R79 to R85) -/

/-- A series instruction of two sources. -/
def series2 (k : Nat) (d : VReg) (a b : Src) (pending : Bool) (f : Jet → Jet → List Fres) : LaneOp :=
  { srcs := [a, b], reads := srcRegs a (k + 1) ++ srcRegs b (k + 1), writes := vregs d (k + 1), pending := pending,
    run := fun e => jetRes d (f (e.srcJet k a) (e.srcJet k b)) }
/-- A fused form, which reads the D group as well. -/
def series3 (k : Nat) (d : VReg) (a b : Src) (f : Jet → Jet → Jet → List Fres) : LaneOp :=
  { srcs := [a, b], reads := srcRegs a (k + 1) ++ srcRegs b (k + 1) ++ vregs d (k + 1), writes := vregs d (k + 1),
    pending := false, run := fun e => jetRes d (f (e.srcJet k a) (e.srcJet k b) (e.vJet k d)) }
/-- A series instruction of one source; long-latency (R28). -/
def series1 (k : Nat) (d : VReg) (a : Src) (f : Jet → List Fres) : LaneOp :=
  { srcs := [a], reads := srcRegs a (k + 1), writes := vregs d (k + 1), pending := true,
    run := fun e => jetRes d (f (e.srcJet k a)) }

/-- FADD. -/
def opFadd (k : Nat) (d : VReg) (a b : Src) : LaneOp := series2 k d a b false (jetAdd k false)
def execFadd (d : VReg) (a b : Src) (s : State) : Result := s.lane fun k => opFadd k d a b

/-- FSUB. -/
def opFsub (k : Nat) (d : VReg) (a b : Src) : LaneOp := series2 k d a b false (jetAdd k true)
def execFsub (d : VReg) (a b : Src) (s : State) : Result := s.lane fun k => opFsub k d a b

/-- FMUL. -/
def opFmul (k : Nat) (d : VReg) (a b : Src) : LaneOp := series2 k d a b false (jetMul k)
def execFmul (d : VReg) (a b : Src) (s : State) : Result := s.lane fun k => opFmul k d a b

/-- FFMA. -/
def opFfma (k : Nat) (d : VReg) (a b : Src) : LaneOp := series3 k d a b (jetFma k false false)
def execFfma (d : VReg) (a b : Src) (s : State) : Result := s.lane fun k => opFfma k d a b

/-- FFMSUB. -/
def opFfmsub (k : Nat) (d : VReg) (a b : Src) : LaneOp := series3 k d a b (jetFma k false true)
def execFfmsub (d : VReg) (a b : Src) (s : State) : Result := s.lane fun k => opFfmsub k d a b

/-- FFNMA. -/
def opFfnma (k : Nat) (d : VReg) (a b : Src) : LaneOp := series3 k d a b (jetFma k true false)
def execFfnma (d : VReg) (a b : Src) (s : State) : Result := s.lane fun k => opFfnma k d a b

/-- FDIV. -/
def opFdiv (k : Nat) (d : VReg) (a b : Src) : LaneOp := series2 k d a b true (jetDiv k)
def execFdiv (d : VReg) (a b : Src) (s : State) : Result := s.lane fun k => opFdiv k d a b

/-- FSQRT. -/
def opFsqrt (k : Nat) (d : VReg) (a : Src) : LaneOp := series1 k d a (jetSqrt k)
def execFsqrt (d : VReg) (a : Src) (s : State) : Result := s.lane fun k => opFsqrt k d a

/-- FRCP. -/
def opFrcp (k : Nat) (d : VReg) (a : Src) : LaneOp := series1 k d a (jetRcp k)
def execFrcp (d : VReg) (a : Src) (s : State) : Result := s.lane fun k => opFrcp k d a

/-- FRSQ. -/
def opFrsq (k : Nat) (d : VReg) (a : Src) : LaneOp := series1 k d a (jetRsq k)
def execFrsq (d : VReg) (a : Src) (s : State) : Result := s.lane fun k => opFrsq k d a

/-- FEXP2. -/
def opFexp2 (k : Nat) (d : VReg) (a : Src) : LaneOp := series1 k d a (jetExp2 k)
def execFexp2 (d : VReg) (a : Src) (s : State) : Result := s.lane fun k => opFexp2 k d a

/-- FLOG2. -/
def opFlog2 (k : Nat) (d : VReg) (a : Src) : LaneOp := series1 k d a (jetLog2 k)
def execFlog2 (d : VReg) (a : Src) (s : State) : Result := s.lane fun k => opFlog2 k d a

/-- FTANH. -/
def opFtanh (k : Nat) (d : VReg) (a : Src) : LaneOp := series1 k d a (jetTanh k)
def execFtanh (d : VReg) (a : Src) (s : State) : Result := s.lane fun k => opFtanh k d a

/-- FSIGM. -/
def opFsigm (k : Nat) (d : VReg) (a : Src) : LaneOp := series1 k d a (jetSigm k)
def execFsigm (d : VReg) (a : Src) (s : State) : Result := s.lane fun k => opFsigm k d a

/-- FSIN. -/
def opFsin (k : Nat) (d : VReg) (a : Src) : LaneOp := series1 k d a (jetSin k)
def execFsin (d : VReg) (a : Src) (s : State) : Result := s.lane fun k => opFsin k d a

/-- FCOS. -/
def opFcos (k : Nat) (d : VReg) (a : Src) : LaneOp := series1 k d a (jetCos k)
def execFcos (d : VReg) (a : Src) (s : State) : Result := s.lane fun k => opFcos k d a

/-- FSINT. -/
def opFsint (k : Nat) (d : VReg) (a : Src) : LaneOp := series1 k d a (jetSint k)
def execFsint (d : VReg) (a : Src) (s : State) : Result := s.lane fun k => opFsint k d a

/-- FCOST. -/
def opFcost (k : Nat) (d : VReg) (a : Src) : LaneOp := series1 k d a (jetCost k)
def execFcost (d : VReg) (a : Src) (s : State) : Result := s.lane fun k => opFcost k d a

/-! ## Selection and sign (R103, R104) -/

/-- FMIN and FMAX. -/
def select2 (k : Nat) (d : VReg) (a b : Src) (hi : Bool) : LaneOp :=
  { srcs := [a, b], reads := srcRegs a (k + 1) ++ srcRegs b (k + 1), writes := vregs d (k + 1), pending := false,
    run := fun e => { regs := regsFrom d.toNat (jetSelect k hi (e.srcJet k a) (e.srcJet k b)) } }

/-- FMIN. -/
def opFmin (k : Nat) (d : VReg) (a b : Src) : LaneOp := select2 k d a b false
def execFmin (d : VReg) (a b : Src) (s : State) : Result := s.lane fun k => opFmin k d a b

/-- FMAX. -/
def opFmax (k : Nat) (d : VReg) (a b : Src) : LaneOp := select2 k d a b true
def execFmax (d : VReg) (a b : Src) (s : State) : Result := s.lane fun k => opFmax k d a b

/-- A sign operation: every coefficient of A with bit 31 flipped when the test on a_0 says so. -/
def signOp (k : Nat) (d : VReg) (a : Src) (flip : BitVec 32 → Bool) : LaneOp :=
  { srcs := [a], reads := srcRegs a (k + 1), writes := vregs d (k + 1), pending := false,
    run := fun e => { regs := regsFrom d.toNat (jetFlip (flip (e.src a)) (e.srcJet k a)) } }

/-- FABS. -/
def opFabs (k : Nat) (d : VReg) (a : Src) : LaneOp := signOp k d a fun x => x.getLsbD 31
def execFabs (d : VReg) (a : Src) (s : State) : Result := s.lane fun k => opFabs k d a

/-- FNEG. -/
def opFneg (k : Nat) (d : VReg) (a : Src) : LaneOp := signOp k d a fun _ => true
def execFneg (d : VReg) (a : Src) (s : State) : Result := s.lane fun k => opFneg k d a

/-- FNABS. -/
def opFnabs (k : Nat) (d : VReg) (a : Src) : LaneOp := signOp k d a fun x => !x.getLsbD 31
def execFnabs (d : VReg) (a : Src) (s : State) : Result := s.lane fun k => opFnabs k d a

/-- FCPSGN: B is a single register (R37). -/
def opFcpsgn (k : Nat) (d : VReg) (a b : Src) : LaneOp := 
  { srcs := [a, b], reads := srcRegs a (k + 1) ++ srcRegs b 1, writes := vregs d (k + 1), pending := false,
    run := fun e =>
      { regs := regsFrom d.toNat (jetFlip ((e.src a).getLsbD 31 != (e.src b).getLsbD 31) (e.srcJet k a)) } }
def execFcpsgn (d : VReg) (a b : Src) (s : State) : Result := s.lane fun k => opFcpsgn k d a b

/-! ## Compare (R105) -/

/-- The three relations and unord on FP32 patterns. -/
def fpEq (x y : BitVec 32) : Bool := !isNan32 x && !isNan32 y && cmpVal (val32 x) (val32 y) == .eq
def fpLt (x y : BitVec 32) : Bool := !isNan32 x && !isNan32 y && cmpVal (val32 x) (val32 y) == .lt
def fpLe (x y : BitVec 32) : Bool := fpEq x y || fpLt x y
def fpUnord (x y : BitVec 32) : Bool := isNan32 x || isNan32 y

/-- FCMP.eq. -/
def opFcmpEq (p : PReg) (a b : Src) : LaneOp := opCmp p a b fpEq
def execFcmpEq (p : PReg) (a b : Src) (s : State) : Result := s.lane fun _ => opFcmpEq p a b

/-- FCMP.lt. -/
def opFcmpLt (p : PReg) (a b : Src) : LaneOp := opCmp p a b fpLt
def execFcmpLt (p : PReg) (a b : Src) (s : State) : Result := s.lane fun _ => opFcmpLt p a b

/-- FCMP.le. -/
def opFcmpLe (p : PReg) (a b : Src) : LaneOp := opCmp p a b fpLe
def execFcmpLe (p : PReg) (a b : Src) (s : State) : Result := s.lane fun _ => opFcmpLe p a b

/-- FCMP.unord. -/
def opFcmpUnord (p : PReg) (a b : Src) : LaneOp := opCmp p a b fpUnord
def execFcmpUnord (p : PReg) (a b : Src) (s : State) : Result := s.lane fun _ => opFcmpUnord p a b

/-! ## Rounding to integral (R110) -/

/-- FRND: the D group is (round(a_0), +0, …, +0); A is a single register (R37, R79). -/
def opFrnd (m : Mode) (k : Nat) (d : VReg) (a : Src) : LaneOp :=
  { srcs := [a], reads := srcRegs a 1, writes := vregs d (k + 1), pending := false,
    run := fun e => { regs := regsFrom d.toNat (frnd m (e.src a) :: (upFrom 1 k).map fun _ => 0) } }

/-- FRND.rne. -/
def opFrndRne (k : Nat) (d : VReg) (a : Src) : LaneOp := opFrnd .rne k d a
def execFrndRne (d : VReg) (a : Src) (s : State) : Result := s.lane fun k => opFrndRne k d a

/-- FRND.rtz. -/
def opFrndRtz (k : Nat) (d : VReg) (a : Src) : LaneOp := opFrnd .rtz k d a
def execFrndRtz (d : VReg) (a : Src) (s : State) : Result := s.lane fun k => opFrndRtz k d a

/-- FRND.floor. -/
def opFrndFloor (k : Nat) (d : VReg) (a : Src) : LaneOp := opFrnd .floor k d a
def execFrndFloor (d : VReg) (a : Src) (s : State) : Result := s.lane fun k => opFrndFloor k d a

/-- FRND.ceil. -/
def opFrndCeil (k : Nat) (d : VReg) (a : Src) : LaneOp := opFrnd .ceil k d a
def execFrndCeil (d : VReg) (a : Src) (s : State) : Result := s.lane fun k => opFrndCeil k d a

/-! ## Conversions (R111 to R113) -/

/-- One register from one source, with the flags of a conversion in group 0. -/
def cvt1 (d : VReg) (a : Src) (f : BitVec 32 → BitVec 32 × Flags5) : LaneOp :=
  { srcs := [a], reads := srcRegs a 1, writes := [d.toNat], pending := false,
    run := fun e => { regs := [(d.toNat, (f (e.src a)).1)], flags := jstAt 0 (f (e.src a)).2 } }
/-- A result as a register and its flags. -/
def fresPair (r : Fres) : BitVec 32 × Flags5 := (BitVec.ofNat 32 r.bits, r.flags)

/-- CVT.f32.i32. -/
def opCvtF32I32 (d : VReg) (a : Src) : LaneOp := cvt1 d a fun x => fresPair (intToFp (x.getLsbD 31) x.toInt.natAbs)
def execCvtF32I32 (d : VReg) (a : Src) (s : State) : Result := s.lane fun _ => opCvtF32I32 d a

/-- CVT.f32.n32. -/
def opCvtF32N32 (d : VReg) (a : Src) : LaneOp := cvt1 d a fun x => fresPair (intToFp false x.toNat)
def execCvtF32N32 (d : VReg) (a : Src) (s : State) : Result := s.lane fun _ => opCvtF32N32 d a

/-- CVT.i32.f32. -/
def opCvtI32F32 (d : VReg) (a : Src) : LaneOp := cvt1 d a (fpToInt true)
def execCvtI32F32 (d : VReg) (a : Src) (s : State) : Result := s.lane fun _ => opCvtI32F32 d a

/-- CVT.n32.f32. -/
def opCvtN32F32 (d : VReg) (a : Src) : LaneOp := cvt1 d a (fpToInt false)
def execCvtN32F32 (d : VReg) (a : Src) (s : State) : Result := s.lane fun _ => opCvtN32F32 d a

/-- UNPK.bf16lo. -/
def opUnpkBf16lo (d : VReg) (a : Src) : LaneOp := op1 d a fun x => widen .bf16 (x.toNat % 2 ^ 16)
def execUnpkBf16lo (d : VReg) (a : Src) (s : State) : Result := s.lane fun _ => opUnpkBf16lo d a

/-- UNPK.bf16hi. -/
def opUnpkBf16hi (d : VReg) (a : Src) : LaneOp := op1 d a fun x => widen .bf16 (x.toNat / 2 ^ 16)
def execUnpkBf16hi (d : VReg) (a : Src) (s : State) : Result := s.lane fun _ => opUnpkBf16hi d a

/-- PACK: two roundings, their flags merged in group 0. -/
def pack2 (d : VReg) (a b : Src) (f : Fmt) : LaneOp :=
  { srcs := [a, b], reads := srcRegs a 1 ++ srcRegs b 1, writes := [d.toNat], pending := false,
    run := fun e =>
      let x := packTo f (e.src a)
      let y := packTo f (e.src b)
      { regs := [(d.toNat, BitVec.ofNat 32 (x.bits + 2 ^ 16 * y.bits))], flags := jstMerged [x, y] } }
/-- PACK.bf16. -/
def opPackBf16 (d : VReg) (a b : Src) : LaneOp := pack2 d a b .bf16
def execPackBf16 (d : VReg) (a b : Src) (s : State) : Result := s.lane fun _ => opPackBf16 d a b
/-- PACK.f16. -/
def opPackF16 (d : VReg) (a b : Src) : LaneOp := pack2 d a b .fp16
def execPackF16 (d : VReg) (a b : Src) (s : State) : Result := s.lane fun _ => opPackF16 d a b

/-- Byte j of a word. -/
def byteAt (x : BitVec 32) (j : Nat) : Nat := (x.toNat / 2 ^ (8 * j)) % 256
/-- UNPK of four bytes into four registers. -/
def unpack4 (d : VReg) (a : Src) (f : Fmt) : LaneOp :=
  { srcs := [a], reads := srcRegs a 1, writes := vregs d 4, pending := false,
    run := fun e => { regs := regsFrom d.toNat ((upFrom 0 4).map fun j => widen f (byteAt (e.src a) j)) } }

/-- UNPK.e4m3. -/
def opUnpkE4m3 (d : VReg) (a : Src) : LaneOp := unpack4 d a .e4m3
def execUnpkE4m3 (d : VReg) (a : Src) (s : State) : Result := s.lane fun _ => opUnpkE4m3 d a

/-- UNPK.e5m2. -/
def opUnpkE5m2 (d : VReg) (a : Src) : LaneOp := unpack4 d a .e5m2
def execUnpkE5m2 (d : VReg) (a : Src) (s : State) : Result := s.lane fun _ => opUnpkE5m2 d a

/-- A number from its bytes, lowest first. -/
def fromBytes (xs : List Nat) : Nat :=
  match xs with
  | [] => 0
  | x :: t => x + 256 * fromBytes t
/-- PK of four own registers into one, saturating; the flags of the four are merged (R65, R113). -/
def pack4 (d a : VReg) (f : Fmt) : LaneOp :=
  { srcs := [], reads := vregs a 4, writes := [d.toNat], pending := false,
    run := fun e =>
      let rs := (upFrom 0 4).map fun j => packSat f (e.own.v32 (a.toNat + j))
      { regs := [(d.toNat, BitVec.ofNat 32 (fromBytes (rs.map Fres.bits)))], flags := jstMerged rs } }
/-- PK.e4m3. -/
def execPkE4m3 (d a : VReg) (s : State) : Result := s.lane fun _ => pack4 d a .e4m3
/-- PK.e5m2. -/
def execPkE5m2 (d a : VReg) (s : State) : Result := s.lane fun _ => pack4 d a .e5m2

/-! ## Jet build (R87) -/

/-- JSEED.seed: (A, B, +0, …); at order 0 only A. -/
def opJseedSeed (k : Nat) (d : VReg) (a b : Src) : LaneOp :=
  { srcs := [a, b], reads := srcRegs a 1 ++ srcRegs b 1, writes := vregs d (k + 1), pending := false,
    run := fun e =>
      { regs := regsFrom d.toNat ((e.src a :: e.src b :: (upFrom 2 8).map fun _ => 0).take (k + 1)) } }
def execJseedSeed (d : VReg) (a b : Src) (s : State) : Result := s.lane fun k => opJseedSeed k d a b

/-- JSEED.const: (A, +0, …). -/
def opJseedConst (k : Nat) (d : VReg) (a : Src) : LaneOp := 
  { srcs := [a], reads := srcRegs a 1, writes := vregs d (k + 1), pending := false,
    run := fun e => { regs := regsFrom d.toNat (e.src a :: (upFrom 1 k).map fun _ => 0) } }
def execJseedConst (d : VReg) (a : Src) (s : State) : Result := s.lane fun k => opJseedConst k d a

/-- JSEED.copy: the whole group. -/
def opJseedCopy (k : Nat) (d : VReg) (a : Src) : LaneOp := 
  { srcs := [a], reads := srcRegs a (k + 1), writes := vregs d (k + 1), pending := false,
    run := fun e => { regs := regsFrom d.toNat (e.srcJet k a) } }
def execJseedCopy (d : VReg) (a : Src) (s : State) : Result := s.lane fun k => opJseedCopy k d a

/-- JGET: coefficient c, or +0 above the order. -/
def opJget (k : Nat) (d : VReg) (a : Src) (c : BitVec 3) : LaneOp :=
  { srcs := [a], reads := srcRegs a (k + 1), writes := [d.toNat], pending := false,
    run := fun e => oneReg d (listGet 0 (e.srcJet k a) c.toNat) }
def execJget (d : VReg) (a : Src) (c : BitVec 3) (s : State) : Result := s.lane fun k => opJget k d a c
/-- JPUT: coefficient c of the D group; nothing above the order. -/
def opJput (k : Nat) (d : VReg) (a : Src) (c : BitVec 3) : LaneOp :=
  { srcs := [a], reads := srcRegs a 1, writes := vregs d (k + 1), pending := false,
    run := fun e => { regs := if c.toNat ≤ k then [(d.toNat + c.toNat, e.src a)] else [] } }
def execJput (d : VReg) (a : Src) (c : BitVec 3) (s : State) : Result := s.lane fun k => opJput k d a c
/-- JFLG: reads group c, clears it, or both. -/
def jflag (d : VReg) (c : BitVec 3) (read clear : Bool) : LaneOp :=
  { srcs := [], reads := [], writes := [d.toNat], pending := false,
    run := fun e =>
      { regs := [(d.toNat, if read then (jstGroup e.own.jst c.toNat).setWidth 32 else 0)],
        clear := if clear then some c.toNat else none } }
/-- JFLG.rd. -/
def execJflgRd (d : VReg) (c : BitVec 3) (s : State) : Result := s.lane fun _ => jflag d c true false
/-- JFLG.rc. -/
def execJflgRc (d : VReg) (c : BitVec 3) (s : State) : Result := s.lane fun _ => jflag d c true true
/-- JFLG.clr. -/
def execJflgClr (d : VReg) (c : BitVec 3) (s : State) : Result := s.lane fun _ => jflag d c false true

end Sys2Proof.Machine
end

