-- ==== Sys2Proof/Machine/LaneInt.lean ====
section
/-!
DEFINITION. Integer register operations, compares, guarded forms, predicate logic, immediates, special lane registers and
TIDX (R92 to R101). Each instruction has its operation `op…` and its meaning `exec…`.
-/
namespace Sys2Proof.Machine

/-! ## Integer register operations (R92, R93) -/

/-- High word of a signed product. -/
def mulhiS32 (a b : BitVec 32) : BitVec 32 := BitVec.ofInt 32 ((a.toInt * b.toInt) / 2 ^ 32)
/-- High word of an unsigned product. -/
def mulhiN32 (a b : BitVec 32) : BitVec 32 := BitVec.ofNat 32 ((a.toNat * b.toNat) / 2 ^ 32)
/-- The absolute difference as n32. -/
def absd32 (a b : BitVec 32) : BitVec 32 := if a.toNat ≤ b.toNat then b - a else a - b
def minS32 (a b : BitVec 32) : BitVec 32 := if b.slt a then b else a
def maxS32 (a b : BitVec 32) : BitVec 32 := if a.slt b then b else a
def minN32 (a b : BitVec 32) : BitVec 32 := if b.ult a then b else a
def maxN32 (a b : BitVec 32) : BitVec 32 := if a.ult b then b else a
/-- A shift or rotate amount, modulo 32. -/
def amount32 (b : BitVec 32) : Nat := b.toNat % 32

/-- Clipped width of a field (R93). -/
def fieldWidth (b : BitVec 32) : Nat := min (min (field b 8 6) 32) (32 - amount32 b)
/-- Ones in the low `w` bits. -/
def lowMask (w : Nat) : BitVec 32 := BitVec.ofNat 32 (2 ^ w - 1)
/-- IBFX (R93). -/
def extractField (a b : BitVec 32) : BitVec 32 :=
  let w := fieldWidth b
  let f := (a >>> amount32 b) &&& lowMask w
  if b.getLsbD 16 && decide (0 < w) && f.getLsbD (w - 1) then f ||| ~~~lowMask w else f
/-- IBFI (R93). -/
def insertField (a b d : BitVec 32) : BitVec 32 :=
  let m := lowMask (fieldWidth b)
  (d &&& ~~~(m <<< amount32 b)) ||| ((a &&& m) <<< amount32 b)

/-- IADD: a + b. -/
def opIadd (d : VReg) (a b : Src) : LaneOp := op2 d a b (fun x y => x + y)
def execIadd (d : VReg) (a b : Src) (s : State) : Result := s.lane fun _ => opIadd d a b

/-- ISUB: a − b. -/
def opIsub (d : VReg) (a b : Src) : LaneOp := op2 d a b (fun x y => x - y)
def execIsub (d : VReg) (a b : Src) (s : State) : Result := s.lane fun _ => opIsub d a b

/-- IMIN.s. -/
def opIminS (d : VReg) (a b : Src) : LaneOp := op2 d a b minS32
def execIminS (d : VReg) (a b : Src) (s : State) : Result := s.lane fun _ => opIminS d a b

/-- IMAX.s. -/
def opImaxS (d : VReg) (a b : Src) : LaneOp := op2 d a b maxS32
def execImaxS (d : VReg) (a b : Src) (s : State) : Result := s.lane fun _ => opImaxS d a b

/-- IMIN.n. -/
def opIminN (d : VReg) (a b : Src) : LaneOp := op2 d a b minN32
def execIminN (d : VReg) (a b : Src) (s : State) : Result := s.lane fun _ => opIminN d a b

/-- IMAX.n. -/
def opImaxN (d : VReg) (a b : Src) : LaneOp := op2 d a b maxN32
def execImaxN (d : VReg) (a b : Src) (s : State) : Result := s.lane fun _ => opImaxN d a b

/-- IABSD. -/
def opIabsd (d : VReg) (a b : Src) : LaneOp := op2 d a b absd32
def execIabsd (d : VReg) (a b : Src) (s : State) : Result := s.lane fun _ => opIabsd d a b

/-- IPOPC. -/
def opIpopc (d : VReg) (a : Src) : LaneOp := op1 d a (fun x => BitVec.ofNat 32 (popCount x))
def execIpopc (d : VReg) (a : Src) (s : State) : Result := s.lane fun _ => opIpopc d a

/-- IAND. -/
def opIand (d : VReg) (a b : Src) : LaneOp := op2 d a b (fun x y => x &&& y)
def execIand (d : VReg) (a b : Src) (s : State) : Result := s.lane fun _ => opIand d a b

/-- IOR. -/
def opIor (d : VReg) (a b : Src) : LaneOp := op2 d a b (fun x y => x ||| y)
def execIor (d : VReg) (a b : Src) (s : State) : Result := s.lane fun _ => opIor d a b

/-- IXOR. -/
def opIxor (d : VReg) (a b : Src) : LaneOp := op2 d a b (fun x y => x ^^^ y)
def execIxor (d : VReg) (a b : Src) (s : State) : Result := s.lane fun _ => opIxor d a b

/-- IANDN. -/
def opIandn (d : VReg) (a b : Src) : LaneOp := op2 d a b (fun x y => x &&& ~~~y)
def execIandn (d : VReg) (a b : Src) (s : State) : Result := s.lane fun _ => opIandn d a b

/-- ISHL. -/
def opIshl (d : VReg) (a b : Src) : LaneOp := op2 d a b (fun x y => x <<< amount32 y)
def execIshl (d : VReg) (a b : Src) (s : State) : Result := s.lane fun _ => opIshl d a b

/-- ISHR. -/
def opIshr (d : VReg) (a b : Src) : LaneOp := op2 d a b (fun x y => x >>> amount32 y)
def execIshr (d : VReg) (a b : Src) (s : State) : Result := s.lane fun _ => opIshr d a b

/-- ISAR. -/
def opIsar (d : VReg) (a b : Src) : LaneOp := op2 d a b (fun x y => x.sshiftRight (amount32 y))
def execIsar (d : VReg) (a b : Src) (s : State) : Result := s.lane fun _ => opIsar d a b

/-- IROT. -/
def opIrot (d : VReg) (a b : Src) : LaneOp := op2 d a b (fun x y => x.rotateLeft (amount32 y))
def execIrot (d : VReg) (a b : Src) (s : State) : Result := s.lane fun _ => opIrot d a b

/-- IMUL. -/
def opImul (d : VReg) (a b : Src) : LaneOp := op2 d a b (fun x y => x * y)
def execImul (d : VReg) (a b : Src) (s : State) : Result := s.lane fun _ => opImul d a b

/-- IMULHI.s. -/
def opImulhiS (d : VReg) (a b : Src) : LaneOp := op2 d a b mulhiS32
def execImulhiS (d : VReg) (a b : Src) (s : State) : Result := s.lane fun _ => opImulhiS d a b

/-- IMULHI.n. -/
def opImulhiN (d : VReg) (a b : Src) : LaneOp := op2 d a b mulhiN32
def execImulhiN (d : VReg) (a b : Src) (s : State) : Result := s.lane fun _ => opImulhiN d a b

/-- IMAD: a · b + vD. -/
def opImad (d : VReg) (a b : Src) : LaneOp := op3 d a b (fun x y z => x * y + z)
def execImad (d : VReg) (a b : Src) (s : State) : Result := s.lane fun _ => opImad d a b

/-- ICLZ. -/
def opIclz (d : VReg) (a : Src) : LaneOp := op1 d a (fun x => BitVec.ofNat 32 (leadingZeros x))
def execIclz (d : VReg) (a : Src) (s : State) : Result := s.lane fun _ => opIclz d a

/-- IBREV. -/
def opIbrev (d : VReg) (a : Src) : LaneOp := op1 d a reverseBits
def execIbrev (d : VReg) (a : Src) (s : State) : Result := s.lane fun _ => opIbrev d a

/-- IBFX. -/
def opIbfx (d : VReg) (a b : Src) : LaneOp := op2 d a b extractField
def execIbfx (d : VReg) (a b : Src) (s : State) : Result := s.lane fun _ => opIbfx d a b

/-- IBFI. -/
def opIbfi (d : VReg) (a b : Src) : LaneOp := op3 d a b insertField
def execIbfi (d : VReg) (a b : Src) (s : State) : Result := s.lane fun _ => opIbfi d a b

/-! ## Compares, guarded forms and predicate logic (R94 to R97) -/

/-- ICMP.s.eq. -/
def opIcmpSEq (p : PReg) (a b : Src) : LaneOp := opCmp p a b (fun x y => x == y)
def execIcmpSEq (p : PReg) (a b : Src) (s : State) : Result := s.lane fun _ => opIcmpSEq p a b

/-- ICMP.s.ne. -/
def opIcmpSNe (p : PReg) (a b : Src) : LaneOp := opCmp p a b (fun x y => x != y)
def execIcmpSNe (p : PReg) (a b : Src) (s : State) : Result := s.lane fun _ => opIcmpSNe p a b

/-- ICMP.s.lt. -/
def opIcmpSLt (p : PReg) (a b : Src) : LaneOp := opCmp p a b (fun x y => x.slt y)
def execIcmpSLt (p : PReg) (a b : Src) (s : State) : Result := s.lane fun _ => opIcmpSLt p a b

/-- ICMP.s.le. -/
def opIcmpSLe (p : PReg) (a b : Src) : LaneOp := opCmp p a b (fun x y => x.sle y)
def execIcmpSLe (p : PReg) (a b : Src) (s : State) : Result := s.lane fun _ => opIcmpSLe p a b

/-- ICMP.n.eq. -/
def opIcmpNEq (p : PReg) (a b : Src) : LaneOp := opCmp p a b (fun x y => x == y)
def execIcmpNEq (p : PReg) (a b : Src) (s : State) : Result := s.lane fun _ => opIcmpNEq p a b

/-- ICMP.n.ne. -/
def opIcmpNNe (p : PReg) (a b : Src) : LaneOp := opCmp p a b (fun x y => x != y)
def execIcmpNNe (p : PReg) (a b : Src) (s : State) : Result := s.lane fun _ => opIcmpNNe p a b

/-- ICMP.n.lt. -/
def opIcmpNLt (p : PReg) (a b : Src) : LaneOp := opCmp p a b (fun x y => x.ult y)
def execIcmpNLt (p : PReg) (a b : Src) (s : State) : Result := s.lane fun _ => opIcmpNLt p a b

/-- ICMP.n.le. -/
def opIcmpNLe (p : PReg) (a b : Src) : LaneOp := opCmp p a b (fun x y => x.ule y)
def execIcmpNLe (p : PReg) (a b : Src) (s : State) : Result := s.lane fun _ => opIcmpNLe p a b

/-- The conditions of ICMPI (R95), on any width. -/
def condHolds {n : Nat} (c : Cond) (x y : BitVec n) : Bool :=
  match c with
  | .eq => x == y
  | .ne => x != y
  | .ltS => x.slt y
  | .leS => x.sle y
  | .gtS => y.slt x
  | .geS => y.sle x
  | .ltN => x.ult y
  | .geN => y.ule x

/-- ICMPI: a against the sign-extended IMM10. -/
def opIcmpi (c : Cond) (p : PReg) (a : Src) (i : BitVec 10) : LaneOp :=
  { srcs := [a], reads := srcRegs a 1, writes := [], pending := false,
    run := fun e => { preds := [(p.toNat, condHolds c (e.src a) (i.signExtend 32))] } }
def execIcmpi (c : Cond) (p : PReg) (a : Src) (i : BitVec 10) (s : State) : Result := s.lane fun _ => opIcmpi c p a i

/-- A guarded form: guard p0 to p3, both sources read (R96). -/
def opGuarded (d : VReg) (a b : Src) (g : BitVec 2) (f : Bool → BitVec 32 → BitVec 32 → BitVec 32) : LaneOp :=
  { srcs := [a, b], reads := srcRegs a 1 ++ srcRegs b 1, writes := [d.toNat], pending := false,
    run := fun e => oneReg d (f (e.own.pred g.toNat) (e.src a) (e.src b)) }
/-- PSUB. -/
def opPsub (d : VReg) (a b : Src) (g : BitVec 2) : LaneOp := opGuarded d a b g fun p x y => if p then x - y else x
def execPsub (d : VReg) (a b : Src) (g : BitVec 2) (s : State) : Result := s.lane fun _ => opPsub d a b g
/-- PADD. -/
def opPadd (d : VReg) (a b : Src) (g : BitVec 2) : LaneOp := opGuarded d a b g fun p x y => if p then x + y else x
def execPadd (d : VReg) (a b : Src) (g : BitVec 2) (s : State) : Result := s.lane fun _ => opPadd d a b g
/-- PMOV. -/
def opPmov (d : VReg) (a b : Src) (g : BitVec 2) : LaneOp := opGuarded d a b g fun p x y => if p then x else y
def execPmov (d : VReg) (a b : Src) (g : BitVec 2) (s : State) : Result := s.lane fun _ => opPmov d a b g

/-- Predicate logic (R97). -/
def opPred (d a b : PReg) (f : Bool → Bool → Bool) : LaneOp :=
  { srcs := [], reads := [], writes := [], pending := false,
    run := fun e => { preds := [(d.toNat, f (e.p a) (e.p b))] } }
/-- PAND. -/
def execPand (d a b : PReg) (s : State) : Result := s.lane fun _ => opPred d a b fun x y => x && y
/-- POR. -/
def execPor (d a b : PReg) (s : State) : Result := s.lane fun _ => opPred d a b fun x y => x || y
/-- PXOR. -/
def execPxor (d a b : PReg) (s : State) : Result := s.lane fun _ => opPred d a b fun x y => x != y
/-- PANDN. -/
def execPandn (d a b : PReg) (s : State) : Result := s.lane fun _ => opPred d a b fun x y => x && !y

/-! ## Immediates and moves (R98) -/

/-- IADDI. -/
def opIaddi (d : VReg) (a : Src) (i : BitVec 10) : LaneOp := op1 d a fun x => x + i.signExtend 32
def execIaddi (d : VReg) (a : Src) (i : BitVec 10) (s : State) : Result := s.lane fun _ => opIaddi d a i
/-- IANDI. -/
def opIandi (d : VReg) (a : Src) (i : BitVec 10) : LaneOp := op1 d a fun x => x &&& i.setWidth 32
def execIandi (d : VReg) (a : Src) (i : BitVec 10) (s : State) : Result := s.lane fun _ => opIandi d a i
/-- ISHLI. -/
def opIshli (d : VReg) (a : Src) (n : BitVec 5) : LaneOp := op1 d a fun x => x <<< n.toNat
def execIshli (d : VReg) (a : Src) (n : BitVec 5) (s : State) : Result := s.lane fun _ => opIshli d a n
/-- ISHRI. -/
def opIshri (d : VReg) (a : Src) (n : BitVec 5) : LaneOp := op1 d a fun x => x >>> n.toNat
def execIshri (d : VReg) (a : Src) (n : BitVec 5) (s : State) : Result := s.lane fun _ => opIshri d a n
/-- ISARI. -/
def opIsari (d : VReg) (a : Src) (n : BitVec 5) : LaneOp := op1 d a fun x => x.sshiftRight n.toNat
def execIsari (d : VReg) (a : Src) (n : BitVec 5) (s : State) : Result := s.lane fun _ => opIsari d a n
/-- IROTI. -/
def opIroti (d : VReg) (a : Src) (n : BitVec 5) : LaneOp := op1 d a fun x => x.rotateLeft n.toNat
def execIroti (d : VReg) (a : Src) (n : BitVec 5) (s : State) : Result := s.lane fun _ => opIroti d a n

/-- An operation on vD and constants alone. -/
def opConst (d : VReg) (f : BitVec 32 → BitVec 32) (reads : Bool) : LaneOp :=
  { srcs := [], reads := if reads then [d.toNat] else [], writes := [d.toNat], pending := false,
    run := fun e => oneReg d (f (e.v d)) }
/-- MOVI. -/
def execMovi (d : VReg) (i : BitVec 18) (s : State) : Result := s.lane fun _ => opConst d (fun _ => i.signExtend 32) false
/-- IMM18 in bits [31:14], the low bits kept (R39). -/
def movhiValue (x : BitVec 32) (i : BitVec 18) : BitVec 32 := (x &&& 0x3FFF#32) ||| ((i.setWidth 32) <<< 14)
/-- MOVHI. -/
def execMovhi (d : VReg) (i : BitVec 18) (s : State) : Result := s.lane fun _ => opConst d (fun x => movhiValue x i) true

/-! ## Special lane registers (R99) -/

/-- The value of a special lane register. -/
def specialReg (e : LaneEnv) (i : Nat) : BitVec 32 :=
  match i with
  | 0x000 => BitVec.ofNat 32 e.lane
  | 0x001 => BitVec.ofNat 32 e.teamId
  | 0x002 => BitVec.ofNat 32 e.wg.teams.length
  | 0x003 => BitVec.ofNat 32 e.wg.nlive
  | 0x004 => BitVec.ofNat 32 e.wg.wgid
  | 0x005 => BitVec.ofNat 32 e.wg.nwg
  | 0x006 => BitVec.ofNat 32 e.wg.lcore
  | 0x007 => BitVec.ofNat 32 e.wg.ldie
  | 0x008 => BitVec.ofNat 32 e.wg.ndie
  | 0x009 => BitVec.ofNat 32 e.team.jord.order
  | 0x00A => e.team.xpat
  | 0x00B => spGet e.own.lc 0
  | 0x00C => spGet e.own.lc 1
  | 0x00D => spGet e.own.lc 2
  | 0x00E => e.own.lr.setWidth 32
  | 0x00F => (e.own.lr >>> 32).setWidth 32
  | 0x010 => (e.own.preds ||| 0x80).setWidth 32
  | 0x011 => e.cycles.setWidth 32
  | _ => e.own.clkhi

/-- SRD: a read of CLKLO latches the high half for the thread. -/
def opSrd (d : VReg) (i : BitVec 10) : LaneOp :=
  { srcs := [], reads := [], writes := [d.toNat], pending := false,
    run := fun e => { regs := [(d.toNat, specialReg e i.toNat)],
                      latch := if i.toNat == 0x011 then some ((e.cycles >>> 32).setWidth 32) else none } }
def execSrd (d : VReg) (i : BitVec 10) (s : State) : Result := s.lane fun _ => opSrd d i

/-! ## Tensor index (R100, R101) -/

/-- RANK of a shape entry, 6 and 7 acting as 5. -/
def shapeRank (e : BitVec 256) : Nat := min (field e 0 3) 5
/-- Extent i, zero standing for 2^32. -/
def shapeExtent (e : BitVec 256) (i : Nat) : Nat :=
  let x := field e (64 + 32 * i) 32
  if x == 0 then 2 ^ 32 else x

/-- Coordinates i to n−1, the last taking the rest. -/
def coords (e : BitVec 256) (n i q : Nat) (k : Nat) : List (BitVec 32) :=
  match k with
  | 0 => []
  | j + 1 =>
    if i + 1 < n then BitVec.ofNat 32 (q % shapeExtent e i) :: coords e n (i + 1) (q / shapeExtent e i) j
    else if i + 1 == n then BitVec.ofNat 32 q :: coords e n (i + 1) 0 j
    else 0 :: coords e n (i + 1) 0 j

/-- The five coordinates of a linear index. -/
def tensorIndex (e : BitVec 256) (l : BitVec 64) : List (BitVec 32) :=
  if shapeRank e == 0 then [l.setWidth 32, (l >>> 32).setWidth 32, 0, 0, 0]
  else coords e (shapeRank e) 0 l.toNat 5

/-- TIDX. -/
def opTidx (d : VReg) (a : Src) (b : SReg) : LaneOp :=
  { srcs := [a], reads := srcRegs a 2, writes := vregs d 5, pending := false,
    run := fun e =>
      { regs := regsFrom d.toNat
          (tensorIndex (spGet e.wg.shapes ((e.team.sreg b.toNat).toNat % 32)) (e.src64 a)) } }
def execTidx (d : VReg) (a : Src) (b : SReg) (s : State) : Result := s.lane fun _ => opTidx d a b

end Sys2Proof.Machine
end

