-- ==== Sys2Proof/Machine/Flow.lean ====
section
/-!
DEFINITION. Branches, calls and loops (R149 to R152), ending, pausing and trapping (R153, R154), named barriers (R155) and
fences (R147, R148).
-/
namespace Sys2Proof.Machine

/-- pc + 4 + 4·displacement (R39). -/
def branchTarget {n : Nat} (pc : BitVec 64) (disp : BitVec n) : BitVec 64 := pc + 4 + (disp.signExtend 64) * 4

/-- A thread goes to an address. -/
def Thread.goTo (th : Thread) (pc : BitVec 64) : Thread := { th with pc := pc, status := .running }

/-! ## Branches, calls, jumps -/

/-- BR (R149): taken when p XOR N is one. -/
def execBr (p : PReg) (n : Bool) (i : BitVec 20) (s : State) : Result :=
  s.withGroup fun g _ _ => s.modLanes g.wg g.team g.lanes fun _ th =>
    if th.pred p.toNat != n then th.goTo (branchTarget th.pc i) else th.goOn

/-- CALL (R150). -/
def execCall (i : BitVec 18) (s : State) : Result :=
  s.withGroup fun g _ _ => s.modLanes g.wg g.team g.lanes fun _ th =>
    { (th.goTo (branchTarget th.pc i)) with lr := th.pc + 4 }

/-- T of R151 for a thread. -/
def targetOfThread (t : Team) (th : Thread) (a : Target) : BitVec 64 :=
  match a with
  | .pair v => th.v64 v.toNat
  | .uni x => t.sreg x.toNat

/-- The checks of R151 on a target: MISALIGN, NORANGE, or none. -/
def jumpFault (c : Ctx) (x : BitVec 64) : Option Nat :=
  if x.toNat % 4 != 0 then some 0x06 else if c.inCode x.toNat 4 then none else some 0x07

/-- One thread jumps, keeping its return address in lr when `link` (R151). -/
def State.jumpOne (s : State) (g : Group) (w : Wg) (target : Thread → BitVec 64) (link : Bool) (l : Nat) : State :=
  let th := ((s.wg g.wg).team g.team).thread l
  match jumpFault (s.ctx w.ctx) (target th) with
  | some c => s.raise g.wg g.team l (plainTrap c l)
  | none => s.modThread g.wg g.team l fun x =>
      { (x.goTo (target th)) with lr := if link then x.pc + 4 else x.lr }

/-- JMPI and CALLI; a pair of the extended block needs the block (R10). -/
def State.jump (s : State) (a : Target) (link : Bool) (g : Group) (w : Wg) (t : Team) : State :=
  let ext := match a with
    | .pair v => decide (31 ≤ v.toNat)
    | .uni _ => false
  if ext && !t.ext then s.raiseEach g.wg g.team (g.live t) (plainTrap 5)
  else (g.live t).foldl (fun acc l => acc.jumpOne g w (fun th => targetOfThread t th a) link l) s

/-- JMPI. -/
def execJmpi (a : Target) (s : State) : Result := s.withGroup (s.jump a false)
/-- CALLI. -/
def execCalli (a : Target) (s : State) : Result := s.withGroup (s.jump a true)
/-- RET: the target is lr. -/
def execRet (s : State) : Result :=
  s.withGroup fun g w t => (g.live t).foldl (fun acc l => acc.jumpOne g w Thread.lr false l) s

/-- Place of a loop counter. -/
def counterIndex : LoopCounter → Nat
  | .lc0 => 0 | .lc1 => 1 | .lc2 => 2

/-- LOOP (R152). -/
def opLoop (a : Src) (c : LoopCounter) (i : BitVec 8) : LaneOp :=
  { srcs := [a], reads := srcRegs a 1, writes := [], pending := false,
    run := fun e => { loop := some (counterIndex c, e.src a, i.toNat + 1) } }
def execLoop (a : Src) (c : LoopCounter) (i : BitVec 8) (s : State) : Result := s.lane fun _ => opLoop a c i

/-! ## Ending, pausing, trapping -/

/-- EXIT: a thread leaves once nothing is outstanding (R153, R32). -/
def execExit (s : State) : Result :=
  s.withGroup fun g _ t => (g.live t).foldl (fun acc l =>
    if (((acc.wg g.wg).team g.team).thread l).outs.isEmpty then acc.leave g.wg g.team l else acc) s

/-- BRK: under a DBG halt the thread stops where it stands; otherwise it traps (R153; DEDUCED, log 25). -/
def execBrk (s : State) : Result :=
  s.withGroup fun g w t =>
    if (s.ctx w.ctx).halted then s else s.raiseEach g.wg g.team (g.live t) (plainTrap 0x10)

/-- YIELD: no architectural effect. -/
def execYield (s : State) : Result := s.withGroup fun g _ _ => s.goOn g
/-- NOP. -/
def execNop (s : State) : Result := s.withGroup fun g _ _ => s.goOn g

/-- TRAP (R154). -/
def execTrap (i : BitVec 10) (s : State) : Result :=
  s.withGroup fun g _ t => s.raiseEach g.wg g.team (g.live t) fun l => { plainTrap 0x11 l with ucode := i.toNat }

/-! ## Releases and acquires (R148) -/

def scopeCode : Scope → Nat
  | .team => 0 | .wg => 1 | .cluster => 2 | .die => 3 | .module => 4 | .system => 5

/-- The least scope at which a write of a kind is still awaited. -/
def awaitedFrom (kind : Nat) : Nat := 3 + kind

/-- Is the release half of a fence complete for a thread: earlier loads and atomics have their values, and every
earlier write and side-log entry of a colour in the mask is performed at the scope (R148). -/
def State.released (s : State) (u t l : Nat) (mask : BitVec 8) (scope : Nat) : Bool :=
  !(s.waiters.any fun x => x.cell && x.wg == u && x.team == t && x.lane == l)
  && !(s.accs.any fun a => a.wg == u && a.team == t && !a.discarded && a.lanes.any fun x => x.lane == l)
  && !(s.slog.any fun e => e.wg == u && e.team == t && inMask e.lanes l && mask.getLsbD e.colour)
  && !(s.unacked.any fun x => x.wg == u && x.team == t && inMask x.lanes l && mask.getLsbD x.colour
        && decide (awaitedFrom x.kind ≤ scope))

/-- Threads of a workgroup that wait for a release look again. -/
def State.wakeReleases (s : State) (u : Nat) : State :=
  s.modWg u fun w => w.mapThreads fun _ th =>
    if th.status == .waiting .release then { th with status := .running } else th

/-- The acquire half of a fence (R148). -/
def State.acquireHalf (s : State) (die cl scope : Nat) (ro : Bool) : State :=
  let s0 := if ro then s.publishCluster die cl 3 else s
  let s1 := if 3 ≤ scope then s0.acquire die cl else s0
  if ro then s1.dropRo die cl else s1

/-- FENCE for one thread: it waits for its release half, then acquires and goes on (R148). -/
def State.fenceOne (s : State) (g : Group) (w : Wg) (m : BitVec 8) (sc : Nat) (rel acq ro : Bool) (l : Nat) :
    State :=
  if rel && !s.released g.wg g.team l m sc then
    s.modThread g.wg g.team l fun th => { th with status := .waiting .release }
  else
    let s0 := if rel then s.publishCluster w.die (clusterOf w.core) sc else s
    let s1 := if acq then s0.acquireHalf w.die (clusterOf w.core) sc ro else s0
    s1.modThread g.wg g.team l fun th => th.goOn

/-- FENCE (R147, R148). In this one-at-a-time machine the order of sc fences is the order of their steps (DESIGN CHOICE, log 4). -/
def execFence (c : BitVec 8) (sc : Scope) (k : FenceKind) (r : Bool) (s : State) : Result :=
  s.withGroup fun g w t => (g.live t).foldl (fun acc l =>
    acc.fenceOne g w c (scopeCode sc) (k != .acq) (k != .rel) r l) s

/-! ## Named barriers (R155) -/

/-- Arrive(b): nothing when the barrier is off. -/
def State.barArriveOne (s : State) (u t l b : Nat) : State :=
  let x := (s.wg u).barrier b
  if x.expected == 0 then s
  else
    let s1 := s.modThread u t l fun th => { th with arrived := spSet th.arrived b (BitVec.ofNat 64 (x.phase + 1)) }
    let s2 := s1.modWg u fun w => w.modBarrier b fun y => { y with count := y.count + 1 }
    if x.expected ≤ x.count + 1 then s2.completePhase u b else s2

/-- The phase Wait(b) parks on, or none (DEDUCED, log 22). -/
def waitTarget (x : Barrier) (last : Nat) : Option Nat :=
  if x.expected == 0 then none
  else if last == x.phase + 1 then some x.phase
  else if last == 0 then some x.phase else none

/-- Wait(b). -/
def State.barWaitOne (s : State) (g : Group) (b l : Nat) : State :=
  let th := ((s.wg g.wg).team g.team).thread l
  match waitTarget ((s.wg g.wg).barrier b) (spGet th.arrived b).toNat with
  | some ph => s.modThread g.wg g.team l fun x => { x with status := .waiting (.barrier b ph) }
  | none => s.modThread g.wg g.team l fun x => x.goOn

/-- An arrival waits for the workgroup-scope release over all colours, then counts. -/
def State.arrivalOne (s : State) (g : Group) (b : Nat) (after : State → State) (l : Nat) : State :=
  if s.released g.wg g.team l 0xFF 1 then after (s.barArriveOne g.wg g.team l b)
  else s.modThread g.wg g.team l fun th => { th with status := .waiting .release }

/-- BAR.arrive. -/
def execBarArrive (b : BitVec 4) (s : State) : Result :=
  s.withGroup fun g _ t => (g.live t).foldl (fun acc l =>
    acc.arrivalOne g b.toNat (fun a => a.modThread g.wg g.team l fun th => th.goOn) l) s

/-- BAR.wait. -/
def execBarWait (b : BitVec 4) (s : State) : Result :=
  s.withGroup fun g _ t => (g.live t).foldl (fun acc l => acc.barWaitOne g b.toNat l) s

/-- One thread of BAR.sync: it waits on the phase it arrived in; the last arrival completes it and goes on. -/
def execBarSync (b : BitVec 4) (s : State) : Result :=
  s.withGroup fun g _ t => (g.live t).foldl (fun acc l =>
    acc.arrivalOne g b.toNat (fun a => a.barWaitOne g b.toNat l) l) s

end Sys2Proof.Machine
end

