-- ==== Sys2Proof/Machine/Routes.lean ====
section
/-!
DEFINITION. The ladder of dies and the routes over its links (R349, R350). Port 0 is the Cheram Link, 1 east, 2 west,
3 across.
-/
namespace Sys2Proof.Machine

/-- The die an edge port joins a die to (R349). -/
def neighbour (d port : Nat) : Option Nat :=
  match port with
  | 1 => if d % 12 < 11 then some (d + 1) else none
  | 2 => if 0 < d % 12 then some (d - 1) else none
  | 3 => some ((d + 12) % 24)
  | _ => none
/-- The port at the other end. -/
def opposite (port : Nat) : Nat :=
  match port with
  | 1 => 2 | 2 => 1 | n => n

/-- STATE of LINKST (R360). -/
def State.linkState (s : State) (d port : Nat) : Nat := field (listGet 0 (s.die d).links port) 0 2

/-- The die behind a port whose link is not retired (R350). -/
def State.through (s : State) (d port : Nat) : Option Nat :=
  match neighbour d port with
  | none => none
  | some e => if s.linkState d port != 3 && s.linkState e (opposite port) != 3 then some e else none

/-- The dies at most `n` hops from a die. -/
def State.within (s : State) (n b : Nat) : List Nat :=
  match n with
  | 0 => [b]
  | k + 1 =>
    let near := s.within k b
    (upFrom 0 24).filter fun a => near.contains a || [1, 2, 3].any fun p =>
      match s.through a p with
      | some e => near.contains e
      | none => false

/-- Hops of the shortest path. -/
def State.hops (s : State) (a b : Nat) : Option Nat := findFirst (fun n => (s.within n b).contains a) (upFrom 0 24)

/-- The source route: of the shortest paths, the least in the order east, west, across (R350). -/
def State.route (s : State) (fuel a b : Nat) : Option (List Nat) :=
  match fuel with
  | 0 => if a == b then some [] else none
  | k + 1 =>
    if a == b then some []
    else
      match s.hops a b with
      | none => none
      | some n =>
        match findFirst (fun p => match s.through a p with
            | some e => decide (s.hops e b = some (n - 1))
            | none => false) [1, 2, 3] with
        | none => none
        | some p =>
          match s.route k ((neighbour a p).getD a) b with
          | none => none
          | some r => some (p :: r)

/-- Is every link of a route up at both ends. -/
def State.routeUp (s : State) (a : Nat) (r : List Nat) : Bool :=
  match r with
  | [] => true
  | p :: rest =>
    let e := (neighbour a p).getD a
    s.linkState a p == 2 && s.linkState e (opposite p) == 2
      && !(s.die a).idlePorts.getLsbD p && !(s.die e).idlePorts.getLsbD (opposite p) && s.routeUp e rest

/-- Does traffic pass from one die to another now: a route exists and its links are up (R350, R355, R361) (DEDUCED, log 56). -/
def State.carries (s : State) (a b : Nat) : Bool :=
  a == b ||
    match s.route 24 a b with
    | none => false
    | some r => s.routeUp a r

/-- Does the Cheram Link of a die carry traffic now. -/
def State.hostUp (s : State) (d : Nat) : Bool := s.linkState d 0 == 2

/-- Do the links an access needs carry traffic now: from the requester's die to where the IA's page lies, which after a drain
is its new home, or to host memory (R350, R355, R364). -/
def State.linked (s : State) (kind : RangeKind) (die home ia : Nat) : Bool :=
  if kind == .host then s.hostUp die
  else
    match s.walk home ia with
    | .local d _ => if d == evacDie then s.hostUp die else s.carries die d
    | .host _ => s.carries die home && s.hostUp home
    | _ => s.carries die home

end Sys2Proof.Machine
end

