-- ==== Sys2Proof/Machine/Access.lean ====
section
/-!
DEFINITION. Accesses to global memory: what is found at issue (R123, R124, R129, R133, R141), the verdicts and their records
(R125 to R128, R336), the side log (R127, R255, R337), the execution at commit (R130, R139 to R142, R313), threshold
waits (R136, R137), and scratch (R134, R135, R229).
-/
namespace Sys2Proof.Machine

/-! ## Atomic operations (R140, R142) -/

/-- The new value of an atomic of `w` bits; compare-and-swap has its own rule. -/
def atomNew (op : AtomOp) (w old x : Nat) : Nat :=
  let a := BitVec.ofNat w old
  let b := BitVec.ofNat w x
  match op with
  | .add => (old + x) % 2 ^ w
  | .minS => if b.slt a then x else old
  | .maxS => if a.slt b then x else old
  | .minN => min old x
  | .maxN => max old x
  | .and => old &&& x
  | .or => old ||| x
  | .xor => old ^^^ x
  | .exch => x
  | .cas => x
  | .fadd => (fusedSum .fp32 [(decodeFp .fp32 old).term, (decodeFp .fp32 x).term]).bits
  | .fmax => (fminmax true (BitVec.ofNat 32 old) (BitVec.ofNat 32 x)).toNat

/-- The value an atomic leaves: for compare-and-swap `x` is compared and `n` is new. -/
def atomResult (op : AtomOp) (w old x n : Nat) : Nat :=
  match op with
  | .cas => if old == x then n else old
  | _ => atomNew op w old x

/-- The atomics a host range accepts: add for ATOM.A, exch and cas for ATOM.B and SATOM (R124, R185, R355). -/
def hostAtom : AtomOp → Bool
  | .add => true | .exch => true | .cas => true | _ => false

/-! ## What is found at issue -/

/-- KIND of an owner record (R333). -/
def accKindCode : AccKind → Nat
  | .load => 1 | .store => 2 | .join => 3 | .atomic _ => 4 | .threshold => 5 | .shape _ => 1
/-- KIND of an operator record (R334). -/
def opKindCode : AccKind → Nat
  | .load => 0 | .store => 1 | .join => 1 | .atomic _ => 2 | .threshold => 0 | .shape _ => 0
/-- The class of an access for the ownership check. -/
def wayOf : AccKind → Way
  | .load => .read | .store => .write | .join => .write | .atomic _ => .atomic | .threshold => .read | .shape _ => .read

/-- The fault an access to a lattice range raises at issue (R133, R136, R138, R141, R184, R185); its address is aligned.
An SST may cover two cells of 4 bytes. -/
def latticeFault (k : AccKind) (uniform : Bool) (h : Hit) (n : Nat) : Option Nat :=
  match k with
  | .load => none
  | .shape _ => none
  | .store => if coversUnit h.ltype n || (uniform && cellBytes h.ltype == 4) then none else some 0x09
  | .join => if coversUnit h.ltype n then none else some 0x09
  | .threshold =>
    if h.ia % cellBytes h.ltype != 0 then some 0x06 else if n == thresholdBytes h.ltype then none else some 0x09
  | .atomic .add =>
    if h.ltype == 8 && n == 4 && h.ia % 128 == 0 && !uniform then none else some 0x09
  | .atomic .maxN =>
    if (h.ltype == 0 && n == 4 && !uniform) || (h.ltype == 1 && n == 8) then none else some 0x09
  | .atomic _ => some 0x09

/-- The fault a range kind gives an access (R124); a message page takes no instruction access (R357). -/
def kindFault (k : AccKind) (uniform : Bool) (h : Hit) (n : Nat) : Option Nat :=
  if decide (messageBase ≤ h.ia) then some 0x07
  else
  match h.kind, k with
  | .lattice, k => latticeFault k uniform h n
  | _, .join => some 0x09
  | _, .threshold => some 0x09
  | .host, .atomic op => if hostAtom op then none else some 0x07
  | .code, .store => some 0x07
  | .code, .atomic _ => some 0x07
  | _, _ => none

/-- What the core finds for one address at issue, in the order of R129: a fault code, or where it leads. -/
def addressCheck (c : Ctx) (k : AccKind) (uniform : Bool) (va n : Nat) : Except Nat Hit :=
  if va % n != 0 then .error 0x06
  else if 2 ^ 63 < va + n then .error 0x07
  else
    match c.hit va n with
    | none => .error 0x07
    | some h =>
      match kindFault k uniform h n with
      | some f => .error f
      | none => .ok h

/-- log2 of a size in bytes. -/
def sizeLog (n : Nat) : Nat := Nat.log2 n

/-- The trap of a memory instruction (R333). -/
def memTrap (code lane : Nat) (k : AccKind) (n va ia colour data : Nat) : TrapInfo :=
  { code := code, ucode := 0, lead := true, recLane := lane, recorded := false, kind := accKindCode k,
    size := sizeLog n, va := va, ia := ia, colour := colour, data := if k == .load then 0 else data }

/-- One lane's request: address, data, second data. -/
structure Req where
  lane : Nat
  va : Nat
  data : Nat
  data2 : Nat
  deriving DecidableEq, Repr

/-- The scope of a global atomic (R139). -/
def atomScope : RangeKind → Nat
  | .peer => 4 | .host => 5 | _ => 3

/-- An atomic: a pre-emption that finds it issued lets it end (R156). -/
def AccKind.isAtomic : AccKind → Bool
  | .atomic _ => true
  | _ => false

def relOrder : Order → Bool
  | .rel => true | .ar => true | _ => false
def acqOrder : Order → Bool
  | .acq => true | .ar => true | _ => false

/-- A request as a lane's part of an access. -/
def laneAccOf (res : List Nat) (die : Nat) (r : Req) (h : Hit) : LaneAcc :=
  { lane := r.lane, va := r.va, kind := h.kind, ltype := h.ltype,
    home := if h.kind == .peer then listGet 31 res h.pdie else die, ia := h.ia, data := r.data, data2 := r.data2,
    verdict := .waiting }

/-- The IA of an access that faults at issue, as far as its range gives one (R333). -/
def faultIa (c : Ctx) (va n : Nat) : Nat :=
  if va % n != 0 || decide (2 ^ 63 < va + n) then 0
  else match c.hit va n with
    | some h => h.ia
    | none => 0

/-- The fields of an access that do not depend on the lane. -/
structure AccForm where
  kind : AccKind
  bytes : Nat
  dest : Nat
  uniform : Bool := false
  hint : Hint := .normal
  order : Order := .rlx
  colour : Nat := 0
  deriving DecidableEq, Repr

/-- Does the release half of a lane's ordering still wait. -/
def State.awaitsRelease (s : State) (g : Group) (w : Wg) (f : AccForm) (r : Req) : Bool :=
  match addressCheck (s.ctx w.ctx) f.kind f.uniform r.va f.bytes with
  | .error _ => false
  | .ok h => relOrder f.order && !s.released g.wg g.team r.lane 0xFF (atomScope h.kind)

/-- The issue of a lane's request: it faults, waits for the release half of the issue's ordering, or joins the access. -/
def State.requestOne (s : State) (g : Group) (w : Wg) (f : AccForm) (waits : Bool) (r : Req) : State × Option LaneAcc :=
  match addressCheck (s.ctx w.ctx) f.kind f.uniform r.va f.bytes with
  | .error code => (s.raise g.wg g.team r.lane (memTrap code r.lane f.kind f.bytes r.va (faultIa (s.ctx w.ctx) r.va f.bytes) f.colour r.data), none)
  | .ok h =>
    if waits then
      (s.modThread g.wg g.team r.lane fun th => { th with status := .waiting .release }, none)
    else
      (s.modThread g.wg g.team r.lane fun th => { th with status := .region g.id },
       some (laneAccOf (s.record w.launch).resolution w.die r h))

/-- The access of an issue, from its lanes' parts. -/
def accessOf (g : Group) (t : Team) (f : AccForm) (ls : List LaneAcc) : Access :=
  { id := g.id, wg := g.wg, team := g.team, pc := g.pc, kind := f.kind, bytes := f.bytes, lanes := ls, dest := f.dest,
    uniform := f.uniform, hint := f.hint, order := f.order, colour := f.colour, limit := t.waitlim.toNat, group := g.lanes,
    discarded := false, again := false }

/-- The release half of an atomic that goes on: global atomics have die scope or wider (R139, R250). -/
def State.requestRelease (s : State) (w : Wg) (o : Order) : State :=
  if relOrder o then s.publishCluster w.die (clusterOf w.core) 3 else s

/-- Requests of a lane instruction: each thread faults on its own (R121); the rest form one access, whose results return
together, so that they wait together for a release (R219). -/
def State.request (s : State) (g : Group) (w : Wg) (t : Team) (f : AccForm) (rs : List Req) : State :=
  let waits := rs.any (s.awaitsRelease g w f)
  let r := rs.foldl (fun (acc : State × List LaneAcc) q =>
    let x := acc.1.requestOne g w f waits q
    (x.1, acc.2 ++ x.2.toList)) (s, [])
  if r.2.isEmpty then r.1
  else
    let s1 := r.1.requestRelease w f.order
    { s1 with accs := s1.accs ++ [accessOf g t f r.2] }

/-- The request of a uniform instruction: a fault is raised in every thread of the group (R174). -/
def State.requestUniform (s : State) (g : Group) (w : Wg) (t : Team) (f : AccForm) (va data data2 : Nat) : State :=
  match addressCheck (s.ctx w.ctx) f.kind true va f.bytes with
  | .error code => s.raiseGroup g.wg g.team g.lanes (memTrap code 0 f.kind f.bytes va (faultIa (s.ctx w.ctx) va f.bytes) f.colour data)
  | .ok h =>
    if relOrder f.order && (g.live t).any fun l => !s.released g.wg g.team l 0xFF (atomScope h.kind) then
      s.park g (.waiting .release)
    else
      let a := laneAccOf (s.record w.launch).resolution w.die ⟨lowestLane g.lanes, va, data, data2⟩ h
      let s1 := (s.park g (.region g.id)).requestRelease w f.order
      { s1 with accs := s1.accs ++ [accessOf g t { f with uniform := true } [a]] }

/-! ## Verdicts -/

/-- Is an IA page marked by the side log of a core for a context (R127). -/
def State.marked (s : State) (die core ctx home page : Nat) : Bool :=
  s.slog.any fun e => e.die == die && e.core == core && e.ctx == ctx && e.home == home && e.ia / 65536 == page

/-- The verdict the memory side gives a lane's part now (R125, R331, R353, R72); none comes while the links do not carry the access
(R350, R355). -/
def State.laneVerdict (s : State) (w : Wg) (k : AccKind) (a : LaneAcc) : Verdict :=
  let c := s.ctx w.ctx
  if !s.linked a.kind w.die a.home a.ia then .waiting
  else
  match s.verdict a.home a.ia c.world a.kind (wayOf k) with
  | .mapped =>
    let view := s.viewVerdict a.kind (wayOf k) a.home a.ia c.world
    if view != .mapped then view
    else if a.kind == .peer && wayOf k != .read && s.exportRo c a.home a.va then .own
    else if s.marked w.die w.core w.ctx a.home (a.ia / 65536) then .waiting
    else .mapped
  | .own => .own
  | v => if a.kind == .format && wayOf k != .read then .own else v

/-- Access number id. -/
def State.acc? (s : State) (id : Nat) : Option Access := findFirst (fun a => a.id == id) s.accs
def State.modAcc (s : State) (id : Nat) (f : Access → Access) : State :=
  { s with accs := mapWhere (fun a => a.id == id) f s.accs }
/-- An access whose lanes are all served goes. -/
def State.settleAcc (s : State) (id : Nat) : State :=
  { s with accs := s.accs.filter fun a => !(a.id == id && a.lanes.isEmpty) }

/-- Number of lanes an access counts on a page: every lane of the group for a uniform one. -/
def laneCount (a : Access) (ls : List LaneAcc) : Nat :=
  if a.uniform then countWhere (fun l => inMask a.group l) (upFrom 0 64) else ls.length

/-- The free entries of a core's side log, ascending (R337). -/
def State.freeEntries (s : State) (die core : Nat) : List Nat :=
  (upFrom 0 256).filter fun n => !(s.slog.any fun e => e.die == die && e.core == core && e.slot == n)
/-- The lowest of them. -/
def State.freeSlot (s : State) (die core : Nat) : Option Nat := (s.freeEntries die core).head?

/-- The threads in whose order a lane's part of an access stands: the lane, or the whole group of a uniform one (R246). -/
def Access.stands (a : Access) (x : LaneAcc) : BitVec 64 := if a.uniform then a.group else 1#64 <<< x.lane

/-- The owner record of an access on a page, naming a lane (R128, R333). -/
def accRecord (a : Access) (w : Wg) (x : LaneAcc) (code : Nat) (entry : Option Nat) : OwnerInfo :=
  OwnerInfo.place
    { code := code, size := sizeLog a.bytes, lane := x.lane, kind := accKindCode a.kind, vpc := a.pc.toNat, va := x.va,
      ia := x.ia, slog := entry.isSome, slent := entry.getD 0, pend := entry.isSome,
      colour := a.colour, data := if a.kind == .load then 0 else x.data } w a.team

/-- A faulting store or join takes a side-log entry, or holds when none is free (R127). -/
def State.logOne (s : State) (a : Access) (w : Wg) (x : LaneAcc) : State × Option Nat :=
  match s.freeSlot w.die w.core with
  | none => (s, none)
  | some n =>
    let e : SlogEntry :=
      { order := s.nextId, slot := n, die := w.die, core := w.core, ctx := w.ctx, wg := a.wg, team := a.team,
        lane := x.lane, pc := a.pc, va := x.va, kind := x.kind, ltype := x.ltype, home := x.home, ia := x.ia,
        bytes := a.bytes, data := x.data, colour := a.colour, join := a.kind == .join, lanes := a.stands x }
    ({ s with slog := s.slog ++ [e], nextId := s.nextId + 1 }, some n)

/-- Threads an access lane stands for: the lane, or the whole group of a uniform instruction. -/
def State.lanesFor (s : State) (a : Access) (x : LaneAcc) : List Nat :=
  if a.uniform then
    (upFrom 0 64).filter fun l => (((s.wg a.wg).team a.team).thread l).status == .region a.id
  else [x.lane]

/-- The threads of an access lane go on past the instruction; those of a load that begins again are past it. -/
def State.accGoOn (s : State) (a : Access) (ls : List Nat) : State :=
  if a.again then ls.foldl (fun acc l => acc.settleAgain a.wg a.team l) s
  else ls.foldl (fun acc l => (acc.modThread a.wg a.team l fun th => th.goOn).settleAgain a.wg a.team l) s

/-- PAGE on a lane: a store or join retires into the side log and its thread goes on; anything else holds, and is abandoned where
a pre-emption has frozen the thread meanwhile (R126, R339). -/
def State.pageOne (s : State) (a : Access) (x : LaneAcc) : State :=
  let w := s.wg a.wg
  let ls := s.lanesFor a x
  let hold (st : State) : State :=
    let s1 := st.modAcc a.id fun b => { b with lanes := b.lanes ++ [{ x with verdict := .page }] }
    if w.frozen then ls.foldl (fun acc l => acc.modThread a.wg a.team l fun th => { th with status := .running }) st
    else if a.again then ls.foldl (fun acc l => acc.settleAgain a.wg a.team l) s1
    else ls.foldl (fun acc l => acc.modThread a.wg a.team l fun th => { th with status := .held a.id }) s1
  if a.kind == .store || a.kind == .join then
    match s.logOne a w x with
    | (s1, some _) => s1.accGoOn a ls
    | (s1, none) => hold s1
  else hold s

/-- OWN on a lane: the trap is raised; its records were written by page (R128, R203). A load that begins again brings no result any
more, and its thread takes the trap where it stands (DEDUCED, log 29). -/
def State.ownOne (s : State) (a : Access) (x : LaneAcc) : State :=
  let s0 := if a.again then s.modThread a.wg a.team x.lane fun th => { th with outs := th.outs.filter fun o => o.id != a.id } else s
  (s.lanesFor a x).foldl (fun acc l => acc.raise a.wg a.team l
    { memTrap 0x08 l a.kind a.bytes x.va x.ia a.colour x.data with recorded := true }) s0

/-- Does an access take side-log entries where it meets PAGE (R127). -/
def Access.logs (a : Access) : Bool := a.kind == .store || a.kind == .join

/-- The side-log entry that each faulting lane takes: the free entries in ascending lane order (R337). -/
def State.entriesFor (s : State) (a : Access) (bad : List LaneAcc) : List (Nat × Nat) :=
  let w := s.wg a.wg
  if a.logs && !a.discarded then
    List.zip ((bad.filter fun x => x.verdict == .page).map LaneAcc.lane) (s.freeEntries w.die w.core)
  else []

/-- The records of the lanes of one page with one verdict, lowest lane first: PAGE always, OWN where some thread has no handler
(R128). -/
def State.pageRecords (s : State) (a : Access) (entries : List (Nat × Nat)) (here : List LaneAcc) : State :=
  let w := s.wg a.wg
  match here with
  | [] => s
  | x :: _ =>
    let isOwn := x.verdict == .own
    let entry := (findFirst (fun e => e.1 == x.lane) entries).map Prod.snd
    let un := here.any fun y => (s.lanesFor a y).any fun l => s.unhandled w a.team l 0x08
    let s1 := if isOwn then (if un then s.ownerRecord w.ctx (accRecord a w x 0x08 none) else s)
      else s.ownerRecord w.ctx (accRecord a w x 0x0C entry)
    s1.operatorRecord x.home w.ctx (opKindCode a.kind) (if isOwn then 2 else 1) (laneCount a here) (x.ia / 65536)

/-- The faulting lanes of an instruction by page and verdict, in ascending order of the lowest lane of each (R128, R336). -/
def byPage (bad : List LaneAcc) : List (List LaneAcc) :=
  let same (x y : LaneAcc) : Bool := x.home == y.home && x.ia / 65536 == y.ia / 65536 && x.verdict == y.verdict
  bad.foldl (fun acc x => if acc.any fun l => l.any (same x) then acc else acc ++ [bad.filter (same x)]) []

/-- The records of the lanes that meet PAGE or OWN. -/
def State.verdictRecords (s : State) (a : Access) (bad : List LaneAcc) : State :=
  let entries := s.entriesFor a bad
  (byPage bad).foldl (fun acc here => acc.pageRecords a entries here) s

/-- VERDICT_ARRIVAL: every lane has its verdict; records are written, PAGE and OWN lanes are taken out of the access
and the rest may commit (R125 to R128, R336). -/
def State.verdicts (s : State) (a : Access) : State :=
  let w := s.wg a.wg
  let ls := a.lanes.map fun x => if x.verdict == .waiting then { x with verdict := s.laneVerdict w a.kind x } else x
  let new := ls.filter fun x => (a.lanes.any fun y => y.lane == x.lane && y.verdict == .waiting)
  let bad := new.filter fun x => x.verdict == .page || x.verdict == .own
  let s1 := s.modAcc a.id fun b => { b with lanes := ls.filter fun x => !bad.contains x }
  let s2 := s1.verdictRecords a bad
  let s3 := bad.foldl (fun acc x => if x.verdict == .page then acc.pageOne a x else acc.ownOne a x) s2
  s3.settleAcc a.id

/-- The verdicts of an access whose region pre-emption has discarded: a fault that is met writes its records, and no more comes of
it (R336). -/
def State.lateVerdicts (s : State) (a : Access) : State :=
  let w := s.wg a.wg
  let ls := a.lanes.map fun x => { x with verdict := s.laneVerdict w a.kind x }
  let s1 := s.verdictRecords a (ls.filter fun x => x.verdict == .page || x.verdict == .own)
  (s1.modAcc a.id fun b => { b with lanes := ls.filter fun x => x.verdict == .waiting }).settleAcc a.id

/-! ## Performing an access -/

/-- A write that still waits for a wider scope (R148). -/
def State.await (s : State) (a : Access) (x : LaneAcc) (kind key : Nat) : State :=
  let w := s.wg a.wg
  let u : Unacked := { wg := a.wg, team := a.team, lanes := a.stands x, colour := a.colour, kind := kind, die := w.die,
                       cluster := clusterOf w.core, key := key, bytes := a.bytes, data := x.data }
  { s with unacked := s.unacked ++ [u] }

/-- The owner record of a dropped store or join (R133, R138, R267) (DEDUCED, log 34). -/
def State.nonMono (s : State) (a : Access) (x : LaneAcc) : State :=
  s.ownerRecord (s.wg a.wg).ctx (accRecord a (s.wg a.wg) x 0x0D none)

/-- A load's value (R131, R72, R224, R235). -/
def State.loadOne (s : State) (a : Access) (x : LaneAcc) (key : Nat) : State × Nat :=
  let w := s.wg a.wg
  let cl := clusterOf w.core
  match x.kind, s.viewFill x.kind x.home x.ia (s.ctx w.ctx).world with
  | .lattice, _ => (s, readLE s.mem key a.bytes)
  | .host, _ => if a.hint == .ro then s.roLoad w.die cl key a.bytes true w.die (x.ia / 65536) else s.l2Read key a.bytes
  | _, some (s1, v) =>
    match a.hint with
    | .ro => s1.viewRo w.die cl key a.bytes x.ia v x.home
    | .nocc => (s1, sectorBytes v x.ia a.bytes)
    | _ => s1.viewCached w.die cl key a.bytes x.ia v
  | k, none =>
    match a.hint with
    | .ro => s.roLoad w.die cl key a.bytes false x.home (x.ia / 65536)
    | .nocc => s.noccLoad w.die cl key a.bytes
    | _ => s.clusterLoad w.die cl (k == .peer) key a.bytes

/-- A store (R132, R133): one to a peer or to host memory is sent, and its bytes change there when it arrives (R354)
(DEDUCED, log 37). -/
def State.storeOne (s : State) (a : Access) (x : LaneAcc) (key : Nat) : State :=
  let w := s.wg a.wg
  let cl := clusterOf w.core
  match x.kind with
  | .lattice =>
    let v := storeValue x.ltype a.bytes (readLE s.mem key a.bytes) x.data
    let s1 := s.latticeWrite x.home x.ia key a.bytes v.1
    if v.2 then s1.nonMono a x else s1
  | .peer => s.await a x 1 key
  | .host => s.await a x 2 key
  | _ => (s.clusterStore w.die cl key a.bytes x.data).await a x 0 key

/-- A join (R138). -/
def State.joinOne (s : State) (a : Access) (x : LaneAcc) (key : Nat) : State :=
  match joinValue x.ltype a.bytes (readLE s.mem key a.bytes) x.data with
  | some v => s.latticeWrite x.home x.ia key a.bytes v
  | none => s.nonMono a x

/-- An atomic: the old value, and the memory after it (R139 to R142). -/
def State.atomOne (s : State) (a : Access) (op : AtomOp) (x : LaneAcc) (key : Nat) : State × Nat :=
  let w := s.wg a.wg
  match x.kind, op with
  | .lattice, .add =>
    let slotKey := key + 4 * (w.ldie % 32)
    let old := readLE s.mem slotKey 4
    if 2 ^ 31 ≤ x.data then (s.nonMono a x, old)
    else (s.latticeWrite x.home (x.ia + 4 * (w.ldie % 32)) slotKey 4 (slotAdd old x.data), old)
  | .lattice, _ =>
    let old := readLE s.mem key a.bytes
    (s.latticeWrite x.home x.ia key a.bytes (max old x.data), old)
  | _, op =>
    let cl := clusterOf w.core
    let s0 := s.dropWords fun c => c.die == w.die && c.cluster == cl && (wordsOf key a.bytes).contains c.word
    let (s1, old) := s0.l2Read key a.bytes
    (s1.l2Write key a.bytes (atomResult op (8 * a.bytes) old x.data x.data2), old)

/-- The value in registers: sizes of 8 and 16 bits zero-extend (R122). -/
def destRegs (dest n v : Nat) : List (Nat × BitVec 32) := spread dest ((n + 3) / 4) v

/-- A result that returns to the threads of an access lane; the threads go on. -/
def State.accResult (s : State) (a : Access) (x : LaneAcc) (v : Nat) : State :=
  let ls := s.lanesFor a x
  let o : Out := { id := a.id, ready := true, regs := if a.uniform then [] else destRegs a.dest a.bytes v, p6 := none,
                   flags := 0 }
  let s1 := ls.foldl (fun acc l => acc.modThread a.wg a.team l fun th => th.addOut o) s
  let s2 := if a.uniform then s1.modTeam a.wg a.team fun t =>
      { t with uouts := t.uouts ++ [{ id := a.id, ready := true, regs := [(a.dest, BitVec.ofNat 64 v)] }] }
    else s1
  s2.accGoOn a ls

/-- A threshold load at its cell: it passes at once, or waits (R136) (DEDUCED, log 29). -/
def State.thresholdOne (s : State) (a : Access) (x : LaneAcc) (key : Nat) : State :=
  let w := s.wg a.wg
  let c := readLE s.mem key (cellBytes x.ltype)
  let now := (s.ctx w.ctx).cycles.toNat
  let bring (o : Out) (st : State) : State := st.modThread a.wg a.team x.lane fun th =>
    { th with outs := (th.outs.filter fun q => !(a.again && q.id == a.id)) ++ [o] }
  if passed x.ltype c x.data || a.limit == 0 then
    let o : Out := { id := a.id, ready := true, regs := destRegs a.dest a.bytes (thresholdValue x.ltype c),
                     p6 := some (passed x.ltype c x.data), flags := 0 }
    (bring o s).accGoOn a [x.lane]
  else
    let o : Out := { id := a.id, ready := false, regs := [], p6 := none, flags := 0 }
    let y : Waiter :=
      { id := a.id, wg := a.wg, team := a.team, lane := x.lane, cell := true, pc := a.pc, bytes := a.bytes,
        home := x.home, va := x.va, ia := x.ia, ltype := x.ltype, threshold := x.data, dest := a.dest, start := now,
        limit := a.limit, polling := false, nextPoll := 0, engine := .copy, abandoned := false }
    let s1 : State := { s with waiters := s.waiters ++ [y.begun s now] }
    (bring o s1).accGoOn a [x.lane]

/-- A shape entry, its reserved bits zero (R188, R100). -/
def shapeEntry (v : Nat) : BitVec 256 :=
  BitVec.ofNat 256 (v % 8 + (v / 2 ^ 64) % 2 ^ 160 * 2 ^ 64)

/-- Would a part of an access consume a poisoned word (R237): a store consumes the cell of a lattice that it is compared with. -/
def State.partPoisoned (s : State) (a : Access) (x : LaneAcc) : Bool :=
  (a.kind != .store || x.kind == .lattice) &&
    match s.keyOf x.home x.ia with
    | some key => s.spoiled x.kind x.home x.ia (s.ctx (s.wg a.wg).ctx).world key a.bytes
    | none => false

/-- One lane's part of an access is performed at its execution point. -/
def State.performOne (s : State) (a : Access) (x : LaneAcc) : State :=
  let w := s.wg a.wg
  match s.keyOf x.home x.ia with
  | none => s
  | some key =>
    match a.kind with
    | .load => let (s1, v) := s.loadOne a x key; s1.accResult a x v
    | .store => (s.storeOne a x key).accGoOn a (s.lanesFor a x)
    | .join => (s.joinOne a x key).accGoOn a (s.lanesFor a x)
    | .atomic op =>
      let (s1, old) := s.atomOne a op x key
      let s2 := s1.accResult a x old
      if acqOrder a.order then s2.acquireHalf w.die (clusterOf w.core) (atomScope x.kind) false else s2
    | .threshold => s.thresholdOne a x key
    | .shape n =>
      let (s1, v) := s.loadOne a x key
      (s1.modWg a.wg fun y => { y with shapes := spSet y.shapes n (shapeEntry v) }).accGoOn a (s.lanesFor a x)

/-- Parts of an access that would consume poisoned words: one owner and one operator record for each page, and their threads leave
(R237, R334). -/
def State.partsPoisoned (s : State) (a : Access) (bad : List LaneAcc) : State :=
  let w := s.wg a.wg
  let record (acc : State) (here : List LaneAcc) : State :=
    match here with
    | [] => acc
    | x :: _ => acc.dataError w.ctx x.home (opKindCode a.kind) (x.ia / 65536) (laneCount a here) (accRecord a w x 0x0E none)
  if bad.isEmpty then s
  else ((byPage bad).foldl record s).withoutWord a.wg a.team (bad.flatMap (s.lanesFor a))

/-- Does a part of an access touch the cell of a threshold load of its own thread that still waits, or begins again: it stands after
that load (R248 case 1). -/
def State.behindWait (s : State) (a : Access) (x : LaneAcc) : Bool :=
  let meets (wg team lane home ia ltype : Nat) : Bool :=
    wg == a.wg && team == a.team && (s.lanesFor a x).contains lane && home == x.home
      && decide (ia < x.ia + a.bytes) && decide (x.ia < ia + cellBytes ltype)
  (s.waiters.any fun y => y.cell && meets y.wg y.team y.lane y.home y.ia y.ltype)
    || (!a.again && s.accs.any fun b => b.again && b.lanes.any fun y => meets b.wg b.team y.lane y.home y.ia y.ltype)

/-- Is a write to one of `n` bytes on its way from a workgroup's cluster: what would read or write them there stands after it
(R248 case 1). -/
def State.onTheWay (s : State) (w : Wg) (home ia n : Nat) : Bool :=
  match s.keyOf home ia with
  | some key => s.unacked.any fun u => u.kind != 0 && u.die == w.die && u.cluster == clusterOf w.core
      && decide (u.key < key + n) && decide (key < u.key + u.bytes)
  | none => false

/-- Can a part of an access be performed now: its page must not be on the move (R364), and the links it needs must still carry it
(R350, R355). -/
def State.performable (s : State) (a : Access) (x : LaneAcc) : Bool :=
  x.verdict == .mapped && !a.discarded && !s.behindWait a x && s.linked x.kind (s.wg a.wg).die x.home x.ia
    && (s.keyOf x.home x.ia).isSome && !s.onTheWay (s.wg a.wg) x.home x.ia a.bytes

/-- REGION_COMMIT: the lanes whose verdict is mapped are performed in ascending lane order (R130, R313), but for those that would
consume poisoned words (R237). -/
def State.commit (s : State) (a : Access) : State :=
  let go := a.lanes.filter fun x => s.performable a x
  let bad := go.filter fun x => s.partPoisoned a x
  let s1 := s.modAcc a.id fun b => { b with lanes := b.lanes.filter fun x => !s.performable a x }
  let s2 := (go.filter fun x => !s.partPoisoned a x).foldl (fun acc x => acc.performOne a x) s1
  ((s2.partsPoisoned a bad).settleAcc a.id).wakeReleases a.wg

/-- A side-log entry replays (R127, R255): dropped with a record where it meets OWN or NONMONO. -/
def State.replay (s : State) (e : SlogEntry) : State :=
  let w := s.wg e.wg
  let s0 := { s with slog := s.slog.filter fun x => x.order != e.order }
  let x : LaneAcc := { lane := e.lane, va := e.va, kind := e.kind, ltype := e.ltype, home := e.home, ia := e.ia,
                       data := e.data, data2 := 0, verdict := .mapped }
  let k : AccKind := if e.join then .join else .store
  let a : Access := { id := 0, wg := e.wg, team := e.team, pc := e.pc, kind := k, bytes := e.bytes, lanes := [],
                      dest := 0, uniform := true, hint := .normal, order := .rlx, colour := e.colour, limit := 0,
                      group := e.lanes, discarded := false, again := false }
  let rec0 (code : Nat) : OwnerInfo := { accRecord a w x code none with kind := 9, slog := true, slent := e.slot }
  match s0.keyOf e.home e.ia with
  | none => s
  | some key =>
    let own := s.verdict e.home e.ia (s.ctx e.ctx).world e.kind .write == .own
      || s.viewVerdict e.kind .write e.home e.ia (s.ctx e.ctx).world == .own
      || (e.kind == .peer && s.exportRo (s.ctx e.ctx) e.home e.va)
    let s1 :=
      if own then (s0.ownerRecord e.ctx (rec0 0x08)).operatorRecord e.home e.ctx 1 2 1 (e.ia / 65536)
      else if e.join then
        match joinValue e.ltype e.bytes (readLE s0.mem key e.bytes) e.data with
        | some v => s0.latticeWrite e.home e.ia key e.bytes v
        | none => s0.ownerRecord e.ctx (rec0 0x0D)
      else if e.kind == .lattice then
        let v := storeValue e.ltype e.bytes (readLE s0.mem key e.bytes) e.data
        let s2 := s0.latticeWrite e.home e.ia key e.bytes v.1
        if v.2 then s2.ownerRecord e.ctx (rec0 0x0D) else s2
      else s0.storeOne a x key
    s1.wakeReleases e.wg

/-! ## Scratch (R134, R135, R229) -/

/-- Allocation-relative bank of a scratch offset (Phys of R229). -/
def bankOf (a z : Nat) : Nat :=
  let sp := 16 * 2 ^ z
  let row := (a / 512) % 512
  let g2 := ((a % 512) / sp) ^^^ (row % (512 / sp))
  let b := g2 * sp + a % sp
  4 * (a / 2 ^ 18) + b / 128
/-- Is every byte of an access in a bank in scratch mode. -/
def Wg.inScratch (w : Wg) (off n : Nat) : Bool :=
  (upFrom 0 n).all fun i => spGet w.bankModes (bankOf (off + i) w.span) == 0
/-- Bytes of a workgroup's allocation. -/
def Wg.scratchSize (w : Wg) : Nat := w.units.length * 2 ^ 18

/-- What ScratchTarget answers: a fault, a wait for residence, or workgroup and offset. -/
inductive ScratchAns where
  | fault (code : Nat)
  | absent (wgid : Nat)
  | at (u off : Nat)
  deriving DecidableEq, Repr

/-- ScratchTarget of R134. A workgroup of the launch that has ended is not resident, and an access that names it waits as R135 says
of one that is saved or has not started: for ever (DESIGN CHOICE, log 35). -/
def State.scratchTarget (s : State) (w : Wg) (sb : BitVec 64) (vx n : Nat) : ScratchAns :=
  let off := field sb 0 24 + vx
  let peer := sb.getLsbD 40
  let id := if peer then field sb 32 8 else w.wgid
  if off % n != 0 then .fault 0x06
  else if peer && decide (w.nwg ≤ id) then .fault 0x07
  else if id == w.wgid then
    if w.scratchSize < off + n || !w.inScratch off n then .fault 0x07 else .at w.uid off
  else
    match findFirst (fun y => y.launch == w.launch && y.wgid == id) s.wgs with
    | none => .absent id
    | some y => if y.scratchSize < off + n || !y.inScratch off n then .fault 0x07 else .at y.uid off

/-- Is a word of scratch poisoned. -/
def Wg.scratchPoisoned (w : Wg) (off n : Nat) : Bool :=
  w.poison.any fun k => decide (8 * k < off + n) && decide (off < 8 * k + 8)

/-- Writes scratch. -/
def State.scratchWrite (s : State) (u off n v : Nat) : State :=
  s.modWg u fun w => { w with scratch := writeLE w.scratch off n v, poison := unpoison w.poison off n }

/-- What a scratch access does once its place is known. -/
inductive ScratchDo where
  | load (dest : Nat)
  | store (v : Nat)
  | atomic (op : AtomOp) (x n dest : Nat)
  deriving DecidableEq, Repr

/-- The data an access carries, for its record. -/
def scratchData (d : ScratchDo) : Nat :=
  match d with
  | .load _ => 0
  | .store v => v
  | .atomic _ x _ _ => x

/-- The scope of a scratch atomic: the workgroup for its own scratch, the die for a peer's (R139). -/
def Wg.scratchScope (w : Wg) (u : Nat) : Nat := if u == w.uid then 1 else 3
/-- Does a thread's scratch access find its release half not complete. -/
def State.scratchAwaits (s : State) (g : Group) (w : Wg) (p : ScratchAns) (l : Nat) : Bool :=
  match p with
  | .at u _ => !s.released g.wg g.team l 0xFF (w.scratchScope u)
  | _ => false

/-- One thread's scratch access (R134, R139); `waits` when the issue waits for the release half of its ordering. -/
def State.scratchOne (s : State) (g : Group) (w : Wg) (k : AccKind) (sb : BitVec 64) (vx n : Nat)
    (order : Order) (colour : Nat) (waits : Bool) (act : ScratchDo) (l : Nat) : State :=
  match s.scratchTarget (s.wg g.wg) sb vx n with
  | .fault code => s.raise g.wg g.team l (memTrap code l k n 0 0 colour (scratchData act))
  | .absent id => s.modThread g.wg g.team l fun th => { th with status := .waiting (.scratch g.id id) }
  | .at u off =>
    let scope := w.scratchScope u
    if waits then
      s.modThread g.wg g.team l fun th => { th with status := .waiting .release }
    else
      let y := s.wg u
      let isStore := match act with
        | .store _ => true
        | _ => false
      if !isStore && y.scratchPoisoned off n then
        s.registerError w g.team [l] 3 (opKindCode k) g.pc.toNat
      else
        let old := readLE y.scratch off n
        let out (dest : Nat) (th : Thread) : Thread :=
          (th.addOut { id := g.id, ready := true, regs := destRegs dest n old, p6 := none, flags := 0 }).goOn
        match act with
        | .load dest => s.modThread g.wg g.team l (out dest)
        | .store v => (s.scratchWrite u off n v).modThread g.wg g.team l fun th => th.goOn
        | .atomic op x nv dest =>
          let s0 := if relOrder order then s.publishCluster w.die (clusterOf w.core) scope else s
          let s1 := s0.scratchWrite u off n (atomResult op (8 * n) old x nv)
          let s2 := if acqOrder order then s1.acquireHalf w.die (clusterOf w.core) scope false else s1
          s2.modThread g.wg g.team l (out dest)

end Sys2Proof.Machine
end

