-- ==== Sys2Proof/Machine/LaneMem.lean ====
section
/-!
DEFINITION. Lane memory instructions: global and scratch loads and stores, threshold loads, joins, atomics, queues (R121 to
R146).
-/
namespace Sys2Proof.Machine

/-- UNHELD, and poisoned registers, before a memory instruction of some lane registers issues (R10, R129, R237). -/
def State.memIssue (s : State) (reads writes : List Nat) (f : State → Group → Wg → Team → State) : Result :=
  s.withGroup fun g w t =>
    if ((reads ++ writes).any fun r => decide (32 ≤ r)) && !t.ext then
      s.raiseEach g.wg g.team (g.live t) (plainTrap 5)
    else if consumesPoison t (g.live t) reads then
      let s1 := s.laneError w g.team t (g.live t) reads g.pc
      s1.onwards g (poisonedLanes t (g.live t) reads) (f s1)
    else f s g w t

/-- The byte a global access addresses (R123). -/
def globalVa (t : Team) (b : SReg) (th : Thread) (x : VReg) : Nat :=
  ((t.sreg b.toNat).toNat + (th.v32 x.toNat).toNat) % 2 ^ 64

/-- The requests of a lane memory instruction. -/
def requests (g : Group) (t : Team) (va data data2 : Thread → Nat) : List Req :=
  (g.live t).map fun l => { lane := l, va := va (t.thread l), data := data (t.thread l), data2 := data2 (t.thread l) }

/-- A global access of a lane instruction. -/
def State.globalAccess (s : State) (x : VReg) (b : SReg) (f : AccForm) (data data2 : Thread → Nat)
    (g : Group) (w : Wg) (t : Team) : State :=
  s.request g w t f (requests g t (fun th => globalVa t b th x) data data2)

/-- No data. -/
def noData (_ : Thread) : Nat := 0

/-! ## Loads and stores (R131, R132, R134) -/

/-- LD.G. -/
def execLdG (d : VReg) (x : VReg) (b : SReg) (c : Hint) (z : Size) (s : State) : Result :=
  s.memIssue [x.toNat] (vregs d z.regs)
    (fun s => s.globalAccess x b { kind := .load, bytes := z.bytes, dest := d.toNat, hint := c } noData noData)

/-- The stored value of a size: the low bits of the registers (R122). -/
def storeData (d : VReg) (z : Size) (th : Thread) : Nat := th.vNat d.toNat z.regs % 2 ^ (8 * z.bytes)

/-- ST.G. -/
def execStG (d : VReg) (x : VReg) (b : SReg) (c : Colour) (z : Size) (s : State) : Result :=
  s.memIssue (x.toNat :: vregs d z.regs) []
    (fun s => s.globalAccess x b { kind := .store, bytes := z.bytes, dest := 0, colour := c.toNat } (storeData d z) noData)

/-- A scratch access of a lane instruction, in ascending lane order (R130). Its results return together, so that its threads wait
together for the release half of its ordering (R219). -/
def State.scratchAccess (s : State) (x : VReg) (b : SReg) (k : AccKind) (n : Nat) (order : Order) (colour : Nat)
    (act : Thread → ScratchDo) (g : Group) (w : Wg) (t : Team) : State :=
  let place (l : Nat) : ScratchAns := s.scratchTarget w (t.sreg b.toNat) ((t.thread l).v32 x.toNat).toNat n
  let waits := relOrder order && (g.live t).any fun l => s.scratchAwaits g w (place l) l
  (g.live t).foldl (fun acc l =>
    acc.scratchOne g w k (t.sreg b.toNat) ((t.thread l).v32 x.toNat).toNat n order colour waits (act (t.thread l)) l) s

/-- LD.S. -/
def execLdS (d : VReg) (x : VReg) (b : SReg) (z : Size) (s : State) : Result :=
  s.memIssue [x.toNat] (vregs d z.regs) (fun s => s.scratchAccess x b .load z.bytes .rlx 0 fun _ => .load d.toNat)
/-- ST.S. A scratch write is performed in its bank at once, so its colour is never awaited. -/
def execStS (d : VReg) (x : VReg) (b : SReg) (c : Colour) (z : Size) (s : State) : Result :=
  s.memIssue (x.toNat :: vregs d z.regs) []
    (fun s => s.scratchAccess x b .store z.bytes .rlx c.toNat fun th => .store (storeData d z th))

/-! ## Threshold loads and joins (R136, R138) -/

/-- LDTH: the threshold is read from the destination registers. -/
def execLdth (d : VReg) (x : VReg) (b : SReg) (z : Size) (s : State) : Result :=
  s.memIssue (x.toNat :: vregs d z.regs) []
    (fun s => s.globalAccess x b { kind := .threshold, bytes := z.bytes, dest := d.toNat } (storeData d z) noData)

/-- LJOIN. -/
def execLjoin (d : VReg) (x : VReg) (b : SReg) (c : Colour) (z : Size) (s : State) : Result :=
  s.memIssue (x.toNat :: vregs d z.regs) []
    (fun s => s.globalAccess x b { kind := .join, bytes := z.bytes, dest := 0, colour := c.toNat } (storeData d z) noData)

/-! ## Atomics (R139 to R143) -/

/-- An atomic, on scratch when sB[63] is one, on global memory otherwise. `x` is the operand or compare value, `nv` the
new value of a compare-and-swap. -/
def State.atomAccess (s : State) (d : VReg) (x : VReg) (b : SReg) (o : Order) (op : AtomOp) (n : Nat)
    (data data2 : Thread → Nat) (g : Group) (w : Wg) (t : Team) : State :=
  if (t.sreg b.toNat).getLsbD 63 then
    s.scratchAccess x b (.atomic op) n o 0 (fun th => .atomic op (data th) (data2 th) d.toNat) g w t
  else
    s.globalAccess x b { kind := .atomic op, bytes := n, dest := d.toNat, order := o } data data2 g w t

/-- A one-operand atomic of a width. -/
def State.atomic (s : State) (d : VReg) (x : VReg) (b : SReg) (o : Order) (op : AtomOp) (w : AtomWidth) : Result :=
  s.memIssue (x.toNat :: vregs d w.regs) []
    (fun s => s.atomAccess d x b o op w.bytes (fun th => th.vNat d.toNat w.regs) noData)

/-- ATOM.add. -/
def execAtomAdd (d : VReg) (x : VReg) (b : SReg) (o : Order) (w : AtomWidth) (s : State) : Result :=
  s.atomic d x b o .add w
/-- ATOM.minS. -/
def execAtomMinS (d : VReg) (x : VReg) (b : SReg) (o : Order) (w : AtomWidth) (s : State) : Result :=
  s.atomic d x b o .minS w
/-- ATOM.maxS. -/
def execAtomMaxS (d : VReg) (x : VReg) (b : SReg) (o : Order) (w : AtomWidth) (s : State) : Result :=
  s.atomic d x b o .maxS w
/-- ATOM.minN. -/
def execAtomMinN (d : VReg) (x : VReg) (b : SReg) (o : Order) (w : AtomWidth) (s : State) : Result :=
  s.atomic d x b o .minN w
/-- ATOM.maxN. -/
def execAtomMaxN (d : VReg) (x : VReg) (b : SReg) (o : Order) (w : AtomWidth) (s : State) : Result :=
  s.atomic d x b o .maxN w
/-- ATOM.and. -/
def execAtomAnd (d : VReg) (x : VReg) (b : SReg) (o : Order) (w : AtomWidth) (s : State) : Result :=
  s.atomic d x b o .and w
/-- ATOM.or. -/
def execAtomOr (d : VReg) (x : VReg) (b : SReg) (o : Order) (w : AtomWidth) (s : State) : Result :=
  s.atomic d x b o .or w
/-- ATOM.xor. -/
def execAtomXor (d : VReg) (x : VReg) (b : SReg) (o : Order) (w : AtomWidth) (s : State) : Result :=
  s.atomic d x b o .xor w
/-- ATOM.exch. -/
def execAtomExch (d : VReg) (x : VReg) (b : SReg) (o : Order) (w : AtomWidth) (s : State) : Result :=
  s.atomic d x b o .exch w
/-- ATOM.cas: compare value in vD (pair), new value in the registers after it (R142). -/
def execAtomCas (d : VReg) (x : VReg) (b : SReg) (o : Order) (w : AtomWidth) (s : State) : Result :=
  s.memIssue (x.toNat :: vregs d (2 * w.regs)) []
    (fun s => s.atomAccess d x b o .cas w.bytes (fun th => th.vNat d.toNat w.regs) (fun th => th.vNat (d.toNat + w.regs) w.regs))
/-- ATOM.fadd. -/
def execAtomFadd (d : VReg) (x : VReg) (b : SReg) (o : Order) (s : State) : Result := s.atomic d x b o .fadd .w32
/-- ATOM.fmax. -/
def execAtomFmax (d : VReg) (x : VReg) (b : SReg) (o : Order) (s : State) : Result := s.atomic d x b o .fmax .w32

/-! ## Queues (R144 to R146) -/

def Wg.queue (w : Wg) (q : Nat) : Queue := listGet Queue.init w.queues q
def Wg.modQueue (w : Wg) (q : Nat) (f : Queue → Queue) : Wg := { w with queues := listModify f w.queues q }

/-- The faults of a queue instruction: not open, or of another width. -/
def queueFault (q : Queue) (n : Nat) : Option Nat :=
  if !q.opened then some 0x07 else if q.width != n then some 0x06 else none

/-- The oldest filled slot leaves. -/
def Queue.dropOldest (q : Queue) : Queue :=
  { q with slots := q.slots.drop 1, poison := (q.poison.filter fun n => n != 0).map fun n => n - 1 }

/-- QPOP of one thread; a poisoned slot is not consumed (R237). -/
def State.popOne (s : State) (g : Group) (w : Wg) (d : VReg) (try_ : Bool) (sz : QSize) (q l : Nat) : State :=
  let Q := (s.wg g.wg).queue q
  let n := 4 * sz.regs
  let out (v : Nat) (p : Option Bool) (th : Thread) : Thread :=
    (th.addOut { id := g.id, ready := true, regs := spread d.toNat sz.regs v, p6 := p, flags := 0 }).goOn
  match queueFault Q n with
  | some c => s.raise g.wg g.team l (plainTrap c l)
  | none =>
    match Q.slots with
    | v :: _ =>
      if Q.poison.contains 0 then s.registerError w g.team [l] 3 0 g.pc.toNat
      else (s.modWg g.wg fun y => y.modQueue q Queue.dropOldest).modThread g.wg g.team l
        (out v (if try_ then some true else none))
    | [] =>
      if try_ then s.modThread g.wg g.team l (out 0 (some false))
      else if Q.producerCount == 0 then s.raise g.wg g.team l (plainTrap 0x0A l)
      else s.modThread g.wg g.team l fun th => { th with status := .waiting (.queue q false) }

/-- QPOP, in ascending lane order (R146). -/
def execQpop (d : VReg) (t : Bool) (sz : QSize) (q : BitVec 4) (s : State) : Result :=
  s.memIssue [] (vregs d sz.regs) fun s g w tm =>
    (g.live tm).foldl (fun acc l => acc.popOne g w d t sz q.toNat l) s

/-- QPUSH of one thread. -/
def State.pushOne (s : State) (g : Group) (d : VReg) (try_ : Bool) (sz : QSize) (q l : Nat) : State :=
  let Q := (s.wg g.wg).queue q
  let setTry (b : Bool) (th : Thread) : Thread := if try_ then th.setPred 6 b else th
  match queueFault Q (4 * sz.regs) with
  | some c => s.raise g.wg g.team l (plainTrap c l)
  | none =>
    if Q.free == 0 then
      if try_ then s.modThread g.wg g.team l fun th => (setTry false th).goOn
      else s.modThread g.wg g.team l fun th => { th with status := .waiting (.queue q true) }
    else
      let v := (((s.wg g.wg).team g.team).thread l).vNat d.toNat sz.regs
      (s.modWg g.wg fun y => y.modQueue q fun z => { z with slots := z.slots ++ [v] }).modThread g.wg g.team l
        fun th => (setTry true th).goOn

/-- QPUSH, in ascending lane order. -/
def execQpush (d : VReg) (t : Bool) (sz : QSize) (q : BitVec 4) (s : State) : Result :=
  s.memIssue (vregs d sz.regs) [] fun s g _ tm =>
    (g.live tm).foldl (fun acc l => acc.pushOne g d t sz q.toNat l) s

end Sys2Proof.Machine
end

