-- ==== Sys2Proof/Machine/Matrix.lean ====
section
/-!
DEFINITION. The matrix unit: operand layouts (R159 to R164), the sum (R165, R166), the power token at issue (R168 to R170)
and MACC (R172).
-/
namespace Sys2Proof.Machine

/-! ## Types (R159, R160) -/

/-- Element format. -/
def mmaFmt : MmaType → Fmt
  | .bf16 => .bf16 | .f16 => .fp16
  | .e4m3 => .e4m3 | .mxE4m3 => .e4m3 | .s8E4m3 => .e4m3
  | .e5m2 => .e5m2 | .mxE5m2 => .e5m2 | .s8E5m2 => .e5m2
  | .mxfp4 => .e2m1
/-- Bits of an element. -/
def mmaWidth : MmaType → Nat
  | .bf16 => 16 | .f16 => 16 | .mxfp4 => 4 | _ => 8
/-- Length along k. -/
def mmaK : MmaType → Nat
  | .bf16 => 16 | .f16 => 16 | .mxfp4 => 128 | _ => 32
/-- Registers of the A elements and of the B elements of one lane. -/
def mmaNa (t : MmaType) : Nat := mmaK t * mmaWidth t / 32
def mmaNb : MmaType → Nat
  | .mxfp4 => 4 | _ => 2
/-- Length of a sum block. -/
def mmaBlock : MmaType → Nat
  | .bf16 => 16 | .f16 => 16 | _ => 32
/-- How scales act: none, E8M0 over 32 elements, scaled-8 over 16. -/
inductive Scaling where
  | none | mx | s8
  deriving DecidableEq, Repr
def mmaScaling : MmaType → Scaling
  | .mxE4m3 => .mx | .mxE5m2 => .mx | .mxfp4 => .mx
  | .s8E4m3 => .s8 | .s8E5m2 => .s8
  | _ => .none
/-- One register more where the type has a scale. -/
def mmaScaleRegs (t : MmaType) : Nat := if mmaScaling t == .none then 0 else 1
/-- Scale block of an element, and the number of blocks. -/
def scaleBlock (t : MmaType) (k : Nat) : Nat :=
  match mmaScaling t with
  | .none => 0
  | .mx => k / 32
  | .s8 => k / 16
def scaleBlocks (t : MmaType) : Nat :=
  match mmaScaling t with
  | .none => 0
  | .mx => mmaK t / 32
  | .s8 => 2
/-- Registers of one part of an A group and of a B group. -/
def mmaGroupA (t : MmaType) : Nat := mmaNa t + mmaScaleRegs t
def mmaGroupB (t : MmaType) : Nat := mmaNb t + mmaScaleRegs t

/-- An element times its scale, formed exactly (R67, R68). -/
def mmaValue (t : MmaType) (elem scale : Nat) : Val :=
  let v := decodeFp (mmaFmt t) elem
  match mmaScaling t with
  | .none => v
  | .mx => mxScaled v scale
  | .s8 => s8Scaled v scale

/-- Element n of packed elements of a type. -/
def packedElem (t : MmaType) (x n : Nat) : Nat := (x / 2 ^ (mmaWidth t * n)) % 2 ^ mmaWidth t

/-! ## Operands in registers (R161, R162) -/

/-- One part of an operand: its scaled element at (row, k) for A and at (k, column) for B. -/
abbrev MmaPart := Nat → Nat → Val

/-- A part of A in registers from `r`. -/
def partRegA (t : MmaType) (tm : Team) (r : Nat) : MmaPart := fun i k =>
  mmaValue t (packedElem t ((tm.thread i).vNat r (mmaNa t)) k)
    (((tm.thread i).v32 (r + mmaNa t)).toNat / 2 ^ (8 * scaleBlock t k) % 256)

/-- A part of B in registers from `r`, the words read through `word lane register`. -/
def partRegB (t : MmaType) (word : Nat → Nat → BitVec 32) (r : Nat) : MmaPart := fun k n =>
  let per := mmaNb t * 32 / mmaWidth t
  let e := 16 * k + n
  let regs := (upFrom 0 (mmaNb t)).foldl (fun acc j => acc + (word (e / per) (r + j)).toNat * 2 ^ (32 * j)) 0
  mmaValue t (packedElem t regs (e % per)) ((word (16 * scaleBlock t k + n) (r + mmaNb t)).toNat % 256)

/-- A register word of a lane as the matrix unit reads it for B: a register of a lane that does not issue for which a result is
pending gives its old content or, once that is formed, its new content (R162; DESIGN CHOICE, log 15). -/
def bWord (s : State) (g : Group) (t : Team) (l r : Nat) : BitVec 32 :=
  let th := t.thread l
  let new := (th.outs.filter Out.ready).flatMap fun o => o.regs.filter fun x => x.1 == r
  match (if inMask g.lanes l then [] else new) with
  | x :: _ => if Config.takesNew s.draws l r then x.2 else th.v32 r
  | [] => th.v32 r

/-! ## Operands in scratch (R163, R164) -/

/-- A scratch descriptor pair. -/
structure MmaDesc where
  base : Nat
  rowp : Nat
  rot : Nat
  reserved : Nat
  tilep : Nat
  deriving DecidableEq, Repr

def mmaDesc (t : Team) (x : SReg) : MmaDesc :=
  let lo := t.sreg x.toNat
  { base := field lo 0 24, rowp := field lo 24 20, rot := field lo 44 3, reserved := field lo 47 17,
    tilep := field (t.sreg (x.toNat + 1)) 0 32 }

/-- Number of tiles of an operand. -/
def mmaTiles (t : MmaType) (order : Nat) : Nat := (1 + mmaScaleRegs t) * (order + 1)
/-- Address of a tile. -/
def MmaDesc.tile (d : MmaDesc) (n : Nat) : Nat := d.base + n * d.tilep
/-- Bytes of a row of an element tile, rows, and bytes of a scale tile. -/
def mmaRowBytes (t : MmaType) (isA : Bool) : Nat := if isA then 4 * mmaNa t else 2 * mmaWidth t
def mmaRows (t : MmaType) (isA : Bool) : Nat := if isA then 64 else mmaK t
def mmaScaleBytes (t : MmaType) (isA : Bool) : Nat := if isA then 256 else 16 * scaleBlocks t

/-- The byte spans of tile n: offset and length. -/
def MmaDesc.spans (d : MmaDesc) (t : MmaType) (isA : Bool) (n : Nat) : List (Nat × Nat) :=
  if mmaScaleRegs t == 1 && n % 2 == 1 then [(d.tile n, mmaScaleBytes t isA)]
  else (upFrom 0 (mmaRows t isA)).map fun r => (d.tile n + r * d.rowp, mmaRowBytes t isA)
/-- The whole footprint. -/
def MmaDesc.footprint (d : MmaDesc) (t : MmaType) (isA : Bool) (order : Nat) : List (Nat × Nat) :=
  ((upFrom 0 (mmaTiles t order)).map fun n => d.spans t isA n).flatten

/-- The checks of R164: MISALIGN, NORANGE, or none. -/
def MmaDesc.fault (d : MmaDesc) (w : Wg) (t : MmaType) (isA : Bool) (order : Nat) : Option Nat :=
  if d.base % 16 != 0 || d.rowp % 16 != 0 || (decide (1 < mmaTiles t order) && d.tilep % 16 != 0) then some 0x06
  else if d.reserved != 0 || d.rot != w.span
    || (d.footprint t isA order).any (fun x => decide (w.scratchSize < x.1 + x.2))
    || (d.footprint t isA order).any (fun x => !w.inScratch x.1 x.2) then some 0x07
  else none

/-- The part whose element tile is number n (the scale tile follows it). -/
def MmaDesc.part (d : MmaDesc) (w : Wg) (t : MmaType) (isA : Bool) (n : Nat) : MmaPart := fun i k =>
  let elem := packedElem t (readLE w.scratch (d.tile n + i * d.rowp) (mmaRowBytes t isA)) k
  let at_ := if isA then d.tile (n + 1) + 4 * i + scaleBlock t k else d.tile (n + 1) + 16 * scaleBlock t i + k
  mmaValue t elem (spGet w.scratch at_).toNat

/-! ## Operands of either kind -/

/-- Where an operand lies. -/
inductive MmaSrc where
  | regs (v : VReg)
  | scratch (x : SReg)
  deriving DecidableEq, Repr

/-- Registers an operand group covers. -/
def MmaSrc.group (a : MmaSrc) (n order : Nat) : List Nat :=
  match a with
  | .regs v => vregs v (n * (order + 1))
  | .scratch _ => []
/-- The fault an operand raises at issue. -/
def MmaSrc.fault (a : MmaSrc) (w : Wg) (tm : Team) (t : MmaType) (isA : Bool) (order : Nat) : Option Nat :=
  match a with
  | .regs _ => none
  | .scratch x => (mmaDesc tm x).fault w t isA order
/-- Would the operand consume poisoned scratch (R237). -/
def MmaSrc.poisoned (a : MmaSrc) (w : Wg) (tm : Team) (t : MmaType) (isA : Bool) (order : Nat) : Bool :=
  match a with
  | .regs _ => false
  | .scratch x => ((mmaDesc tm x).footprint t isA order).any fun y => w.scratchPoisoned y.1 y.2
/-- Part p of A: 0 the values, 1 the coefficients. -/
def MmaSrc.partA (a : MmaSrc) (w : Wg) (tm : Team) (t : MmaType) (p : Nat) : MmaPart :=
  match a with
  | .regs v => partRegA t tm (v.toNat + p * mmaGroupA t)
  | .scratch x => (mmaDesc tm x).part w t true (p * (1 + mmaScaleRegs t))
/-- Part p of B. -/
def MmaSrc.partB (b : MmaSrc) (w : Wg) (tm : Team) (word : Nat → Nat → BitVec 32) (t : MmaType) (p : Nat) : MmaPart :=
  match b with
  | .regs v => partRegB t word (v.toNat + p * mmaGroupB t)
  | .scratch x => (mmaDesc tm x).part w t false (p * (1 + mmaScaleRegs t))

/-! ## The sum (R165, R166) -/

/-- The products of sum block b for a row and a column. -/
def blockTerms (t : MmaType) (a b : MmaPart) (i n blk : Nat) : List Term :=
  (upFrom (blk * mmaBlock t) (mmaBlock t)).map fun k => mulTerm (a i k) (b k n)

/-- MMA_Row of R165 over the blocks' terms. -/
def mmaSum (t : MmaType) (terms : Nat → List Term) (c : Option (BitVec 32)) : Fres :=
  let r := (upFrom 0 (mmaK t / mmaBlock t)).foldl (fun (acc : Option Nat × Flags5) blk =>
    let ts := match acc.1 with
      | some x => terms blk ++ [(decodeFp .fp32 x).term]
      | none => terms blk
    let f := fusedSum .fp32 ts
    (some f.bits, acc.2 ||| f.flags)) (c.map BitVec.toNat, 0)
  ⟨r.1.getD 0, r.2⟩

/-- What lane i receives at order 0: 16 registers, and the flags. -/
def mmaRow0 (t : MmaType) (a b : MmaPart) (z : Bool) (d i : Nat) (th : Thread) : LaneRes :=
  let rs := (upFrom 0 16).map fun n =>
    mmaSum t (blockTerms t a b i n) (if z then none else some (th.v32 (d + n)))
  { regs := regsFrom d (rs.map fun r => BitVec.ofNat 32 r.bits), flags := jstMerged rs }

/-- What lane i receives at order 1: C_0 and C_1 of the columns, interleaved. -/
def mmaRow1 (t : MmaType) (a0 a1 b0 b1 : MmaPart) (z : Bool) (d i : Nat) (th : Thread) : LaneRes :=
  let acc (n : Nat) : Option (BitVec 32) := if z then none else some (th.v32 (d + n))
  let c0 := (upFrom 0 16).map fun n => mmaSum t (blockTerms t a0 b0 i n) (acc (2 * n))
  let c1 := (upFrom 0 16).map fun n =>
    mmaSum t (fun blk => blockTerms t a0 b1 i n blk ++ blockTerms t a1 b0 i n blk) (acc (2 * n + 1))
  let word (rs : List Fres) (n : Nat) : BitVec 32 := BitVec.ofNat 32 (listGet ⟨0, 0⟩ rs n).bits
  { regs := ((upFrom 0 16).map fun n => [(d + 2 * n, word c0 n), (d + 2 * n + 1, word c1 n)]).flatten,
    flags := jstMerged c0 ||| (jstMerged c1 <<< 5) }

/-! ## The token (R168 to R170, R299, R300) -/

/-- Does a lease hold a token at a cluster. -/
def Lease.at (x : Lease) (cl : Nat) : Bool := x.captured.any fun c => c.1 == cl
/-- Can an MMA of a launch issue at a cluster: it holds a token there, or one is free to be captured. -/
def Lease.ready (x : Lease) (cl : Nat) : Bool := x.at cl || decide (x.captured.length < x.held)
/-- The issue of an MMA captures a token, or extends the burst. -/
def Lease.take (x : Lease) (cl now : Nat) : Lease :=
  if x.at cl then { x with captured := mapWhere (fun c => c.1 == cl) (fun c => (c.1, c.2.1, now)) x.captured }
  else { x with captured := x.captured ++ [(cl, now, now)] }
/-- An MMA without a token asks for a lease when the launch holds none (R170). -/
def Lease.ask (x : Lease) (now : Nat) : Lease :=
  if x.held == 0 && !x.waiting then { x with asked := if x.asked == 0 then 1 else x.asked, waiting := true, since := now }
  else x

/-- Does an MMA of a workgroup stall for a token. -/
def State.mmaStalls (s : State) (w : Wg) : Bool := !(s.record w.launch).lease.ready (clusterOf w.core)
/-- The request of a stalled MMA. -/
def State.askLease (s : State) (w : Wg) : State :=
  (s.modRec w.launch fun r => { r with lease := r.lease.ask s.time }).seeLease w.ctx

/-! ## MMA -/

/-- Jet part 1 exists at order 1 only. -/
def orderParts (order : Nat) : Nat := if order == 0 then 0 else 1

/-- The results of the issuing lanes become pending (R158, R165, R168). -/
def State.mmaRun (s : State) (d : VReg) (a b : MmaSrc) (t : MmaType) (z : Bool) (order : Nat)
    (g : Group) (w : Wg) (tm : Team) : State :=
  let word := bWord s g tm
  let pA (p : Nat) : MmaPart := a.partA w tm t p
  let pB (p : Nat) : MmaPart := b.partB w tm word t p
  let row (i : Nat) (th : Thread) : LaneRes :=
    if order == 0 then mmaRow0 t (pA 0) (pB 0) z d.toNat i th
    else mmaRow1 t (pA 0) (pA 1) (pB 0) (pB 1) z d.toNat i th
  let s1 := (s.drawn).modRec w.launch fun r => { r with lease := r.lease.take (clusterOf w.core) s.time }
  let s2 := (s1.countEvent (s.ctx w.ctx).part 3 1).addCounter (s.ctx w.ctx).part 2 (if order == 0 then 8 else 24)
  s2.modLanes g.wg g.team g.lanes fun i th => th.finish g.id true (row i th)

/-- The issuing lanes to which an MMA would bring a poisoned word (R237): each reads its own registers of A and D, and all read the
B registers of every lane (R161, R162). -/
def mmaPoisoned (tm : Team) (ls a b : List Nat) : List Nat :=
  if consumesPoison tm (upFrom 0 tm.threads.length) b then ls else poisonedLanes tm ls a

/-- Issue of an MMA (R158, R160, R164, R168): without a token it stalls, before any fault of its operands (R170). UNHELD is
raised before MISALIGN of either operand, and that before NORANGE, with no access in its record (DESIGN CHOICE, log 78). -/
def State.mmaIssue (s : State) (d : VReg) (a b : MmaSrc) (t : MmaType) (z : Bool) (g : Group) (w : Wg) (tm : Team) :
    State :=
  let o := orderParts tm.jord.order
  let dGroup := vregs d (16 * (o + 1))
  let aGroup := a.group (mmaGroupA t) o
  let bGroup := b.group (mmaGroupB t) o
  let ls := g.live tm
  let hit := mmaPoisoned tm ls (aGroup ++ if z then [] else dGroup) bGroup
  if 1 < tm.jord.order then s.raiseEach g.wg g.team ls (plainTrap 0x04)
  else if s.mmaStalls w then s.askLease w
  else if ((dGroup ++ aGroup ++ bGroup).any fun r => decide (32 ≤ r)) && !tm.ext then
    s.raiseEach g.wg g.team ls (plainTrap 0x05)
  else
    match a.fault w tm t true o, b.fault w tm t false o with
    | some 0x06, _ => s.raiseEach g.wg g.team ls (plainTrap 0x06)
    | _, some 0x06 => s.raiseEach g.wg g.team ls (plainTrap 0x06)
    | some c, _ => s.raiseEach g.wg g.team ls (plainTrap c)
    | none, some c => s.raiseEach g.wg g.team ls (plainTrap c)
    | none, none =>
      if !hit.isEmpty then
        let s1 := s.registerError w g.team hit 0 0 g.pc.toNat
        s1.onwards g hit (s1.mmaRun d a b t z o)
      else if a.poisoned w tm t true o || b.poisoned w tm t false o then s.registerError w g.team ls 3 0 g.pc.toNat
      else s.mmaRun d a b t z o g w tm

/-- MMA.RR. -/
def execMmaRr (d a b : VReg) (t : MmaType) (z : Bool) (s : State) : Result :=
  s.withGroup (s.mmaIssue d (.regs a) (.regs b) t z)
/-- MMA.RS. -/
def execMmaRs (d a : VReg) (b : SReg) (t : MmaType) (z : Bool) (s : State) : Result :=
  s.withGroup (s.mmaIssue d (.regs a) (.scratch b) t z)
/-- MMA.SS. -/
def execMmaSs (d : VReg) (a b : SReg) (t : MmaType) (z : Bool) (s : State) : Result :=
  s.withGroup (s.mmaIssue d (.scratch a) (.scratch b) t z)

/-! ## MACC (R172) -/

/-- The 16 registers of D. -/
def LaneEnv.row (e : LaneEnv) (d : VReg) : List (BitVec 32) := (upFrom 0 16).map fun n => e.own.v32 (d.toNat + n)

/-- A MACC that reads D and writes registers. -/
def maccOp (d : VReg) (writes : List Nat) (run : LaneEnv → LaneRes) : LaneOp :=
  { srcs := [], reads := vregs d 16, writes := writes, pending := false, run := run }

/-- macc.zero. -/
def opMaccZero (d : VReg) : LaneOp :=
  { srcs := [], reads := [], writes := vregs d 16, pending := false,
    run := fun _ => { regs := regsFrom d.toNat ((upFrom 0 16).map fun _ => 0) } }
def execMaccZero (d : VReg) (s : State) : Result := s.lane fun _ => opMaccZero d

/-- Results of narrow width packed into words, `per` to a word. -/
def packResults (width per words : Nat) (rs : List Fres) : List (BitVec 32) :=
  (upFrom 0 words).map fun j =>
    BitVec.ofNat 32 ((upFrom 0 per).foldl (fun acc h => acc + (listGet ⟨0, 0⟩ rs (per * j + h)).bits * 2 ^ (width * h)) 0)

/-- macc.bf16. -/
def opMaccBf16 (d a : VReg) : LaneOp := maccOp d (vregs a 8) fun e =>
  let rs := (e.row d).map fun x => packTo .bf16 x
  { regs := regsFrom a.toNat (packResults 16 2 8 rs), flags := jstMerged rs }
def execMaccBf16 (d a : VReg) (s : State) : Result := s.lane fun _ => opMaccBf16 d a
/-- macc.e4m3. -/
def opMaccE4m3 (d a : VReg) : LaneOp := maccOp d (vregs a 4) fun e =>
  let rs := (e.row d).map fun x => packSat .e4m3 x
  { regs := regsFrom a.toNat (packResults 8 4 4 rs), flags := jstMerged rs }
def execMaccE4m3 (d a : VReg) (s : State) : Result := s.lane fun _ => opMaccE4m3 d a
/-- macc.scale. -/
def opMaccScale (d : VReg) (b : SReg) : LaneOp := maccOp d (vregs d 16) fun e =>
  let k := val32 ((e.team.sreg b.toNat).setWidth 32)
  let rs := (e.row d).map fun x => fusedSum .fp32 [mulTerm (val32 x) k]
  { regs := regsFrom d.toNat (rs.map fun r => BitVec.ofNat 32 r.bits), flags := jstMerged rs }
def execMaccScale (d : VReg) (b : SReg) (s : State) : Result := s.lane fun _ => opMaccScale d b

end Sys2Proof.Machine
end

