-- ==== Sys2Proof/Machine/Rendezvous.lean ====
section
/-!
DEFINITION. Which operation each register-only lane instruction and each collective is: what RENDEZVOUS_COMPLETE executes in
the members that stand at one (R36, R115), and what the translator asks for register use (R29). Every other instruction
has none.
-/
namespace Sys2Proof.Machine

/-- The lane operation of an instruction at jet order k. -/
def laneOpOf (k : Nat) (i : Instr) : Option LaneOp :=
  match i with
  | .iadd d a b => some (opIadd d a b)
  | .isub d a b => some (opIsub d a b)
  | .iminS d a b => some (opIminS d a b)
  | .imaxS d a b => some (opImaxS d a b)
  | .iminN d a b => some (opIminN d a b)
  | .imaxN d a b => some (opImaxN d a b)
  | .iabsd d a b => some (opIabsd d a b)
  | .ipopc d a => some (opIpopc d a)
  | .iand d a b => some (opIand d a b)
  | .ior d a b => some (opIor d a b)
  | .ixor d a b => some (opIxor d a b)
  | .iandn d a b => some (opIandn d a b)
  | .ishl d a b => some (opIshl d a b)
  | .ishr d a b => some (opIshr d a b)
  | .isar d a b => some (opIsar d a b)
  | .irot d a b => some (opIrot d a b)
  | .imul d a b => some (opImul d a b)
  | .imulhiS d a b => some (opImulhiS d a b)
  | .imulhiN d a b => some (opImulhiN d a b)
  | .imad d a b => some (opImad d a b)
  | .iclz d a => some (opIclz d a)
  | .ibrev d a => some (opIbrev d a)
  | .ibfx d a b => some (opIbfx d a b)
  | .ibfi d a b => some (opIbfi d a b)
  | .icmpSEq p a b => some (opIcmpSEq p a b)
  | .icmpSNe p a b => some (opIcmpSNe p a b)
  | .icmpSLt p a b => some (opIcmpSLt p a b)
  | .icmpSLe p a b => some (opIcmpSLe p a b)
  | .icmpNEq p a b => some (opIcmpNEq p a b)
  | .icmpNNe p a b => some (opIcmpNNe p a b)
  | .icmpNLt p a b => some (opIcmpNLt p a b)
  | .icmpNLe p a b => some (opIcmpNLe p a b)
  | .psub d a b g => some (opPsub d a b g)
  | .padd d a b g => some (opPadd d a b g)
  | .pmov d a b g => some (opPmov d a b g)
  | .pand d a b => some (opPred d a b fun x y => x && y)
  | .por d a b => some (opPred d a b fun x y => x || y)
  | .pxor d a b => some (opPred d a b fun x y => x != y)
  | .pandn d a b => some (opPred d a b fun x y => x && !y)
  | .iaddi d a i => some (opIaddi d a i)
  | .iandi d a i => some (opIandi d a i)
  | .ishli d a n => some (opIshli d a n)
  | .ishri d a n => some (opIshri d a n)
  | .isari d a n => some (opIsari d a n)
  | .iroti d a n => some (opIroti d a n)
  | .icmpi c p a i => some (opIcmpi c p a i)
  | .movi d i => some (opConst d (fun _ => i.signExtend 32) false)
  | .movhi d i => some (opConst d (fun x => movhiValue x i) true)
  | .srd d i => some (opSrd d i)
  | .tidx d a b => some (opTidx d a b)
  | .fadd d a b => some (opFadd k d a b)
  | .fsub d a b => some (opFsub k d a b)
  | .fmul d a b => some (opFmul k d a b)
  | .ffma d a b => some (opFfma k d a b)
  | .fmin d a b => some (opFmin k d a b)
  | .fmax d a b => some (opFmax k d a b)
  | .ffmsub d a b => some (opFfmsub k d a b)
  | .ffnma d a b => some (opFfnma k d a b)
  | .fabs d a => some (opFabs k d a)
  | .fneg d a => some (opFneg k d a)
  | .fcpsgn d a b => some (opFcpsgn k d a b)
  | .fnabs d a => some (opFnabs k d a)
  | .fcmpEq p a b => some (opFcmpEq p a b)
  | .fcmpLt p a b => some (opFcmpLt p a b)
  | .fcmpLe p a b => some (opFcmpLe p a b)
  | .fcmpUnord p a b => some (opFcmpUnord p a b)
  | .fdiv d a b => some (opFdiv k d a b)
  | .fsqrt d a => some (opFsqrt k d a)
  | .frcp d a => some (opFrcp k d a)
  | .frsq d a => some (opFrsq k d a)
  | .fexp2 d a => some (opFexp2 k d a)
  | .flog2 d a => some (opFlog2 k d a)
  | .ftanh d a => some (opFtanh k d a)
  | .fsigm d a => some (opFsigm k d a)
  | .fsin d a => some (opFsin k d a)
  | .fcos d a => some (opFcos k d a)
  | .fsint d a => some (opFsint k d a)
  | .fcost d a => some (opFcost k d a)
  | .frndRne d a => some (opFrndRne k d a)
  | .frndRtz d a => some (opFrndRtz k d a)
  | .frndFloor d a => some (opFrndFloor k d a)
  | .frndCeil d a => some (opFrndCeil k d a)
  | .cvtF32I32 d a => some (opCvtF32I32 d a)
  | .cvtF32N32 d a => some (opCvtF32N32 d a)
  | .cvtI32F32 d a => some (opCvtI32F32 d a)
  | .cvtN32F32 d a => some (opCvtN32F32 d a)
  | .unpkBf16lo d a => some (opUnpkBf16lo d a)
  | .unpkBf16hi d a => some (opUnpkBf16hi d a)
  | .packBf16 d a b => some (opPackBf16 d a b)
  | .packF16 d a b => some (opPackF16 d a b)
  | .unpkE4m3 d a => some (opUnpkE4m3 d a)
  | .unpkE5m2 d a => some (opUnpkE5m2 d a)
  | .pkE4m3 d a => some (pack4 d a .e4m3)
  | .pkE5m2 d a => some (pack4 d a .e5m2)
  | .jseedSeed d a b => some (opJseedSeed k d a b)
  | .jseedConst d a => some (opJseedConst k d a)
  | .jseedCopy d a => some (opJseedCopy k d a)
  | .jget d a c => some (opJget k d a c)
  | .jput d a c => some (opJput k d a c)
  | .jflgRd d c => some (jflag d c true false)
  | .jflgRc d c => some (jflag d c true true)
  | .jflgClr d c => some (jflag d c false true)
  | .loop a c i => some (opLoop a c i)
  | .maccZero d => some (opMaccZero d)
  | .maccBf16 d a => some (opMaccBf16 d a)
  | .maccE4m3 d a => some (opMaccE4m3 d a)
  | .maccScale d b => some (opMaccScale d b)
  | _ => none

/-- The collective an instruction is. -/
def collectiveOf (i : Instr) : Option Collective :=
  match i with
  | .ballot d p => some (colBallot d p)
  | .any d p => some (colAny d p)
  | .all d p => some (colAll d p)
  | .count d p => some (colCount d p)
  | .reduxIadd d a => some (colReduxIadd d a)
  | .reduxIminS d a => some (colReduxIminS d a)
  | .reduxImaxS d a => some (colReduxImaxS d a)
  | .reduxOr d a => some (colReduxOr d a)
  | .scanIadd d a => some (colScanIadd d a)
  | .scanFadd d a => some (colScanFadd d a)
  | .scanImaxS d a => some (colScanImaxS d a)
  | .scanIaddExcl d a => some (colScanIaddExcl d a)
  | _ => none

end Sys2Proof.Machine
end

