-- ==== Sys2Proof/Machine/Scalar.lean ====
section
/-!
DEFINITION. Uniform instructions on registers and on team, launch and workgroup objects: scalar arithmetic (R177 to R180),
uniform memory access (R184, R185), XPAT and JORD (R186, R77), units and shapes (R187, R188), extended blocks (R189),
barriers and shared registers (R190, R191), traps (R202, R203).
-/
namespace Sys2Proof.Machine

/-! ## Shapes of a uniform instruction -/

/-- One short-latency result; the group goes on (R174). -/
def State.scalar (s : State) (d : SReg) (f : Team → BitVec 64) : Result :=
  s.withGroup fun g _ t => (s.modTeam g.wg g.team fun x => x.setS d.toNat (f t)).goOn g
def State.scalar1 (s : State) (d a : SReg) (f : BitVec 64 → BitVec 64) : Result := s.scalar d fun t => f (t.sreg a.toNat)
def State.scalar2 (s : State) (d a b : SReg) (f : BitVec 64 → BitVec 64 → BitVec 64) : Result :=
  s.scalar d fun t => f (t.sreg a.toNat) (t.sreg b.toNat)

/-- A status of an instruction that leaves LSTAT unchanged (R175, R22); the group goes on. -/
def State.answer (s : State) (g : Group) (d : SReg) (st : BitVec 64) : State :=
  (s.modTeam g.wg g.team fun x => x.setS d.toNat st).goOn g

/-! ## SALU (R177) -/

def execSadd (d a b : SReg) (s : State) : Result := s.scalar2 d a b fun x y => x + y
def execSsub (d a b : SReg) (s : State) : Result := s.scalar2 d a b fun x y => x - y
def execSmul (d a b : SReg) (s : State) : Result := s.scalar2 d a b fun x y => x * y
def execSmulhiS (d a b : SReg) (s : State) : Result :=
  s.scalar2 d a b fun x y => BitVec.ofInt 64 (x.toInt * y.toInt / 2 ^ 64)
def execSmulhiN (d a b : SReg) (s : State) : Result :=
  s.scalar2 d a b fun x y => BitVec.ofNat 64 (x.toNat * y.toNat / 2 ^ 64)
def execSand (d a b : SReg) (s : State) : Result := s.scalar2 d a b fun x y => x &&& y
def execSor (d a b : SReg) (s : State) : Result := s.scalar2 d a b fun x y => x ||| y
def execSxor (d a b : SReg) (s : State) : Result := s.scalar2 d a b fun x y => x ^^^ y
def execSandn (d a b : SReg) (s : State) : Result := s.scalar2 d a b fun x y => x &&& ~~~y
/-- Shift count b[5:0]. -/
def shiftCount (y : BitVec 64) : Nat := y.toNat % 64
def execSshlv (d a b : SReg) (s : State) : Result := s.scalar2 d a b fun x y => x <<< shiftCount y
def execSshrv (d a b : SReg) (s : State) : Result := s.scalar2 d a b fun x y => x >>> shiftCount y
def execSsarv (d a b : SReg) (s : State) : Result := s.scalar2 d a b fun x y => x.sshiftRight (shiftCount y)
def execSrotv (d a b : SReg) (s : State) : Result := s.scalar2 d a b fun x y => x.rotateLeft (shiftCount y)
def execSminS (d a b : SReg) (s : State) : Result := s.scalar2 d a b fun x y => if y.slt x then y else x
def execSmaxS (d a b : SReg) (s : State) : Result := s.scalar2 d a b fun x y => if x.slt y then y else x
def execSminN (d a b : SReg) (s : State) : Result := s.scalar2 d a b fun x y => if y.ult x then y else x
def execSmaxN (d a b : SReg) (s : State) : Result := s.scalar2 d a b fun x y => if x.ult y then y else x
def execSclz (d a : SReg) (s : State) : Result := s.scalar1 d a fun x => BitVec.ofNat 64 (leadingZeros x)
def execSpopc (d a : SReg) (s : State) : Result := s.scalar1 d a fun x => BitVec.ofNat 64 (popCount x)
def execSctz (d a : SReg) (s : State) : Result := s.scalar1 d a fun x => BitVec.ofNat 64 (trailingZeros x)
def execSbrev (d a : SReg) (s : State) : Result := s.scalar1 d a fun x => reverseBits x
def execSmov (d a : SReg) (s : State) : Result := s.scalar1 d a fun x => x

/-- SCMP (R178). -/
def execScmp (d a b : SReg) (c : Cond) (s : State) : Result :=
  s.scalar2 d a b fun x y => if condHolds c x y then 1 else 0

/-! ## Immediates (R179, R39) -/

def execSaddi (d a : SReg) (i : BitVec 12) (s : State) : Result := s.scalar1 d a fun x => x + i.signExtend 64
def execSandi (d a : SReg) (i : BitVec 12) (s : State) : Result := s.scalar1 d a fun x => x &&& i.setWidth 64
def execSori (d a : SReg) (i : BitVec 12) (s : State) : Result := s.scalar1 d a fun x => x ||| i.setWidth 64
def execSshli (d a : SReg) (n : BitVec 6) (s : State) : Result := s.scalar1 d a fun x => x <<< n.toNat
def execSshri (d a : SReg) (n : BitVec 6) (s : State) : Result := s.scalar1 d a fun x => x >>> n.toNat
def execSsari (d a : SReg) (n : BitVec 6) (s : State) : Result := s.scalar1 d a fun x => x.sshiftRight n.toNat
def execSroti (d a : SReg) (n : BitVec 6) (s : State) : Result := s.scalar1 d a fun x => x.rotateLeft n.toNat
def execSmovi (d : SReg) (i : BitVec 18) (s : State) : Result := s.scalar d fun _ => i.signExtend 64
/-- SLIT: 18 bits placed at a bit of sD, the other bits keep their value. -/
def slitAt (x : BitVec 64) (i : BitVec 18) (bit : Nat) : BitVec 64 :=
  mergeBits (onesAt 64 bit 18) x ((i.setWidth 64) <<< bit)
def execSlitA (d : SReg) (i : BitVec 18) (s : State) : Result := s.scalar1 d d fun x => slitAt x i 14
def execSlitB (d : SReg) (i : BitVec 18) (s : State) : Result := s.scalar1 d d fun x => slitAt x i 32
def execSlitC (d : SReg) (i : BitVec 18) (s : State) : Result := s.scalar1 d d fun x => slitAt x i 46

/-! ## UBR (R180) -/

/-- Does a condition hold of sA read as i64. -/
def ubrTaken (c : UbrCond) (x : BitVec 64) : Bool :=
  match c with
  | .always => true
  | .zero => x == 0
  | .nonzero => x != 0
  | .negative => x.slt 0
  | .nonNegative => !x.slt 0
  | .positive => (0#64).slt x
  | .nonPositive => !(0#64).slt x
def execUbr (a : SReg) (c : UbrCond) (i : BitVec 15) (s : State) : Result :=
  s.withGroup fun g _ t =>
    if ubrTaken c (t.sreg a.toNat) then s.modLanes g.wg g.team g.lanes fun _ th => th.goTo (branchTarget th.pc i)
    else s.goOn g

/-! ## Uniform memory access (R184, R185) -/

/-- SLD. -/
def execSld (d a : SReg) (i : BitVec 12) (s : State) : Result :=
  s.withGroup fun g w t =>
    s.requestUniform g w t { kind := .load, bytes := 8, dest := d.toNat } (t.sreg a.toNat + i.signExtend 64).toNat 0 0
/-- SST: the offset counts doublewords. -/
def execSst (a b : SReg) (o : BitVec 9) (c : Colour) (s : State) : Result :=
  s.withGroup fun g w t =>
    s.requestUniform g w t { kind := .store, bytes := 8, dest := 0, colour := c.toNat }
      (t.sreg a.toNat + 8 * o.signExtend 64).toNat (t.sreg b.toNat).toNat 0
/-- SATOM: the operand is sD, for compare-and-swap sB is compared and sD is new. -/
def State.satom (s : State) (d a : SReg) (o : Order) (op : AtomOp) (x n : Team → BitVec 64) : Result :=
  s.withGroup fun g w t =>
    s.requestUniform g w t { kind := .atomic op, bytes := 8, dest := d.toNat, order := o } (t.sreg a.toNat).toNat
      (x t).toNat (n t).toNat
/-- A one-operand SATOM. -/
def State.satom1 (s : State) (d a : SReg) (o : Order) (op : AtomOp) : Result :=
  s.satom d a o op (fun t => t.sreg d.toNat) fun _ => 0
def execSatomAdd (d a : SReg) (o : Order) (s : State) : Result := s.satom1 d a o .add
def execSatomMinS (d a : SReg) (o : Order) (s : State) : Result := s.satom1 d a o .minS
def execSatomMaxS (d a : SReg) (o : Order) (s : State) : Result := s.satom1 d a o .maxS
def execSatomMinN (d a : SReg) (o : Order) (s : State) : Result := s.satom1 d a o .minN
def execSatomMaxN (d a : SReg) (o : Order) (s : State) : Result := s.satom1 d a o .maxN
def execSatomAnd (d a : SReg) (o : Order) (s : State) : Result := s.satom1 d a o .and
def execSatomOr (d a : SReg) (o : Order) (s : State) : Result := s.satom1 d a o .or
def execSatomXor (d a : SReg) (o : Order) (s : State) : Result := s.satom1 d a o .xor
def execSatomExch (d a : SReg) (o : Order) (s : State) : Result := s.satom1 d a o .exch
def execSatomCas (d a b : SReg) (o : Order) (s : State) : Result :=
  s.satom d a o .cas (fun t => t.sreg b.toNat) fun t => t.sreg d.toNat

/-! ## XPAT and JORD -/

/-- XPAT (R186). -/
def execXpat (a : SReg) (s : State) : Result :=
  s.withGroup fun g _ t =>
    (s.modTeam g.wg g.team fun x => { x with xpat := ((t.sreg a.toNat).setWidth 22).setWidth 32 }).goOn g
/-- JORD (R77): only the order changes. -/
def execJord (j : JetOrder) (s : State) : Result :=
  s.withGroup fun g _ _ =>
    -- the bodies of the translation that issues the JORD decide where the group goes on
    (s.goOn g).modTeam g.wg g.team fun x => { x with jord := j }

/-! ## Units (R187) -/

/-- What TFETCH answers: the unit or an end code, the count of TFETCH.B, and the dispenser after it. -/
def dispense (r : Rec) (n : Nat) : BitVec 64 × BitVec 64 × Nat :=
  if r.cancelled then (0xFFFFFFFFFFFFFFFE, 0, r.next)
  else if r.units ≤ r.next then (0xFFFFFFFFFFFFFFFF, 0, r.next)
  else
    let t := min n (r.units - r.next)
    (BitVec.ofNat 64 r.next, BitVec.ofNat 64 t, r.next + t)

/-- TFETCH. -/
def execTfetch (d : SReg) (s : State) : Result :=
  s.withGroup fun g w _ =>
    let x := dispense (s.record w.launch) 1
    (s.modRec w.launch fun r => { r with next := x.2.2 }).pendUniform g [(d.toNat, x.1)]
/-- TFETCH.B. -/
def execTfetchB (d a : SReg) (s : State) : Result :=
  s.withGroup fun g w t =>
    let x := dispense (s.record w.launch) (field (t.sreg a.toNat) 0 32)
    (s.modRec w.launch fun r => { r with next := x.2.2 }).pendUniform g [(d.toNat, x.1), (d.toNat + 1, x.2.1)]
/-- TFETCH.R. -/
def execTfetchR (d : SReg) (s : State) : Result :=
  s.withGroup fun g w _ =>
    let r := s.record w.launch
    s.pendUniform g [(d.toNat, if r.cancelled then 0 else BitVec.ofNat 64 (r.units - r.next))]

/-- SHPSET (R188): the entry is written when the access commits; until then the group stays. -/
def execShpset (a : SReg) (e : BitVec 5) (s : State) : Result :=
  s.withGroup fun g w t =>
    s.requestUniform g w t { kind := .shape e.toNat, bytes := 32, dest := 0 } (t.sreg a.toNat).toNat 0 0

/-! ## Extended blocks (R9 to R12, R189) -/

/-- Extended blocks of a core outside the urgent partition that a team holds or has reserved. -/
def Wg.blocks (w : Wg) : Nat :=
  countWhere (fun t => t.ext) w.teams + countWhere (fun t => t.extReserved) w.teams
/-- Extended blocks that a core has for the workgroups of a list: 12, or in the urgent partition of four blocks two where no more
than two teams have base blocks there, else none (R9). -/
def poolSize (urgent : Bool) (here : List Wg) : Nat :=
  if !urgent then 12 else if here.foldl (fun acc y => acc + y.teams.length) 0 ≤ 2 then 2 else 0
/-- Those not held or reserved. -/
def poolLeft (urgent : Bool) (here : List Wg) : Nat := poolSize urgent here - here.foldl (fun acc y => acc + y.blocks) 0
/-- Blocks of the pool that a workgroup's core has left. -/
def State.poolFree (s : State) (w : Wg) : Nat :=
  poolLeft w.urgent (s.wgs.filter fun y => y.die == w.die && y.core == w.core && y.urgent == w.urgent)
/-- Does any team of the core wait for a block before (R12). -/
def State.blockQueue (s : State) (w : Wg) : List Nat :=
  ((s.wgs.filter fun y => y.die == w.die && y.core == w.core && y.urgent == w.urgent).map fun y =>
    (y.teams.map fun t => t.blockTurn).filter fun n => n != 0).flatten

/-- The team takes a block, zeroed (R11). -/
def Team.takeBlock (t : Team) : Team :=
  { t.dropBlock with ext := true, extReserved := false, blockTurn := 0 }

/-- Can the team have a block at once: a reserved one, or a pool block ahead of which no team waits. -/
def State.blockNow (s : State) (w : Wg) (t : Team) : Bool :=
  t.extReserved || (decide (0 < s.poolFree w) && (s.blockQueue w).all fun n => t.blockTurn != 0 && decide (t.blockTurn ≤ n))

/-- The group waits for a block; the team keeps the place of its first XACQ or XTAKE. -/
def State.awaitBlock (s : State) (g : Group) : State :=
  let s1 := s.modTeam g.wg g.team fun x => { x with blockTurn := if x.blockTurn == 0 then s.nextId else x.blockTurn }
  (s1.numbered).park g (.waiting .block)

/-- Groups of the team that wait for the block it now holds go on: they find it held. -/
def State.wakeBlock (s : State) (u t : Nat) : State :=
  let wake (th : Thread) : Thread := if th.status == .waiting .block then { th with status := .running } else th
  s.modTeam u t fun x => { x with threads := x.threads.map wake }

/-- XACQ. -/
def execXacq (s : State) : Result :=
  s.withGroup fun g w t =>
    if t.ext then s.goOn g
    else if s.blockNow w t then
      ((s.modTeam g.wg g.team Team.takeBlock).goOn g).wakeBlock g.wg g.team
    else s.awaitBlock g
/-- XTAKE: sD := OK, pending unless the block was held already. -/
def execXtake (d : SReg) (s : State) : Result :=
  s.withGroup fun g w t =>
    if t.ext then s.answer g d stOk
    else if s.blockNow w t then
      ((s.modTeam g.wg g.team Team.takeBlock).pendUniform g [(d.toNat, stOk)]).wakeBlock g.wg g.team
    else s.awaitBlock g

/-- Do `n` bytes from a lane register reach v32 to v63. -/
def reachesExtended (dest bytes : Nat) : Bool := decide (32 < dest + (bytes + 3) / 4)
/-- Does an access bring a lane register a result. -/
def AccKind.returns : AccKind → Bool
  | .load => true | .atomic _ => true | .threshold => true | _ => false
/-- Has any thread of the team a result outstanding in v32 to v63. -/
def State.outsExtended (s : State) (u ti : Nat) (t : Team) : Bool :=
  (t.threads.any fun th => th.outs.any fun o => o.regs.any fun r => decide (32 ≤ r.1))
  || (s.waiters.any fun x => x.cell && x.wg == u && x.team == ti && reachesExtended x.dest x.bytes)
  || (s.accs.any fun a => a.wg == u && a.team == ti && a.kind.returns && !a.uniform && reachesExtended a.dest a.bytes)

/-- A team of a workgroup that holds no block and has none reserved receives the block of the lowest team that waits to give it one;
that team's groups go on, those that would have given another block finding none, and what it has lost may be given to it in turn
(R12, R189, R220). -/
def State.serveGive (fuel : Nat) (s : State) (u taker : Nat) : State :=
  match fuel with
  | 0 => s
  | k + 1 =>
    let w := s.wg u
    let gives (t : Team) : Bool := t.threads.any fun th => th.givesTo taker
    if (w.team taker).ext || (w.team taker).extReserved || (w.team taker).ended then s
    else
      match findFirst (fun i => gives (w.team i)) (upFrom 0 w.teams.length) with
      | none => s
      | some i =>
        let on (th : Thread) : Thread :=
          match th.status with
          | .waiting (.give _) => th.goOn
          | _ => th
        let s1 := s.modTeam u i fun t => { t.dropBlock with threads := t.dropBlock.threads.map on }
        (s1.modTeam u taker fun t => { t with extReserved := true }).serveGive k u i

/-- XREL. -/
def execXrel (s : State) : Result :=
  s.withGroup fun g _ t =>
    if !t.ext then s.goOn g
    else if s.outsExtended g.wg g.team t then s.park g (.waiting .release)
    else ((s.modTeam g.wg g.team Team.dropBlock).goOn g).serveGive 16 g.wg g.team
/-- XGIVE. A team without a block does nothing, whatever team it names: the rule gives both that and the NORANGE of a bad team, and no
order of the two (DESIGN CHOICE, log 79). It does not wait for results outstanding in v32 to v63 as XREL does (R189); one that returns later lands in the giver's
v32 to v63 (DESIGN CHOICE, log 79). -/
def execXgive (a : SReg) (s : State) : Result :=
  s.withGroup fun g w t =>
    let taker := field (t.sreg a.toNat) 0 4
    if !t.ext then s.goOn g
    else if decide (w.teams.length ≤ taker) || taker == g.team || (w.team taker).ended then
      s.raiseGroup g.wg g.team g.lanes (plainTrap 0x07 0)
    else if (w.team taker).ext || (w.team taker).extReserved then s.park g (.waiting (.give taker))
    else
      let s1 := (s.modTeam g.wg g.team Team.dropBlock).modTeam g.wg taker fun x => { x with extReserved := true }
      (s1.goOn g).serveGive 16 g.wg g.team

/-! ## Barriers and shared registers -/

/-- BARSET (R190). -/
def execBarset (a : SReg) (i : BitVec 4) (s : State) : Result :=
  s.withGroup fun g _ t =>
    let e := (t.sreg a.toNat).toNat
    if 1024 < e then s.raiseGroup g.wg g.team g.lanes (plainTrap 0x07 0)
    else
      let s1 := s.modWg g.wg fun y => y.modBarrier i.toNat fun x => { x with expected := e }
      let n := ((s1.wg g.wg).barrier i.toNat).count
      let s2 := if e == 0 || e ≤ n then s1.completePhase g.wg i.toNat else s1
      s2.goOn g

/-- GREG (R191): the value sD receives and the shared register's new value; `reads` when it consumes the old one (R237). -/
def State.greg (s : State) (d : SReg) (r : GReg) (f : BitVec 64 → BitVec 64 × BitVec 64) (reads : Bool) (g : Group) (w : Wg)
    (_ : Team) : State :=
  if reads && w.gpoison.contains r.toNat then s.registerError w g.team (lanesOf g.lanes) 2 0 g.pc.toNat
  else
    let x := f (spGet w.g r.toNat)
    let whole (y : Wg) : List Nat := if reads then y.gpoison else y.gpoison.filter fun q => q != r.toNat
    let s1 := s.modWg g.wg fun y => { y with g := spSet y.g r.toNat x.2, gpoison := whole y }
    (s1.modTeam g.wg g.team fun y => y.setS d.toNat x.1).goOn g
def execGrd (d : SReg) (r : GReg) (s : State) : Result := s.withGroup fun g w t => s.greg d r (fun x => (x, x)) true g w t
def execGwr (d a : SReg) (r : GReg) (s : State) : Result :=
  s.withGroup fun g w t => s.greg d r (fun _ => (t.sreg a.toNat, t.sreg a.toNat)) false g w t
def execGadd (d a : SReg) (r : GReg) (s : State) : Result :=
  s.withGroup fun g w t => s.greg d r (fun x => (x, x + t.sreg a.toNat)) true g w t
def execGxch (d a : SReg) (r : GReg) (s : State) : Result :=
  s.withGroup fun g w t => s.greg d r (fun x => (x, t.sreg a.toNat)) true g w t

/-! ## Traps -/

/-- STRAP (R202). -/
def execStrap (a : SReg) (c : BitVec 4) (s : State) : Result :=
  s.withGroup fun g w t =>
    let x := t.sreg a.toNat
    if x.toNat % 4 != 0 then s.raiseGroup g.wg g.team g.lanes (plainTrap 0x06 0)
    else (s.modRec w.launch fun r => { r with handlers := spSet r.handlers c.toNat x }).goOn g
/-- TRET (R203): every thread of the group returns, or the whole group faults. -/
def execTret (s : State) : Result :=
  s.withGroup fun g _ t =>
    if (g.live t).all fun l => (t.thread l).inh then
      s.modLanes g.wg g.team g.lanes fun _ th => { th with pc := th.tepc, tcause := 0, status := .running }
    else s.raiseGroup g.wg g.team g.lanes (plainTrap 0x01 0)

end Sys2Proof.Machine
end

