-- ==== Sys2Proof/Machine/Percale.lean ====
section
/-!
DEFINITION. What Percale does for the operations of spec/20, spec/22 and spec/23: publishing page tables (R209, R328 to
R330), lattice frames (R266), invalidation (R317), resets and scrubs (R344, R373), keys (R370), freezing (R339), sealing
and unsealing (R342, R343), and the resources of a core (R9, R214, R226).
-/
namespace Sys2Proof.Machine

/-! ## Coherent reads -/

/-- A byte at the point of coherence: an owned dirty word shows (R261). -/
def State.coherentByte (s : State) (key : Nat) : BitVec 8 :=
  match findFirst (fun c => c.owned && c.word == key / 4) s.cwords with
  | some c => byteOf c.value (key % 4)
  | none => spGet s.mem key
def State.coherentRead (s : State) (key n : Nat) : Nat :=
  match n with
  | 0 => 0
  | k + 1 => (s.coherentByte key).toNat + 256 * s.coherentRead (key + 1) k

/-! ## Page tables (R328) -/

def worldOperator : BitVec 16 := 0xFFF0
def worldAuditor : BitVec 16 := 0xFFF1

/-- Where the content of a frame of a die is now that a drain may have moved it (R364). -/
def State.frameNow (s : State) (die f : Nat) : Option Nat × Nat :=
  match findFirst (fun m => m.moved.isSome && !m.host && m.frame == f) (s.die die).published with
  | some m => m.spot die
  | none => (some die, f)

/-- An entry of a table: HOST and ADDR; none where it makes its pages unmapped. -/
def State.tableEntry (s : State) (die table i : Nat) (leaf : Bool) : Option (Bool × Nat) :=
  let spot := s.frameNow die table
  let held := match spot with
    | (some h, f) => (s.frameOf h f).owner == worldOperator
    | (none, _) => true
  if held then
    let x := s.coherentRead (spotKey spot + 8 * i) 8
    let host := (x / 2) % 2 == 1
    if x % 2 == 1 && (x / 4) % 2 ^ 14 == 0 && x / 2 ^ 52 == 0 && (leaf || !host) then
      some (host, (x / 2 ^ 16) % 2 ^ 36)
    else none
  else none

/-- The indices of a table whose spans of `size` pages from `base` meet the pages lo to hi − 1. -/
def tableSpan (base size lo hi : Nat) : List Nat :=
  if hi ≤ base || lo == hi then []
  else
    let first := (lo - base) / size
    upFrom first (min 4095 ((hi - 1 - base) / size) + 1 - first)

/-- The mappings the tables hold for the pages lo to hi − 1 of a die. -/
def State.tableMappings (s : State) (die lo hi : Nat) : List Mapping :=
  let root := (s.die die).ptroot
  if !root.getLsbD 0 then []
  else
    (tableSpan 0 (2 ^ 24) lo hi).flatMap fun i1 =>
      match s.tableEntry die (field root 16 36) i1 false with
      | none => []
      | some (_, t2) => (tableSpan (i1 * 2 ^ 24) (2 ^ 12) lo hi).flatMap fun i2 =>
        match s.tableEntry die t2 i2 false with
        | none => []
        | some (_, t3) => (tableSpan (i1 * 2 ^ 24 + i2 * 2 ^ 12) 1 lo hi).filterMap fun i3 =>
          match s.tableEntry die t3 i3 true with
          | none => none
          | some (h, a) => some { page := i1 * 2 ^ 24 + i2 * 2 ^ 12 + i3, frame := a, host := h, copying := false, moved := none }

/-! ## Windows (R327) and frames (R329, R330) -/

def Ctx.windowOn (c : Ctx) (m : Nat) : Bool := (c.reg (0x60 + 2 * m)).getLsbD 0
/-- Does a window of the context hold an IA page. -/
def Ctx.inWindow (c : Ctx) (page : Nat) : Bool :=
  (upFrom 0 8).any fun m => c.windowOn m && decide (field (c.reg (0x60 + 2 * m)) 16 36 ≤ page)
    && decide (page ≤ field (c.reg (0x61 + 2 * m)) 16 36)
/-- The contexts placed on a die: those of its partition. -/
def State.ctxsOn (s : State) (die : Nat) : List Ctx := s.ctxs.filter fun c => (s.die die).part == some c.part
/-- The context whose window holds a page of a die, an owner's before an operator's before an auditor's. -/
def State.windowHolder (s : State) (die page : Nat) : Option Ctx :=
  let cs := (s.ctxsOn die).filter fun c => c.inWindow page
  match findFirst (fun c => c.auth == 1) cs with
  | some c => some c
  | none =>
    match findFirst (fun c => c.auth == 0) cs with
    | some c => some c
    | none => findFirst (fun c => c.auth == 2) cs

/-- Key slot of a world on a die (R370). -/
def Die.slotOf (d : Die) (world : BitVec 16) : Nat :=
  if world == worldOperator then 1 else if world == worldAuditor then 2
  else match findFirst (fun k => k.world == world) d.keys with
    | some k => k.slot
    | none => 0

/-- Zeroes a frame. -/
def State.zeroFrame (s : State) (die f : Nat) : State :=
  let k := devKey die (f * 65536)
  { s with mem := spClear s.mem k (k + 65536), poison := s.poison.filter fun w => !(decide (k ≤ 8 * w) && decide (8 * w < k + 65536)) }

/-- Fills a frame with the bottoms of a lattice type. -/
def State.bottomFrame (s : State) (die f ty : Nat) : State :=
  let s1 := s.zeroFrame die f
  if unitBottom ty == 0 then s1
  else
    { s1 with mem := spFill s1.mem (devKey die (f * 65536)) 65536 fun i =>
        BitVec.ofNat 8 (unitBottom ty / 2 ^ (8 * (i % unitBytes ty))) }

/-- The effect of publishing a local frame at a page (R330). -/
def State.takeFrame (s : State) (die : Nat) (m : Mapping) : State :=
  match m.spot die, s.windowHolder die m.page with
  | (some h, f), some c =>
    let e := s.frameOf h f
    if e.owner == 0 then
      let s1 := if e.scrubp then s.zeroFrame h f else s
      s1.modFrameOf h f fun x => { x with owner := c.world, key := (s.die die).slotOf c.world, scrubp := false }
    else s
  | _, _ => s

/-- The declared region of the die's partition that holds a page. -/
def State.regionOn (s : State) (die page : Nat) : Option Region :=
  match (s.die die).part with
  | none => none
  | some p => (s.part p).regionAt (page * 65536)

/-- A frame inside a declared region enters lattice state, bottom in every cell (R266). -/
def State.latticeFrame (s : State) (die : Nat) (m : Mapping) : State :=
  match m.spot die, s.regionOn die m.page with
  | (some h, f), some r =>
    if (s.frameOf h f).lattice then s
    else (s.bottomFrame h f r.ltype).modFrameOf h f fun x => { x with lattice := true }
  | _, _ => s

/-- Every cell of a new region starts at its type's bottom (R74): the frames of its world that a die has published in it already
enter lattice state with bottoms, whatever they held (DEDUCED, log 46). -/
def State.newReplica (s : State) (world : BitVec 16) (r : Region) (die : Nat) : State :=
  ((s.die die).published.filter fun m => decide (r.base ≤ m.page * 65536) && decide (m.page * 65536 < r.base + r.size)).foldl
    (fun acc m => match m.spot die with
      | (none, _) => acc
      | (some h, f) =>
        if (acc.frameOf h f).owner != world then acc
        else
          let key := devKey h (f * 65536)
          let s1 := acc.dropWords fun c => decide (key ≤ 4 * c.word) && decide (4 * c.word < key + 65536)
          (s1.bottomFrame h f r.ltype).modFrameOf h f fun x => { x with lattice := true }) s
/-- May a mapping be published: the BADARG rows of R330 and R266. A page of host memory inside a region, whose frame has no owner entry
(R328), is refused too: R266 does not name it (DESIGN CHOICE, log 46). -/
def State.mappingOk (s : State) (die : Nat) (m : Mapping) : Bool :=
  let holder := s.windowHolder die m.page
  let owner : Option (BitVec 16) := match m.spot die with
    | (some h, f) => some (s.frameOf h f).owner
    | (none, _) => none
  let owned := match holder with
    | some c => if c.auth == 1 then owner.all fun o => o == 0 || o == c.world else true
    | none => true
  let region := match s.regionOn die m.page, (s.die die).part with
    | some _, some p =>
      let w := (s.part p).world
      match owner with
      | some o => o == w || (o == 0 && holder.any fun c => c.world == w)
      | none => false
    | _, _ => true
  owned && region

/-- Releases a frame: no owner, scrub pending (R330, R373). -/
def FrameEntry.release (e : FrameEntry) : FrameEntry :=
  { e with owner := 0, key := 0, scrubp := true, isSealed := false, lattice := false, format := false }

/-- Does a published entry still name a frame inside a window of a world. -/
def State.namedIn (s : State) (die f : Nat) (world : BitVec 16) : Bool :=
  (upFrom 0 24).any fun d => (s.die d).published.any fun m => m.spot d == (some die, f)
    && (s.ctxsOn d).any fun c => c.world == world && c.inWindow m.page

/-- Has the frame of a mapping an owner, and does no entry name it inside a window of its owner. -/
def State.unnamed (s : State) (die : Nat) (old : Mapping) : Bool :=
  match old.spot die with
  | (none, _) => false
  | (some h, f) => (s.frameOf h f).owner != 0 && !s.namedIn h f (s.frameOf h f).owner
/-- The frame of an old mapping is released when no entry names it any more inside a window of its owner (R330). -/
def State.dropFrame (s : State) (die : Nat) (old : Mapping) : State :=
  match old.spot die with
  | (some h, f) => if s.unnamed die old then s.modFrameOf h f FrameEntry.release else s
  | (none, _) => s
/-- Is the frame of a mapping sealed. -/
def State.sealedAt (s : State) (die : Nat) (m : Mapping) : Bool :=
  match m.spot die with
  | (none, _) => false
  | (some h, f) => (s.frameOf h f).isSealed

/-! ## Invalidation (R317, R235) -/

/-- Drops translations whose code lies on IA pages lo to hi − 1 of a die. -/
def State.dropCode (s : State) (die lo hi : Nat) : State :=
  { s with trans := s.trans.filter fun t =>
      !(t.die == die && decide (t.ia / 65536 < hi) && decide (lo ≤ (t.ia + 4 * t.words.length - 1) / 65536)) }

/-- Does a memory key lie in a frame of a die. -/
def keyInFrame (die f key : Nat) : Bool := decide (devKey die (f * 65536) ≤ key) && decide (key < devKey die (f * 65536) + 65536)

/-- No agent reads, writes or executes through old entries of the pages any longer: writes on their way have arrived, cached words
are written back and dropped, an access that has not been performed takes a new verdict, and a threshold load that waits on a page issues again (R209)
(DEDUCED, log 44). -/
def State.dropPages (s : State) (die lo hi : Nat) (old : List Mapping) : State :=
  let behind (m : Mapping) (key : Nat) : Bool :=
    match m.spot die with
    | (none, _) => false
    | (some h, f) => keyInFrame h f key
  let s0 := s.landWhere fun u => old.any fun m => behind m u.key
  let s1 := s0.dropWords fun c => old.any fun m => behind m (4 * c.word)
  let watches (x : Waiter) : Bool := x.home == die && !x.abandoned && old.any fun m => m.page == x.ia / 65536
  let s2 := (s1.dropCode die lo hi).reissueWhere watches
  let s3 := s2.modDie die fun d => { d with sectors := d.sectors.filter fun f =>
    !(decide (lo ≤ f.sector * 32 / 65536) && decide (f.sector * 32 / 65536 < hi)) }
  let again (x : LaneAcc) : LaneAcc :=
    if x.home == die && decide (lo ≤ x.ia / 65536) && decide (x.ia / 65536 < hi) && x.verdict == .mapped then
      { x with verdict := .waiting } else x
  { s3 with
    roLines := s3.roLines.filter fun r => !(r.iaDie == die && decide (lo ≤ r.iaPage) && decide (r.iaPage < hi)),
    accs := s3.accs.map fun a => { a with lanes := a.lanes.map again } }

/-- May mappings be published, each judged with the frames that those before it have taken (R330). -/
def State.mappingsOk (s : State) (die : Nat) (ms : List Mapping) : Bool :=
  (ms.foldl (fun (acc : State × Bool) m => (acc.1.takeFrame die m, acc.2 && acc.1.mappingOk die m)) (s, true)).2

/-- Is a thread inside a region translated from code whose IA lies from `lo` up to `hi`: an access of its instruction has not
been performed, other than one held on a page that lies in the span (R317). -/
def State.insideCode (s : State) (die lo hi : Nat) : Bool :=
  let here (ia : Nat) : Bool := decide (lo ≤ ia) && decide (ia < hi)
  let stays (id : Nat) : Bool := match s.acc? id with
    | some a => a.lanes.any fun x => !(x.verdict == .page && x.home == die && here x.ia)
    | none => false
  s.wgs.any fun w => w.die == die && w.teams.any fun t => t.threads.any fun th =>
    (match th.status with
      | .region id => stays id
      | .held id => stays id
      | _ => false)
    && match (s.ctx w.ctx).hit th.pc.toNat 4 with
      | some h => here h.ia
      | none => false

/-- The mappings of the pages lo to hi − 1 that a MAPSYNC would take away. -/
def State.unmapping (s : State) (die lo hi : Nat) : List Mapping :=
  let new := s.tableMappings die lo hi
  (s.die die).published.filter fun m => decide (lo ≤ m.page) && decide (m.page < hi)
    && !new.any fun n => n.page == m.page && n.frame == m.frame && n.host == m.host
/-- Does a MAPSYNC of the pages wait for threads inside regions of code that it drops (R317). -/
def State.publishWaits (s : State) (die lo hi : Nat) : Bool := s.insideCode die (lo * 65536) (hi * 65536)

/-- MAPSYNC of the IA pages lo to hi − 1 of a die: the state after it and its status (R209, R330, R266) (DEDUCED, log 45). -/
def State.publish (s : State) (die lo hi : Nat) : State × BitVec 64 :=
  let old := (s.die die).published.filter fun m => decide (lo ≤ m.page) && decide (m.page < hi)
  let kept (n : Mapping) : Mapping :=
    match findFirst (fun m => m.page == n.page && m.frame == n.frame && m.host == n.host) old with
    | some m => m
    | none => n
  let new := (s.tableMappings die lo hi).map kept
  let gone := s.unmapping die lo hi
  let set (d : Die) : Die :=
    { d with published := (d.published.filter fun m => !(decide (lo ≤ m.page) && decide (m.page < hi))) ++ new }
  let released (m : Mapping) : Bool := gone.contains m || (s.modDie die set).unnamed die m
  if !s.mappingsOk die new then (s, stBadArg)
  else if old.any fun m => s.sealedAt die m && released m then (s, stBusy)
  else
    let s2 := (s.dropPages die lo hi gone).modDie die set
    let s3 := new.foldl (fun acc m => (acc.takeFrame die m).latticeFrame die m) s2
    (old.foldl (fun acc m => acc.dropFrame die m) s3, stOk)

/-! ## Waiting on Percale -/

/-- A thread whose operation waits on other agents looks again; of a frozen workgroup Percale alone looks again at what it has
been asked (R297). -/
def Thread.woken (frozen : Bool) (th : Thread) : Thread :=
  match th.status with
  | .waiting .percale => { th with status := .running }
  | .waiting (.service _) => { th with status := if frozen then .waiting (.service true) else .running }
  | _ => th
/-- Groups whose operation waits on other agents look again. -/
def State.wakePercale (s : State) : State :=
  { s with wgs := s.wgs.map fun w => w.mapThreads fun _ th => th.woken w.frozen }

/-! ## Regions (R265, R274) -/

/-- Does an enabled lattice range of a context name a region. -/
def Ctx.namesRegion (c : Ctx) (id : Nat) : Bool :=
  (upFrom 0 16).any fun n => c.rangeEnabled n && field (c.rattr n) 1 3 == 1 && field (c.rattr n) 8 4 == id

/-- Frees the regions that no range register of the partition names: marks go with them, and lines in flight or held, which a region
declared again never receives (R265, R274; DEDUCED, log 46). -/
def State.freeRegions (s : State) (p : Nat) : State :=
  let part := s.part p
  let live (r : Region) : Bool := s.ctxs.any fun c => c.part == p && c.namesRegion r.id
  let gone := part.regions.filter fun r => !live r
  let inGone (ia : Nat) : Bool := gone.any fun r => decide (r.base ≤ ia) && decide (ia < r.base + r.size)
  let s1 := s.modPart p fun x => { x with regions := x.regions.filter live }
  { s1 with
    dies := s1.dies.map fun d => if d.part == some p then
      { d with marks := d.marks.filter fun m => !inGone (m.line * 256) } else d,
    lines := s1.lines.filter fun l => !(l.part == p && inGone l.ia) }

/-! ## Keys (R370) -/

/-- A new key is drawn for a world and loaded into its slot on every die. -/
def State.drawKey (s : State) (p slot : Nat) : State :=
  let w := (s.part p).world
  let s1 := s.modPart p fun x => { x with keygen := x.keygen + 1 }
  let gen := (s1.part p).keygen.toNat
  (s.diesOf p).foldl (fun acc d => acc.modDie d fun x =>
    { x with keys := { slot := slot, world := w, generation := gen } :: x.keys.filter fun k => k.slot != slot }) s1

/-- Erases the slot of a partition's world on every die. -/
def State.eraseKey (s : State) (p : Nat) : State :=
  let w := (s.part p).world
  (s.diesOf p).foldl (fun acc d => acc.modDie d fun x => { x with keys := x.keys.filter fun k => k.world != w }) s

/-- Slot of a world on the first die of its partition; the lowest free slot when it holds none. -/
def freeKeySlot (ds : List Die) : Option Nat :=
  findFirst (fun n => ds.all fun d => !d.keys.any fun k => k.slot == n) (upFrom 3 253)

/-! ## Reset (R344) -/

/-- Does a cached key belong to a world: device frames by their owner, host bytes to every world. -/
def State.keyOfWorld (s : State) (world : BitVec 16) (key : Nat) : Bool :=
  match keyDie key with
  | none => true
  | some d => (s.frameOf d (key % 2 ^ 64 / 65536)).owner == world

/-- The pages a sealed image uses, as mappings of its die. -/
def State.imageMappings (s : State) (i : Image) : List Mapping :=
  (s.die i.die).published.filter fun m => decide (i.firstPage ≤ m.page) && decide (m.page < i.firstPage + i.pages)

/-- Sets or clears SEALED on the frames of an image. -/
def State.sealFrames (s : State) (i : Image) (on : Bool) : State :=
  (s.imageMappings i).foldl (fun acc m =>
    match m.spot i.die with
    | (none, _) => acc
    | (some h, f) => acc.modFrameOf h f fun e => { e with isSealed := on }) s

/-- Scrubs the sealed image of a context. -/
def State.scrubImage (s : State) (c : Nat) : State :=
  match (s.ctx c).image with
  | none => s
  | some i =>
    let s1 := (s.imageMappings i).foldl (fun acc m =>
      match m.spot i.die with
      | (none, _) => acc
      | (some h, f) => acc.zeroFrame h f) s
    (s1.sealFrames i false).modCtx c fun x => { x with image := none }

/-- The control registers that keep their value: the windows. -/
def windowRegs (m : Sparse 64) : Sparse 64 := m.filter fun e => decide (0x60 ≤ e.1) && decide (e.1 < 0x70)

/-- A context begun afresh with the bindings and values of its placement (R2, R344). -/
def Ctx.fresh (c : Ctx) : Ctx :=
  { c with lstat := 0, regs := windowRegs c.regs, halted := false, steps := [], state := .idle, resetting := false, moving := none, bound := none, cycles := 0,
           recs := [], recNext := 0, recLost := 0, seen := 0, image := none, engines := [], ringHeads := [],
           ringTails := [] }

/-- Pins of a context's LDK end; pins under a header end with their launch (R318). -/
def State.dropPins (s : State) (c : Nat) : State :=
  { s with trans := s.trans.map fun t => { t with pins := t.pins.filter fun p => p.ctx != c } }

/-- Pre-emptions that were to bring in launches of a context end, and their victims continue. -/
def State.endPreempts (s : State) (c : Nat) : State :=
  (upFrom 0 24).foldl (fun acc d =>
    ((acc.die d).preempts.filter fun p => p.urgent == c).foldl (fun a p => a.continueVictim d p.core) acc) s

/-- CRESET's effect: every launch ends and everything of R344 is scrubbed (DEDUCED, log 52). -/
def State.resetCtx (s : State) (c : Nat) : State :=
  let x := s.ctx c
  let ended := (s.endLaunches c).scrubImage c
  let s0 := ended.endPreempts c
  let s1 := { s0 with slog := s0.slog.filter fun e => e.ctx != c }
  let s2 := s1.dropWords fun w => s1.keyOfWorld x.world (4 * w.word)
  let s3 := { s2 with roLines := s2.roLines.filter fun r => !s1.keyOfWorld x.world (128 * r.line) }
  let clean (d : Die) : Die :=
    let q := d.deviceQueue.filter fun u => (s3.record u).ctx != c
    { d with deviceQueue := q, tags := d.tags.filter fun t => t.ctx != c,
             touched := d.touched.filter fun t => t.2 != c }
  let s4 : State := { s3 with dies := s3.dies.map clean }
  ((s4.dropPins c).modCtx c Ctx.fresh).freeRegions x.part

/-- The owner contexts of a partition. -/
def State.ownersOf (s : State) (p : Nat) : List Nat := (s.ctxs.filter fun c => c.part == p && c.auth == 1).map Ctx.uid

/-- Releases every frame of a world on a partition's dies (R373). -/
def State.releaseWorld (s : State) (p : Nat) (world : BitVec 16) : State :=
  (s.diesOf p).foldl (fun acc d => acc.modDie d fun x =>
    { x with frames := mapWhere (fun e => e.owner == world) FrameEntry.release x.frames })
    { s with hostFrames := mapWhere (fun e => e.owner == world) FrameEntry.release s.hostFrames }

/-- The effects of entering ERROR (R373). -/
def State.stopInterface (s : State) (p : Nat) : State :=
  let w := (s.part p).world
  let s1 := (s.ownersOf p).foldl (fun acc c => acc.resetCtx c) s
  let s2 := s1.dropWords fun x => s1.keyOfWorld w (4 * x.word)
  ((s2.releaseWorld p w).eraseKey p)
def Part.locked (p : Part) : Bool := p.ifstate != .unlocked
/-- The interface enters ERROR from CONFIG_LOCKED or RUN. -/
def State.enterError (s : State) (p : Nat) : State :=
  if (s.part p).ifstate == .locked || (s.part p).ifstate == .run then
    (s.stopInterface p).modPart p fun x => { x with ifstate := .error, boundSession := none }
  else s

/-! ## Freezing (R339) -/

/-- A thread as it is frozen: an access in its region, a held access, or a wait without effect is abandoned and reissues; a
barrier wait stands, its arrival having counted, and so do an atomic that has issued (`keeps` by issue number; R156) and an
operation of Percale that has still to complete (R176, R297). -/
def Thread.frozen (keeps : Nat → Bool) (th : Thread) : Thread :=
  match th.status with
  | .region id => if keeps id then th else { th with status := .running }
  | .held _ => { th with status := .running }
  | .waiting (.barrier _ _) => th
  | .waiting (.service _) => th
  | .waiting _ => { th with status := .running }
  | _ => th

/-- Every formed result of a workgroup returns. -/
def Wg.returnAll (w : Wg) : Wg :=
  { w with teams := w.teams.map fun t =>
      let ids := (t.uouts.map UOut.id) ++ (t.threads.map fun th => th.outs.map Out.id).flatten
      ids.foldl Team.returnOuts t }

/-- What of an access a freeze leaves: an atomic's parts that are not held go on; the parts of another that have no verdict yet
are discarded, their records still to come (R156, R336). -/
def Access.frozen (a : Access) : Option Access :=
  if a.discarded then some a else
  let ls := if a.kind.isAtomic then a.lanes.filter fun x => x.verdict != .page else a.lanes.filter fun x => x.verdict == .waiting
  if ls.isEmpty then none else some { a with lanes := ls, discarded := !a.kind.isAtomic }

/-- A threshold load that begins again, as an abandoned wait. -/
def Access.waits (a : Access) : List Waiter :=
  if a.again && !a.discarded then a.lanes.map fun x =>
    { id := a.id, wg := a.wg, team := a.team, lane := x.lane, cell := true, pc := a.pc, bytes := a.bytes, home := x.home, va := x.va,
      ia := x.ia, ltype := x.ltype, threshold := x.data, dest := a.dest, start := 0, limit := a.limit, polling := false,
      nextPoll := 0, engine := .copy, abandoned := true }
  else []

/-- Traps of a workgroup for which nothing is outstanding any more are delivered: a fault met before the commit point is handled
before the freeze (R314, R339). -/
def State.deliverAll (s : State) (u : Nat) : State :=
  (s.wg u).teams.length.fold (fun ti _ acc => ((acc.wg u).team ti).threads.length.fold (fun l _ a =>
    let th := ((a.wg u).team ti).thread l
    match th.status with
    | .trapping k => if ((a.wg u).team ti).receives l then a.deliver u ti l k else a
    | _ => a) acc) s

/-- Freezes a workgroup in place (R339): formed results return first, MMAs and series results among them (R89, R171); an
abandoned XACQ or XTAKE loses its turn, an abandoned wait its waiter (R12, R277). -/
def State.freezeWg (s : State) (u : Nat) : State :=
  let keeps (id : Nat) : Bool := s.accs.any fun a => a.id == id && a.kind.isAtomic
  let ice (w : Wg) : Wg :=
    let w1 := w.returnAll.mapThreads fun _ th => th.frozen keeps
    { w1 with frozen := true, teams := w1.teams.map fun t => { t with blockTurn := 0 } }
  let s1 := (s.modWg u ice).deliverAll u
  { s1 with accs := s1.accs.filterMap fun a => if a.wg == u then a.frozen else some a,
            waiters := mapWhere (fun x => x.wg == u) (fun x => { x with abandoned := true }) s1.waiters
              ++ (s1.accs.filter fun a => a.wg == u).flatMap Access.waits,
            agenda := s1.agenda.filter fun t => match t with
              | .issue w _ => w != u
              | _ => true }
/-- A pre-emption stops an engine, which first finishes the record it works (R339). -/
def Eng.stopped (e : Eng) : Eng := if e.paused then e else { e with paused := true, finishing := e.state == 1 || e.state == 2 }
/-- The engines of a context stop, or start again (R339). -/
def State.pauseEngines (s : State) (c : Nat) (on : Bool) : State :=
  s.modCtx c fun x => { x with engines := x.engines.map (if on then Eng.stopped else Eng.resumed) }

/-- Percale waits for the atomics that a context has issued before it seals it: those that can be performed are (R339). -/
def State.finishAtomics (s : State) (c : Nat) : State :=
  let go (acc : State) (id : Nat) (f : State → Access → State) : State :=
    match acc.acc? id with
    | some a => f acc a
    | none => acc
  ((s.accs.filter fun a => (s.wg a.wg).ctx == c && a.kind.isAtomic).map Access.id).foldl (fun acc id =>
    go (go acc id State.verdicts) id State.commit) s
/-- Does a thread await what Percale has been asked. -/
def Thread.served (th : Thread) : Bool :=
  match th.status with
  | .waiting (.service _) => true
  | _ => false
/-- Is anything outstanding that a seal of the context waits for: an atomic in flight, one held on a page excepted, an operation
of Percale, or an engine's current record, one that waits on a page or a queue excepted (R339). -/
def State.unfinished (s : State) (c : Nat) : Bool :=
  (s.accs.any fun a => (s.wg a.wg).ctx == c && a.kind.isAtomic && a.lanes.any fun x => x.verdict != .page)
    || (s.wgs.any fun w => w.ctx == c && w.teams.any fun t => t.threads.any Thread.served)
    || (s.ctx c).engines.any fun e => e.finishing && e.state == 1

/-- Workgroups of a context on a core. -/
def State.wgsOn (s : State) (c die core : Nat) : List Wg :=
  s.wgs.filter fun w => w.ctx == c && w.die == die && w.core == core
/-- The one core that holds every resident workgroup of a context, when there is one. -/
def State.soleCore (s : State) (c : Nat) : Option (Nat × Nat) :=
  match s.wgs.filter fun w => w.ctx == c with
  | [] => none
  | w :: t => if t.all fun y => y.die == w.die && y.core == w.core then some (w.die, w.core) else none

/-! ## Resources of a core (R9, R214, R226, R227) -/

def Die.coreRetired (d : Die) (core : Nat) : Bool := d.retired.any fun r => r == .core core
/-- Does a user core exist and serve. -/
def State.coreExists (s : State) (die core : Nat) : Bool := decide (core < 63) && !(s.die die).coreRetired core

/-- Units of a cluster that never hold scratch again: a bank of theirs has retired (R362). -/
def Die.unitRetired (d : Die) (cl unit : Nat) : Bool := d.retired.any fun r =>
  match r with
  | .bank c b => c == cl && b / 4 == unit
  | _ => false
/-- Free scratch units of a cluster, ascending. -/
def State.freeUnits (s : State) (die cl : Nat) : List Nat :=
  (upFrom 0 (if cl == 15 then 7 else 8)).filter fun n =>
    !(s.die die).unitRetired cl n
      && !s.wgs.any fun w => w.die == die && clusterOf w.core == cl && w.units.contains n
/-- The workgroups of a core that run in its urgent partition, or that do not; the team slots and extended blocks it has free for
such (R9, R298): a slot returns when its workgroup ends (R215), a block when its team does (R11). -/
def State.wgsAt (s : State) (die core : Nat) (urgent : Bool) : List Wg :=
  s.wgs.filter fun w => w.die == die && w.core == core && w.urgent == urgent
def State.freeSlots (s : State) (die core : Nat) (urgent : Bool) : Nat :=
  (if urgent then 4 else 16) - (s.wgsAt die core urgent).foldl (fun acc w => acc + w.teams.length) 0
def State.freeBlocks (s : State) (die core : Nat) (urgent : Bool) : Nat := poolLeft urgent (s.wgsAt die core urgent)
/-- Free side-log entries of a core (R337). -/
def State.freeLog (s : State) (die core : Nat) : Nat :=
  256 - (s.slog.filter fun e => e.die == die && e.core == core).length

/-- Drops the words of a cluster that units taken out of cache mode held: all of the cluster, clean words being fetched
again (R199, R225). -/
def State.dropCluster (s : State) (die cl : Nat) : State := s.dropWords fun c => c.die == die && c.cluster == cl

/-- The scrub of a cluster: its caches lose what it held and its cores' marks go (R344, R345). -/
def State.scrubCluster (s : State) (die cl : Nat) : State :=
  ((s.dropCluster die cl).dropRo die cl).modDie die fun d =>
    { d with scrubPending := d.scrubPending.filter fun c => c != cl, touched := d.touched.filter fun t => clusterOf t.1 != cl }
/-- Before a context comes to a core: its cluster is scrubbed where the core holds what another context left there or
where the cluster waits for the scrub of its waking (R345). -/
def State.switchScrub (s : State) (die core ctx : Nat) : State :=
  let other := (s.die die).touched.any fun t => t.1 == core && t.2 != ctx
  if other || (s.die die).scrubPending.contains (clusterOf core) then s.scrubCluster die (clusterOf core) else s

/-! ## Sealing and resuming (R342, R343, R338) -/

/-- The home die of a sealed image and the context's save area, mapped in full. -/
def State.saveMapped (s : State) (c : Ctx) : Bool :=
  (upFrom (c.savea / 65536) c.savep).all fun p =>
    match (s.die c.homeDie).mapping p with
    | some m =>
      match m.spot c.homeDie with
      | (none, _) => false
      | (some h, f) => (s.frameOf h f).owner == c.world
    | none => false

/-- A workgroup leaves its cluster (R342 step 6, R344, R345): the words of its world there are written back and dropped, the
read-only copies dropped, and its writes that waited for the cluster have so been performed; accesses whose regions are
discarded take their verdicts now. -/
def State.leaveCluster (s : State) (u : Nat) : State :=
  let w := s.wg u
  let cl := clusterOf w.core
  let mine (key : Nat) : Bool := s.keyOfWorld (s.ctx w.ctx).world key
  let s0 := (s.accs.filter fun a => a.wg == u && a.discarded).foldl State.lateVerdicts s
  let s1 := s0.dropWords fun x => x.die == w.die && x.cluster == cl && mine (4 * x.word)
  { s1 with roLines := s1.roLines.filter fun r => !(r.die == w.die && r.cluster == cl && mine (128 * r.line)),
            unacked := s1.unacked.filter fun x => !(x.wg == u && x.kind == 0), accs := s1.accs.filter fun a => a.wg != u }

/-- Fills a frame with bytes that the spec does not give: a sealed image (DESIGN CHOICE, log 80). -/
def State.scrawlFrame (s : State) (die f : Nat) : State :=
  let k := devKey die (f * 65536)
  { (s.zeroFrame die f).drawn with mem := spFill (s.zeroFrame die f).mem k 65536 (Config.imageByte s.draws) }

/-- Writes the image of a context into its save area and seals the frames (R342 step 5). -/
def State.writeImage (s : State) (i : Image) : State :=
  ((s.imageMappings i).foldl (fun acc m =>
    match m.spot i.die with
    | (none, _) => acc
    | (some h, f) => acc.scrawlFrame h f) s).sealFrames i true

/-- A context that has left its core is no victim of a pre-emption there any longer: the end of the urgent context does not set it
running (R323). -/
def State.freeVictim (s : State) (c : Nat) : State :=
  { s with dies := s.dies.map fun d => { d with preempts := mapWhere (fun p => p.victim == c) (fun p => { p with victim := 0 }) d.preempts } }

/-- Seals a context into its save area and frees its core (R342 steps 4 to 6). -/
def State.sealCtx (s0 : State) (c : Nat) (target : Option (Nat × Nat)) : State :=
  let s := s0.freeVictim c
  let x := s.ctx c
  let ws := s.wgs.filter fun w => w.ctx == c
  let s1 := ws.foldl (fun acc w => acc.freezeWg w.uid) s
  let s2 := ws.foldl (fun acc w => acc.leaveCluster w.uid) s1
  let s3 := s2.modPart x.part fun p => { p with generations := p.generations + 1 }
  let gen := (s3.part x.part).generations
  let i : Image :=
    { die := x.homeDie, firstPage := x.savea / 65536, pages := x.savep, generation := gen, recorded := gen,
      intact := true, wgs := s3.wgs.filter fun w => w.ctx == c, slog := s3.slog.filter fun e => e.ctx == c,
      engines := x.engines }
  let s4 := s3.modCtx c fun y => { y with image := some i, state := .saved, bound := target, engines := [], moving := none }
  let s5 := { s4 with wgs := s4.wgs.filter fun w => w.ctx != c, slog := s4.slog.filter fun e => e.ctx != c }
  ws.foldl State.touch (s5.writeImage i)

/-- A workgroup placed on another core; its waits watch the new die's replica (R341, R277). -/
def Wg.moved (w : Wg) (die core : Nat) (units : List Nat) : Wg := { w with die := die, core := core, units := units, frozen := false }

/-- Takes workgroups into a core, each with the lowest free units, which leave cache mode (R199, R226); what the cluster holds is
no older than what their threads have seen, on the read-only path too (R248, R257). -/
def State.settleOn (s : State) (die core : Nat) (ws : List Wg) : State :=
  let cl := clusterOf core
  let s1 := if ws.any fun w => !w.units.isEmpty then s.dropCluster die cl else s
  ws.foldl (fun acc w =>
    let units := (acc.freeUnits die cl).take w.units.length
    { acc with wgs := acc.wgs ++ [w.moved die core units] }) ((s1.acquire die cl).dropRo die cl)

/-- A context freezes on every core (R339, R342 step 4). -/
def State.freezeCtx (s : State) (c : Nat) : State :=
  let us := (s.wgs.filter fun w => w.ctx == c && !w.frozen).map Wg.uid
  ((us.foldl State.freezeWg s).pauseEngines c true).modCtx c fun x => { x with state := .frozen, bound := none }

/-- Freezes and seals a context, as far as it can be now: while a result is outstanding in it the context stays frozen and is
sealed later (R339). -/
def State.sealNow (s : State) (c : Nat) (target : Option (Nat × Nat)) : State :=
  let s0 := s.finishAtomics c
  if s0.unfinished c then s0.freezeCtx c else s0.sealCtx c target

/-- Enters side-log entries into a core's log in their old order. -/
def State.relog (s : State) (die core : Nat) (es : List SlogEntry) : State :=
  es.foldl (fun acc e =>
    match acc.freeSlot die core with
    | none => acc
    | some n =>
      let home := if e.kind == .peer then e.home else die
      { acc with slog := acc.slog ++ [{ e with die := die, core := core, slot := n, home := home }] }) s

/-- Waits of workgroups follow them to a die (R341). -/
def State.moveWaiters (s : State) (us : List Nat) (die : Nat) : State :=
  { s with waiters := mapWhere (fun x => us.contains x.wg) (fun x => if x.cell then { x with home := die } else x) s.waiters }

/-- Has a core room for workgroups and log entries (R342 step 3). -/
def State.roomFor (s : State) (die core : Nat) (ws : List Wg) (log : Nat) : Bool :=
  let teams := ws.foldl (fun acc w => acc + w.teams.length) 0
  let blocks := ws.foldl (fun acc w => acc + w.blocks) 0
  let units := ws.foldl (fun acc w => acc + w.units.length) 0
  decide (teams ≤ s.freeSlots die core false) && decide (blocks ≤ s.freeBlocks die core false)
    && decide (units ≤ (s.freeUnits die (clusterOf core)).length) && decide (log ≤ s.freeLog die core)

/-- The engines of a context follow its workgroups from one core's cluster and die to another's (R339, R342). -/
def moveEngines (es : List Eng) (die core die' core' : Nat) : List Eng :=
  let cl (e : Engine) (k : Nat) : Nat := if e == .collective then 0 else clusterOf k
  let at_ (e : Eng) (d k : Nat) : Bool := e.die == d && e.cluster == cl e.e k
  let go := (es.filter fun e => at_ e die core).map fun e => { e with die := die', cluster := cl e.e core' }
  go ++ es.filter fun e => !at_ e die core && !at_ e die' core'
/-- Where the workgroups of a list run. -/
def placeOf (ws : List Wg) : Option (Nat × Nat) := ws.head?.map fun w => (w.die, w.core)
/-- The engines of workgroups that move. -/
def enginesMoved (es : List Eng) (ws : List Wg) (die core : Nat) : List Eng :=
  match placeOf ws with
  | some (d, k) => moveEngines es d k die core
  | none => es

/-- The frames of an image hold what was sealed: every page is mapped to a sealed frame without a poisoned word, no memory behind
it has failed, and the generation is the one Percale recorded (R343; DESIGN CHOICE, log 80). -/
def State.imageSound (s : State) (i : Image) : Bool :=
  let whole (m : Mapping) : Bool :=
    match m.spot i.die with
    | (none, _) => false
    | (some h, f) => (s.frameOf h f).isSealed && !(s.die h).absentFrame f && !s.poisoned (devKey h (f * 65536)) 65536
  i.intact && i.generation == i.recorded && (s.imageMappings i).length == i.pages && (s.imageMappings i).all whole

/-- Unseals an image into a core; the context runs there, and stays bound to it (R343, R348). -/
def State.unsealCtx (s : State) (c die core : Nat) (i : Image) : State :=
  let us := i.wgs.map Wg.uid
  let s1 := (s.sealFrames i false).modCtx c fun x =>
    { x with image := none, state := if i.wgs.isEmpty then .idle else .running, bound := some (die, core),
             engines := (enginesMoved i.engines i.wgs die core).map Eng.resumed }
  let s2 := (s1.switchScrub die core c).relog die core i.slog
  us.foldl State.restartWaits ((s2.settleOn die core i.wgs).moveWaiters us die)

/-- Moves the frozen workgroups of a context to a core and lets them go on. -/
def State.moveFrozen (s' : State) (c die core : Nat) : State :=
  let s := s'.freeVictim c
  let old := s.wgs.filter fun w => w.ctx == c
  let us := old.map Wg.uid
  let s0 := us.foldl State.leaveCluster s
  let ws := (s0.wgs.filter fun w => w.ctx == c).map Wg.returnAll
  let es := s0.slog.filter fun e => e.ctx == c
  let s1 := { s0 with wgs := s0.wgs.filter fun w => w.ctx != c, slog := s0.slog.filter fun e => e.ctx != c }
  let s2 := ((old.foldl State.touch s1).switchScrub die core c).relog die core es
  let s3 := us.foldl State.restartWaits ((s2.settleOn die core ws).moveWaiters us die)
  (s3.pauseEngines c false).modCtx c fun x =>
    { x with state := .running, bound := some (die, core), engines := enginesMoved x.engines ws die core }

end Sys2Proof.Machine
end

