-- ==== Sys2Proof/Machine/Power.lean ====
section
/-!
DEFINITION. Power: budgets, pools and clocks (R379, R380), the causes CAPCAUSE reports (R381).
-/
namespace Sys2Proof.Machine

/-! ## Budgets (R379), in watts -/

/-- 18.75 W, the floor of a die. -/
def dieFloor : Rat := 75 / 4

/-- A partition's share while budgets are computed. -/
structure Share2 where
  part : Nat
  dies : Nat
  rank : Nat
  watts : Rat
  deriving DecidableEq, Repr

/-- The start value Min(PCAP, 300 W · n). -/
def startShare (s : State) (p : Nat) : Share2 :=
  let n := (s.diesOf p).length
  let cap := field (s.part p).pcap 0 16
  let most : Rat := 300 * n
  let asked : Rat := 10 * cap
  { part := p, dies := n, rank := (s.part p).prank.toNat,
    watts := if cap == 0xFFFF then most else if asked < most then asked else most }

/-- What a share has above its floor. -/
def Share2.above (x : Share2) : Rat := x.watts - dieFloor * x.dies

/-- One rank of the loop: the shares and what is still to be saved. -/
def cutRank (r : Nat) (st : List Share2 × Rat) : List Share2 × Rat :=
  if st.2 ≤ 0 then st
  else
    let a : Rat := (st.1.filter fun x => x.rank == r).foldl (fun acc x => acc + x.above) 0
    if a == 0 then st
    else
      let f : Rat := if st.2 / a < 1 then st.2 / a else 1
      (mapWhere (fun x => x.rank == r) (fun x => { x with watts := x.watts - f * x.above }) st.1, st.2 - f * a)

/-- The ranks in the order of R379: from 15 down to R, then from R − 1 down to 0. -/
def rankOrder (r : Nat) : List Nat := (upFrom r (16 - r)).reverse ++ (upFrom 0 r).reverse

/-- Budgets(C, R). -/
def budgets (s : State) (c : Rat) (r : Nat) : List Share2 :=
  let none_ := countWhere (fun d => (s.die d).part.isNone) (upFrom 0 24)
  let d : Rat := c - 1800 - dieFloor * none_
  let xs := ((upFrom 0 24).filter fun p => (s.part p).configured).map (startShare s)
  let e : Rat := xs.foldl (fun acc x => acc + x.watts) 0 - d
  ((rankOrder r).foldl (fun st k => cutRank k st) (xs, e)).1

/-- Pool size of a budget (R380). -/
def poolOf (b : Rat) : Nat := if b < 75 then 1 else min 16 ((b - 60) / 15).floor.toNat
/-- Clock of a budget in MHz, rounded down (R380, R381): multiples of 87.5 MHz. -/
def clockOf (b : Rat) : Nat :=
  if b < 75 then (max 4 (b * 16 / 75).floor.toNat) * 175 / 2 else 1400

/-- The die that terminates the management port: die 0, or die 12 when die 0 is not online (R378). DSTATE reports a die
ready once its bring-up is complete. -/
def State.mgmtDie (s : State) : Nat := if (s.die 0).dstate == 0 && (s.die 0).boot == 6 then 0 else 12

/-- A die's budget applied; a die that protection has lowered keeps the lower clock (R380). -/
def Die.withBudget (d : Die) (b : Rat) (protected_ : Bool) : Die :=
  { d with budget := b, pool := poolOf b,
           mhz := if protected_ then min d.mhz (clockOf b) else clockOf b }

/-- Recomputes budgets and sends them to every die the management die reaches (R378, R379). -/
def State.rebudget (s : State) : State :=
  let cap : Rat × Nat := match s.hallCap with
    | none => (9000, 0)
    | some (c, r) => if c == 0xFFFF then (9000, 0) else (10 * (max c.toNat 225 : Nat), r.toNat)
  let xs := budgets s cap.1 cap.2
  let m := s.mgmtDie
  let of (p : Nat) : Option Share2 := findFirst (fun x => x.part == p) xs
  let die (i : Nat) (d : Die) : Die :=
    if s.carries m i then
      match d.part.bind of with
      | some x => d.withBudget (x.watts / x.dies) (d.therm || s.elec)
      | none => d.withBudget dieFloor (d.therm || s.elec)
    else d
  let part (i : Nat) (p : Part) : Part :=
    match of i with
    | some x => { p with hallCapped := decide (x.watts < (startShare s i).watts) }
    | none => p
  { s with dies := mapIdxFrom die 0 s.dies, parts := mapIdxFrom part 0 s.parts }

/-! ## CAPCAUSE (R381) -/

/-- Does a launch of the partition wait for tokens. -/
def State.leaseWaits (s : State) (p : Nat) : Bool := s.recs.any fun r => r.lease.waiting && (s.ctx r.ctx).part == p

/-- Bits [4:0] of CAPCAUSE now. -/
def State.causes (s : State) (p : Nat) : BitVec 5 :=
  let ds := s.diesOf p
  let cap := field (s.part p).pcap 0 16
  BitVec.ofNat 5 (bit1 (ds.any fun d => (s.die d).therm) + 2 * bit1 s.elec
    + 4 * bit1 (cap != 0xFFFF && decide (10 * cap < 300 * ds.length)) + 8 * bit1 (s.part p).hallCapped
    + 16 * bit1 (s.leaseWaits p))

/-- Least of a list of numbers, or a default. -/
def leastOf (d : Nat) (xs : List Nat) : Nat :=
  match xs with
  | [] => d
  | x :: t => t.foldl min x

/-- CAPCAUSE as a context reads it. -/
def State.capcause (s : State) (c : Ctx) : BitVec 64 :=
  let ds := s.diesOf c.part
  let now := s.causes c.part
  BitVec.ofNat 64 (now.toNat + (c.seen ||| now).toNat * 2 ^ 8 + leastOf 16 (ds.map fun d => (s.die d).pool) * 2 ^ 16
    + leastOf 1400 (ds.map fun d => (s.die d).mhz) * 2 ^ 32)

/-- Every context remembers the causes that stand now. -/
def State.seeCauses (s : State) : State :=
  { s with ctxs := s.ctxs.map fun c => { c with seen := c.seen ||| s.causes c.part } }

end Sys2Proof.Machine
end

