-- ==== Sys2Proof/Machine/Control.lean ====
section
/-!
DEFINITION. Control registers (R181): what SRDS returns and what SWRS does, register by register, under the rights of R21.
-/
namespace Sys2Proof.Machine

/-! ## Engines as registers (R194) -/

/-- Cluster under which an engine is kept: the collective engine serves the die. -/
def engineCluster (e : Engine) (cl : Nat) : Nat := if e == .collective then 0 else cl
def engineNumber : Engine → Nat
  | .copy => 0 | .gather => 1 | .collective => 2
def engineOf (n : Nat) : Engine := if n == 0 then .copy else if n == 1 then .gather else .collective

/-- An engine that has not been used. -/
def Eng.init (e : Engine) (die cl : Nat) : Eng :=
  { e := e, die := die, cluster := cl, head := 0, seqa := 0, state := 0, err := 0, seq := 0, tail := 0, last := none, next := none,
    completed := [], wg := 0, tails := [], due := none, progress := 0, producer := none, awaits := none, paused := false,
    finishing := false }
def Eng.is (x : Eng) (e : Engine) (die cl : Nat) : Bool := x.e == e && x.die == die && x.cluster == cl
/-- A context's engine. -/
def Ctx.eng (c : Ctx) (e : Engine) (die cl : Nat) : Eng :=
  (findFirst (fun x => x.is e die cl) c.engines).getD (Eng.init e die cl)
/-- Changes a context's engine. -/
def State.modEng (s : State) (c : Nat) (e : Engine) (die cl : Nat) (f : Eng → Eng) : State :=
  s.modCtx c fun x => { x with engines := f (x.eng e die cl) :: x.engines.filter fun y => !y.is e die cl }
/-- The engine that serves a workgroup. -/
def State.engFor (s : State) (w : Wg) (e : Engine) : Eng :=
  (s.ctx w.ctx).eng e w.die (engineCluster e (clusterOf w.core))
def State.modEngFor (s : State) (w : Wg) (e : Engine) (f : Eng → Eng) : State :=
  s.modEng w.ctx e w.die (engineCluster e (clusterOf w.core)) f
/-- An engine counts as running in STATE 1 and 2. -/
def Eng.running (x : Eng) : Bool := x.state == 1 || x.state == 2
/-- ENGST. -/
def Eng.status (x : Eng) : BitVec 64 := BitVec.ofNat 64 (x.state + x.err * 2 ^ 8 + x.seq.toNat % 2 ^ 48 * 2 ^ 16)

/-! ## Reading -/

/-- What an SRDS answers. -/
inductive CtlRead where
  | value (x : BitVec 64)
  | refused
  /-- No such register: the word is ILLOP (R44). -/
  | missing
  deriving DecidableEq, Repr

/-- A cell for each authority: a mask of the bits it may read; none where no field's cell holds r (R21). -/
def byAuth (auth : Nat) (op own aud : Option (BitVec 64)) (x : BitVec 64) : CtlRead :=
  match (if auth == 0 then op else if auth == 1 then own else aud) with
  | some m => .value (x &&& m)
  | none => .refused

def allBits : Option (BitVec 64) := some (BitVec.allOnes 64)

/-- Bits an exchange entry keeps (R268). -/
def xschedBits : BitVec 64 := 0xFFFF009F
/-- The register value of an exchange entry: what was written last (R275). -/
def Die.xreg (d : Die) (n : Nat) : BitVec 64 :=
  match findFirst (fun e => e.1 == n) d.xpending with
  | some e => e.2
  | none => spGet d.xsched n

/-- XSTAT (R270). -/
def State.xstat (s : State) (die : Nat) : BitVec 64 :=
  let d := s.die die
  let held := countWhere (fun l => l.held && l.target == die) s.lines
  BitVec.ofNat 64 (d.backlog.toNat + held % 2 ^ 16 * 2 ^ 16 + d.rounds.toNat * 2 ^ 32)

/-- RETCNT (R362). -/
def Die.retcntWord (d : Die) : BitVec 64 :=
  let n (p : Retired → Bool) : Nat := min 255 (countWhere p d.retired)
  let link (port : Nat) : Nat := bit1 (d.retired.contains (.link port)) * 2 ^ (32 + port)
  BitVec.ofNat 64 (n (fun r => r == .row)
    + n (fun r => match r with | .bank _ _ => true | _ => false) * 2 ^ 8
    + n (fun r => match r with | .core _ => true | _ => false) * 2 ^ 16
    + n (fun r => match r with | .lane _ _ => true | _ => false) * 2 ^ 24
    + link 0 + link 1 + link 2 + link 3)

/-- DSTATE (R363). -/
def Die.dstateWord (d : Die) : BitVec 64 :=
  BitVec.ofNat 64 (d.dstate + bit1 d.req * 4 + bit1 d.paused * 8 + d.short.toNat * 2 ^ 32)
/-- IFST (R373). -/
def Part.ifst (p : Part) : BitVec 64 :=
  let n := match p.ifstate with
    | .unlocked => 0 | .locked => 1 | .run => 2 | .error => 3
  BitVec.ofNat 64 (n + p.locks.toNat * 2 ^ 32)
/-- CTXID (R15). -/
def Ctx.ctxid (c : Ctx) : BitVec 64 :=
  BitVec.ofNat 64 (c.auth + c.world.toNat * 2 ^ 8 + c.part * 2 ^ 24 + c.handle.toNat * 2 ^ 32)
/-- FRNEXT (R335): the owner's ring, the die's operator ring, or zero. -/
def State.frnext (s : State) (c : Ctx) (die : Nat) : BitVec 64 :=
  if c.auth == 1 then BitVec.ofNat 64 (c.recNext.toNat + c.recs.length * 2 ^ 32 + c.recLost.toNat * 2 ^ 48)
  else if c.auth == 0 then
    let d := s.die die
    BitVec.ofNat 64 (d.opNext.toNat + d.opRecs.length * 2 ^ 32 + d.opLost.toNat * 2 ^ 48)
  else 0

/-- The lowest lane's thread of a group. -/
def Group.first (g : Group) (t : Team) : Thread := t.thread (lowestLane g.lanes)

/-- The engine register of an index: which engine, and which of its three registers. -/
def engineIndex (i : Nat) : Option (Engine × Nat) :=
  if 0x10 ≤ i && i < 0x1B && i % 4 != 3 then some (engineOf ((i - 0x10) / 4), i % 4) else none

/-- SRDS of an index (R181) (DEDUCED, log 57). -/
def State.readCtl (s : State) (g : Group) (w : Wg) (t : Team) (i : Nat) : CtlRead :=
  let c := s.ctx w.ctx
  let d := s.die w.die
  let p := s.part c.part
  if i == 0x000 then .value c.ctxid
  else if i == 0x001 then .value c.lstat
  else if i == 0x002 then .value t.waitlim
  else if i == 0x003 then .value (g.first t).tcause
  else if i == 0x004 then .value (g.first t).tepc
  else if i == 0x006 then byAuth c.auth none allBits none (c.reg 0x006)
  else if i == 0x007 then .value (s.frnext c w.die)
  else if i == 0x008 then byAuth c.auth allBits allBits none (s.capcause c)
  else if 0x020 ≤ i && i < 0x060 then .value (c.reg i)
  else if 0x060 ≤ i && i < 0x070 then byAuth c.auth (some 0) allBits allBits (c.reg i)
  else if i == 0x070 then byAuth c.auth allBits none none d.ptroot
  else if i == 0x071 then byAuth c.auth none allBits none (c.reg i)
  else if 0x072 ≤ i && i < 0x080 then .value 0
  else if 0x080 ≤ i && i < 0x088 then byAuth c.auth none allBits none (d.xreg (i - 0x080))
  else if i == 0x088 then byAuth c.auth allBits allBits none d.xbound
  else if i == 0x089 then byAuth c.auth none allBits none (s.xstat w.die)
  else if 0x08A ≤ i && i < 0x090 then .value 0
  else if 0x090 ≤ i && i < 0x0A0 then byAuth c.auth none allBits none (c.reg (exportKey w.die i))
  else if 0x0A0 ≤ i && i < 0x0B8 then byAuth c.auth allBits none none (spGet p.diemap (i - 0x0A0))
  else if 0x0C0 ≤ i && i < 0x0C4 then byAuth c.auth allBits none none (listGet 0 d.links (i - 0x0C0))
  else if i == 0x0C4 then byAuth c.auth allBits none allBits d.retcntWord
  else if i == 0x0C8 then byAuth c.auth allBits (some 0xFFFFFFFB) (some 0xFFFFFFF3) d.dstateWord
  else if i == 0x0C9 then byAuth c.auth allBits none none d.evachb
  else if i == 0x0CA then byAuth c.auth allBits none none d.evachn
  else if i == 0x0D0 then .value p.ifst
  else if i == 0x0D1 then .value (p.prank.setWidth 64)
  else if i == 0x0D2 then .value p.pcap
  else if i == 0x0D3 then byAuth c.auth allBits none allBits (s.hallgrp.setWidth 64)
  else if i == 0x0D4 then byAuth c.auth allBits none allBits s.hallseq
  else if 0x0D8 ≤ i && i < 0x0DC then .refused
  else if 0x100 ≤ i && i < 0x110 then byAuth c.auth none allBits none (spGet d.fmt i)
  else
    match engineIndex i with
    | some (e, 0) => .value (s.engFor w e).head
    | some (e, 1) => .value (s.engFor w e).seqa
    | some (e, _) => .value (s.engFor w e).status
    | none => .missing

/-- A read that clears: BACKLOG (R270), and the reader's SEEN (R381). -/
def State.afterRead (s : State) (w : Wg) (i : Nat) : State :=
  if i == 0x089 then s.modDie w.die fun d => { d with backlog := 0 }
  else if i == 0x008 then s.modCtx w.ctx fun c => { c with seen := 0 }
  else s

/-- SRDS by index. -/
def State.srds (s : State) (d : SReg) (i : Nat) (g : Group) (w : Wg) (t : Team) : State :=
  match s.readCtl g w t i with
  | .value x =>
    (((s.afterRead w i).modTeam g.wg g.team fun y => y.setS d.toNat x).setLstat w.ctx stOk).goOn g
  | .refused => s.refuse g w d.toNat
  | .missing => s.raiseGroup g.wg g.team g.lanes (plainTrap 0x01 0)

/-! ## Writing -/

/-- What an SWRS comes to (DEDUCED, log 47). -/
inductive CtlWrite where
  /-- Executed: the state after it and the status. -/
  | done (s : State) (st : BitVec 64)
  | refused
  | trap
  /-- The register is frozen by the partition interface. -/
  | frozen
  /-- Complete only when other agents are done. -/
  | wait
  deriving DecidableEq, Repr

/-! ### Ranges (R325, R326) -/

/-- Bits a range register keeps, by its place in the four. -/
def rangeBits (k : Nat) : BitVec 64 :=
  match k with
  | 0 => 0x7FFFFFFFFFFF0000
  | 1 => 0x7FFFFFFFFFFF0000
  | 2 => 0xFFFFFFFFF0000
  | _ => 0x1FFFF

/-- Size of a range in pages. -/
def Ctx.rpages (c : Ctx) (n : Nat) : Nat := c.rlim n + 1 - c.rbase n

/-- Do two ranges overlap in VA. -/
def Ctx.rangesMeet (c : Ctx) (n m : Nat) : Bool := decide (c.rbase n ≤ c.rlim m) && decide (c.rbase m ≤ c.rlim n)

/-- Does an IA span of pages lie inside one enabled export entry of the world on a die (R353). -/
def State.exported (s : State) (c : Ctx) (die lo n : Nat) : Bool := !(s.exportsOf c.world c.part die lo n).isEmpty

/-- Does an IA span of pages lie inside one enabled window of the context. -/
def Ctx.windowed (c : Ctx) (lo n : Nat) : Bool :=
  (upFrom 0 8).any fun m => c.windowOn m && decide (field (c.reg (0x60 + 2 * m)) 16 36 ≤ lo)
    && decide (lo + n ≤ field (c.reg (0x61 + 2 * m)) 16 36 + 1)

/-- The region a lattice range declares (R265). -/
def Ctx.regionOf (c : Ctx) (n : Nat) (attr : BitVec 64) : Region :=
  { id := field attr 8 4, base := c.roff n * 65536, size := c.rpages n * 65536, ltype := field attr 4 4 }

/-- The checks of R265; answers the region table after it. -/
def Part.declare (p : Part) (r : Region) : Option (List Region) :=
  if 9 ≤ r.ltype then none
  else
    match findFirst (fun q => q.id == r.id) p.regions with
    | some q => if q == r then some p.regions else none
    | none =>
      if p.regions.any fun q => decide (q.base < r.base + r.size) && decide (r.base < q.base + q.size) then none
      else some (p.regions ++ [r])

/-- The checks of an SWRS that sets EN (R326, R353). -/
def State.rangeOk (s : State) (c : Ctx) (n : Nat) (attr : BitVec 64) : Bool :=
  let kind := field attr 1 3
  let lo := c.roff n
  let k := c.rpages n
  decide (c.rbase n ≤ c.rlim n)
  && (upFrom 0 16).all (fun m => m == n || !c.rangeEnabled m || !c.rangesMeet n m)
  && decide (kind ≤ 5)
  && (if kind == 2 then
        match (s.part c.part).phys (field attr 12 5) with
        | none => false
        | some e => s.exported c e lo k || (decide (0xFFFFFFFFF ≤ lo) && decide (lo + k ≤ 2 ^ 36))
      else c.windowed lo k)

/-- Is a thread held on the fetch of an address of a range. -/
def Team.fetchHeld (t : Team) (here : Nat → Bool) : Bool :=
  t.threads.any fun th => here th.pc.toNat && match th.status with
    | .waiting (.fetch _ _) => true
    | _ => false

/-- Does any agent still read, write or execute through a range of a context: an access or a side-log entry routed by it, a write on
its way,
a threshold load that waits at one of its cells, a held fetch, or an engine's record that waits (R326) (DEDUCED, log 40). -/
def State.rangeBusy (s : State) (c : Ctx) (n : Nat) : Bool :=
  let here (va : Nat) : Bool := decide (c.rbase n * 65536 ≤ va) && decide (va < (c.rlim n + 1) * 65536)
  let cell (ia : Nat) : Bool := decide (c.roff n ≤ ia / 65536) && decide (ia / 65536 < c.roff n + c.rpages n)
  (s.accs.any fun a => (s.wg a.wg).ctx == c.uid && !a.discarded && a.lanes.any fun x => here x.va)
    || (s.slog.any fun e => e.ctx == c.uid && here e.va)
    || (s.waiters.any fun y => y.cell && (s.wg y.wg).ctx == c.uid && cell y.ia)
    || (s.wgs.any fun w => w.ctx == c.uid && w.teams.any fun t => t.fetchHeld here)
    || (s.diesOf c.part).any (fun d => s.insideCode d (c.roff n * 65536) ((c.roff n + c.rpages n) * 65536))
    || (s.unacked.any fun u => (u.kind == 1 || u.kind == 2) && (s.wg u.wg).ctx == c.uid)
    || c.engines.any fun y => y.state == 2 && (y.awaits.map here).getD false

/-- Leaves a range: every translation whose code IA lies on its pages and read-only copies of them go (R317, R235). -/
def State.leaveRange (s : State) (c : Ctx) (n : Nat) : State :=
  let lo := c.roff n
  let hi := c.roff n + c.rpages n
  let s1 := (s.diesOf c.part).foldl (fun acc d => acc.dropCode d lo hi) s
  { s1 with roLines := s1.roLines.filter fun r => !(decide (lo ≤ r.iaPage) && decide (r.iaPage < hi)) }

/-- A write of RATTRn. -/
def State.writeRattr (s : State) (c : Ctx) (n : Nat) (x : BitVec 64) : CtlWrite :=
  let v := x &&& rangeBits 3
  let set (a : State) : State := a.modCtx c.uid fun y => { y with regs := spSet y.regs (0x23 + 4 * n) v }
  if c.rangeEnabled n then
    if v.getLsbD 0 then .done s stBusy
    else if 6 ≤ field v 1 3 then .done s stBadArg
    else if s.rangeBusy c n then .wait
    else .done ((set (s.leaveRange c n)).freeRegions c.part) stOk
  else if 6 ≤ field v 1 3 then .done s stBadArg
  else if !v.getLsbD 0 then .done (set s) stOk
  else if !s.rangeOk c n v then .done s stBadArg
  else if field v 1 3 == 1 then
    match (s.part c.part).declare (c.regionOf n v) with
    | none => .done s stBadArg
    | some rs =>
      let r := c.regionOf n v
      let s1 := set (s.modPart c.part fun p => { p with regions := rs })
      .done (if (s.part c.part).regions.contains r then s1
        else (s.diesOf c.part).foldl (State.newReplica · (s.part c.part).world r) s1) stOk
  else .done (set s) stOk

/-- A write of RBASEn, RLIMn or ROFFn. -/
def State.writeRange (s : State) (c : Ctx) (n k : Nat) (x : BitVec 64) : CtlWrite :=
  if c.rangeEnabled n then .done s stBusy
  else .done (s.modCtx c.uid fun y => { y with regs := spSet y.regs (0x20 + 4 * n + k) (x &&& rangeBits k) }) stOk

/-! ### The exchange schedule (R268 to R271, R275) -/

/-- Fields of an exchange entry. -/
def xPeer (x : BitVec 64) : Nat := field x 0 5
def xEn (x : BitVec 64) : Bool := x.getLsbD 7
def xPeriod (x : BitVec 64) : Nat := field x 16 16
/-- Fields of XBOUND. -/
def Die.minPer (d : Die) : Nat := field d.xbound 0 16
def Die.maxEnt (d : Die) : Nat := min 8 (field d.xbound 16 4)
def Die.peerAllowed (d : Die) (e : Nat) : Bool := d.xbound.getLsbD (32 + e)

/-- Is an enabled entry forbidden by the bounds. -/
def Die.forbids (d : Die) (x : BitVec 64) : Bool := !d.peerAllowed (xPeer x) || decide (xPeriod x < d.minPer)

/-- Marks every line of every region for an entry (R275). Lines marked at one time go in the order of the region table and of
ascending addresses, which R272 leaves open (DESIGN CHOICE, log 62). -/
def Die.markAll (d : Die) (e : Nat) (rs : List Region) : Die :=
  rs.foldl (fun acc r => (upFrom (r.base / 256) (r.size / 256)).foldl
    (fun a l => if a.marks.contains ⟨e, l⟩ then a else { a with marks := a.marks ++ [⟨e, l⟩] }) acc) d

/-- Clearing EN discards the entry's marks. -/
def Die.clearEntry (d : Die) (e : Nat) (v : BitVec 64) : Die :=
  { d with xsched := spSet d.xsched e v, xpending := d.xpending.filter fun y => y.1 != e,
           marks := d.marks.filter fun m => m.entry != e }

/-- A write of an exchange entry takes effect at its next boundary; it marks every line for the entry, and R275 does not say whether
at the write or at that boundary: here at the write (DESIGN CHOICE, log 62). -/
def Die.writeEntry (d : Die) (e : Nat) (v : BitVec 64) (rs : List Region) : Die :=
  if !xEn v then d.clearEntry e v
  else if d.xreg e == v then d
  else ({ d with xpending := (e, v) :: d.xpending.filter fun y => y.1 != e }).markAll e rs

/-- XSCHEDn (R271). -/
def State.writeXsched (s : State) (c : Ctx) (die n : Nat) (x : BitVec 64) : CtlWrite :=
  if c.auth != 1 then .refused
  else
    let d := s.die die
    let p := s.part c.part
    let v := x &&& xschedBits
    let others := countWhere (fun m => m != n && xEn (d.xreg m)) (upFrom 0 8)
    if xEn v && (some (xPeer v) == p.logicalOf die || d.forbids v || xPeriod v == 0 || decide (d.maxEnt < others + 1)) then
      .done s stBadArg
    else .done (s.modDie die fun y => y.writeEntry n v p.regions) stOk

/-- XBOUND: frozen by the lock whoever writes it (R181, R269, R375); else the entries the new bounds forbid are cleared (R271). -/
def State.writeXbound (s : State) (c : Ctx) (die : Nat) (x : BitVec 64) : CtlWrite :=
  if (s.part c.part).locked then .frozen
  else if c.auth == 1 then .trap
  else if c.auth == 2 then .refused
  else
    let off (d : Die) (n : Nat) : Die := d.clearEntry n (d.xreg n &&& ~~~0x80)
    .done (s.modDie die fun d0 =>
      let d1 := { d0 with xbound := x &&& 0xFFFFFFFF000FFFFF }
      let d2 := (upFrom 0 8).foldl (fun d n => if xEn (d.xreg n) && d.forbids (d.xreg n) then off d n else d) d1
      (((upFrom 0 8).filter fun n => xEn (d2.xreg n)).drop d2.maxEnt).foldl off d2) stOk

/-! ### Exports (R352) -/

/-- Is a span of pages covered by windows of a world: from a page on, as far as `fuel` windows reach. -/
def coveredBy (ws : List (Nat × Nat)) (fuel lo hi : Nat) : Bool :=
  match fuel with
  | 0 => decide (hi < lo)
  | k + 1 =>
    if hi < lo then true
    else match findFirst (fun w => decide (w.1 ≤ lo) && decide (lo ≤ w.2)) ws with
      | some w => coveredBy ws k (w.2 + 1) hi
      | none => false

/-- The world's windows (R327). -/
def State.worldWindows (s : State) (part : Nat) (world : BitVec 16) : List (Nat × Nat) :=
  (s.ctxs.filter fun c => c.part == part && c.world == world).flatMap fun c =>
    ((upFrom 0 8).filter c.windowOn).map fun m => (field (c.reg (0x60 + 2 * m)) 16 36, field (c.reg (0x61 + 2 * m)) 16 36)

/-- Does any enabled peer range of the partition lie in a span of pages of a die. -/
def State.imported (s : State) (part die lo hi : Nat) : Bool :=
  s.ctxs.any fun c => c.part == part && (upFrom 0 16).any fun n =>
    c.rangeEnabled n && field (c.rattr n) 1 3 == 2 && (s.part part).phys (field (c.rattr n) 12 5) == some die && decide (lo ≤ c.roff n) && decide (c.roff n + c.rpages n ≤ hi + 1)

/-- EXPBm or EXPLm. -/
def State.writeExport (s : State) (c : Ctx) (die i : Nat) (x : BitVec 64) : CtlWrite :=
  if c.auth != 1 then .refused
  else
    let m := (i - 0x90) / 2
    let b := c.expb die m
    let hi := field (c.expl die m) 16 36
    let lo := i % 2 == 0
    let v := x &&& (if lo then 0xFFFFFFFFF0003 else 0xFFFFFFFFF0000)
    let set : State := s.modCtx c.uid fun y => { y with regs := spSet y.regs (exportKey die i) v }
    if b.getLsbD 0 then
      if lo && !v.getLsbD 0 then
        if s.imported c.part die (field b 16 36) hi then .done s stBusy else .done set stOk
      else .done s stBusy
    else if lo && v.getLsbD 0 then
      let ws := s.worldWindows c.part c.world
      if decide (field v 16 36 ≤ hi) && coveredBy ws (ws.length + 1) (field v 16 36) hi then .done set stOk
      else .done s stBadArg
    else .done set stOk

/-! ### Partition and die registers -/

/-- DIEMAPn (R351). -/
def State.writeDiemap (s : State) (c : Ctx) (n : Nat) (x : BitVec 64) : CtlWrite :=
  let p := s.part c.part
  let v := x &&& 0x3F
  if c.auth != 0 then .refused
  else if p.locked then .frozen
  else if s.recs.any fun r => r.kind == .launch && r.state == 2 && (s.ctx r.ctx).part == c.part then .done s stBusy
  else if (s.die (field v 0 5)).part != some c.part || decide (24 ≤ field v 0 5)
      || (upFrom 0 24).any (fun m => m != n && p.phys m == some (field v 0 5))
      || (v.getLsbD 5 && n != 0 && (p.phys (n - 1)).isNone)
      || (!v.getLsbD 5 && (p.phys (n + 1)).isSome) then .done s stBadArg
  else .done (s.modPart c.part fun q => { q with diemap := spSet q.diemap n v }) stOk

/-- PTROOT: a write acts as a MAPSYNC of every page (R328); EVAC once the die drains (R364). -/
def State.writePtroot (s : State) (c : Ctx) (die : Nat) (x : BitVec 64) : CtlWrite :=
  if c.auth != 0 then .refused
  else if (s.die die).dstate != 0 then .done s (statusWord 3 0)
  else
    let s1 := s.modDie die fun d => { d with ptroot := x &&& 0xFFFFFFFFF0001 }
    if s1.publishWaits die 0 (2 ^ 36) then .wait
    else
    let r := s1.publish die 0 (2 ^ 36)
    if r.2 == stOk then .done r.1 stOk else .done s r.2

/-- FMTVn and FMTHn (R70): `i` is the register's index. -/
def State.writeFmt (s : State) (c : Ctx) (die i : Nat) (x : BitVec 64) : CtlWrite :=
  if c.auth != 1 then .refused
  else if (s.part c.part).locked then .frozen
  else
    let n := (i - 0x100) / 2
    let v := i % 2 == 0
    let iv := 0x100 + 2 * n
    let old := spGet (s.die die).fmt iv
    if old.getLsbD 0 then
      if v && !x.getLsbD 0 then
        .done ((s.leaveFormat die n).modDie die fun d => { d with fmt := spSet d.fmt iv (old &&& ~~~1) }) stOk
      else .done s stBusy
    else .done (s.modDie die fun d => { d with fmt := spSet d.fmt i (x &&& (if v then 0xFFFFFFFFF0001 else 0xFFFFFFFFFFFC0)) }) stOk

/-- The context whose group executes; 0 where none does. -/
def State.executing (s : State) : Nat :=
  match s.cur with
  | some g => (s.wg g.wg).ctx
  | none => 0
/-- Contexts with workgroups on a die, but for the one whose instruction has still to receive its result (R176). -/
def State.toSeal (s : State) (die : Nat) : List Nat :=
  (s.ctxs.filter fun c => c.uid != s.executing && s.wgs.any fun w => w.ctx == c.uid && w.die == die).map Ctx.uid
/-- The drain of a die starts: the contexts with workgroups on it are frozen and sealed; one that has no save area is held in an
image of no pages (R364) (DEDUCED, log 48). -/
def State.beginDrain (s : State) (die : Nat) : State :=
  let s1 := s.modDie die fun d => { d with dstate := 1, req := true }
  (s1.toSeal die).foldl (fun acc c => acc.sealNow c none) s1
/-- Is a workgroup frozen for an urgent context that has its core (R13). -/
def State.preempted (s : State) (w : Wg) : Bool :=
  !w.urgent && (s.die w.die).preempts.any fun p => p.core == w.core && p.victim == w.ctx && p.frozen
/-- Contexts paused by a drain continue: those frozen and bound to no core; one without a workgroup is idle (R364, R323). What
an urgent context has frozen stays so (R13). -/
def State.continuePaused (s : State) : State :=
  let cs := (s.ctxs.filter fun c => c.state == .frozen && c.bound == none && c.moving.isNone).map Ctx.uid
  let us := (s.wgs.filter fun w => cs.contains w.ctx && w.frozen && !s.preempted w).map Wg.uid
  let s1 := us.foldl State.thawWg s
  let after (a : State) (c : Nat) : CtxState :=
    if !a.wgs.any (fun w => w.ctx == c) then .idle
    else if (a.wgs.filter fun w => w.ctx == c).all Wg.frozen then .frozen
    else .running
  cs.foldl (fun acc c =>
    let st := after s1 c
    let bind := if st == .frozen then acc.soleCore c else none
    (acc.modCtx c fun x => { x with state := st, bound := bind }).pauseEngines c (st == .frozen)) s1
/-- A drain stops: the die is online again (R364). -/
def State.stopDrain (s : State) (die : Nat) : State :=
  let s1 := s.modDie die fun d =>
    { d with dstate := 0, req := false, paused := false, short := 0, published := d.published.map fun m => { m with copying := false } }
  if s1.dies.any Die.paused then s1 else s1.continuePaused

/-- DSTATE (R363). -/
def State.writeDstate (s : State) (c : Ctx) (die : Nat) (x : BitVec 64) : CtlWrite :=
  if c.auth != 0 then .trap
  else
    let d := s.die die
    if x.getLsbD 2 then
      if d.dstate == 0 then .done (s.beginDrain die) stOk
      else .done (s.modDie die fun y => { y with req := true }) stOk
    else if d.dstate == 1 then .done (s.stopDrain die) stOk
    else .done (s.modDie die fun y => { y with req := false }) stOk

/-- PRANK, PCAP, HALLGRP, HALLSEQ, HALLKEY (R376). -/
def State.writePcap (s : State) (c : Ctx) (x : BitVec 64) : CtlWrite :=
  if c.auth != 0 then .trap
  else if field x 16 16 < 8 || 1024 < field x 16 16 then .done s stBadArg
  else
    let s1 := s.seeCauses.modPart c.part fun p => { p with pcap := x &&& 0xFFFFFFFF }
    .done s1.rebudget.seeCauses stOk
def State.writePrank (s : State) (c : Ctx) (x : BitVec 64) : CtlWrite :=
  if c.auth != 0 then .trap
  else .done ((s.seeCauses.modPart c.part fun p => { p with prank := x.setWidth 4 }).rebudget.seeCauses) stOk
def State.writeHallkey (s : State) (c : Ctx) (n : Nat) (x : BitVec 64) : CtlWrite :=
  if c.auth != 0 then .refused
  else
    let k := mergeBits (onesAt 256 (64 * n) 64) s.hallkey ((x.setWidth 256) <<< (64 * n))
    .done { s with hallkey := k, hallseq := 0, cfgseq := 0 } stOk

/-- ENGHEAD and ENGSEQA (R194). -/
def State.writeEngine (s : State) (w : Wg) (e : Engine) (k : Nat) (x : BitVec 64) : CtlWrite :=
  if k == 2 then .trap
  else if x.toNat % (if k == 0 then 64 else 8) != 0 then .done s stBadArg
  else if (s.engFor w e).running then .done s stBusy
  else if k == 0 then
    let fresh (y : Eng) : Eng :=
      { y with head := x, seq := 0, state := 0, err := 0, last := none, next := none, completed := [], progress := 0,
               tails := [], due := none }
    .done (s.modEngFor w e fresh) stOk
  else .done (s.modEngFor w e fun y => { y with seqa := x }) stOk

/-- SWRS of an index: the operator may write, others are refused or trapped as their cells say (R21). -/
def opOnly (c : Ctx) (own aud : CtlWrite) (f : CtlWrite) : CtlWrite :=
  if c.auth == 0 then f else if c.auth == 1 then own else aud

/-- What SWRS of an index comes to (R181, R21). -/
def State.writeCtl (s : State) (g : Group) (w : Wg) (i : Nat) (x : BitVec 64) : CtlWrite :=
  let c := s.ctx w.ctx
  if i == 0x001 then .done (s.modCtx c.uid fun y => { y with lstat := mergeBits 0xFFFFFFFF00000000 y.lstat x }) stOk
  else if i == 0x002 then .done (s.modTeam g.wg g.team fun t => { t with waitlim := x }) stOk
  else if i == 0x004 then .done (s.modLanes g.wg g.team g.lanes fun _ th => { th with tepc := x &&& ~~~3 }) stOk
  else if i == 0x006 then opOnly c .trap .refused .refused
  else if 0x020 ≤ i && i < 0x060 then
    if i % 4 == 3 then s.writeRattr c ((i - 0x20) / 4) x else s.writeRange c ((i - 0x20) / 4) (i % 4) x
  else if 0x060 ≤ i && i < 0x070 then
    if c.auth == 1 && (s.part c.part).locked then .frozen else .refused
  else if i == 0x070 then s.writePtroot c w.die x
  else if i == 0x071 then
    if c.auth != 1 then .refused
    else if field x 0 2 == 3 then .done s stBadArg
    else .done (s.modCtx c.uid fun y => { y with regs := spSet y.regs 0x071 (x &&& 3) }) stOk
  else if 0x080 ≤ i && i < 0x088 then s.writeXsched c w.die (i - 0x080) x
  else if i == 0x088 then s.writeXbound c w.die x
  else if 0x090 ≤ i && i < 0x0A0 then s.writeExport c w.die i x
  else if 0x0A0 ≤ i && i < 0x0B8 then s.writeDiemap c (i - 0x0A0) x
  else if i == 0x0C8 then s.writeDstate c w.die x
  else if i == 0x0C9 then
    opOnly c .refused .refused (.done (s.modDie w.die fun d => { d with evachb := x &&& 0xFFFFFFFFF0000 }) stOk)
  else if i == 0x0CA then
    opOnly c .refused .refused (.done (s.modDie w.die fun d => { d with evachn := x &&& 0xFFFFFFFF }) stOk)
  else if i == 0x0D1 then s.writePrank c x
  else if i == 0x0D2 then s.writePcap c x
  else if i == 0x0D3 then opOnly c .refused .trap (.done { s with hallgrp := x.setWidth 5 } stOk)
  else if i == 0x0D4 then opOnly c .refused .trap .trap
  else if 0x0D8 ≤ i && i < 0x0DC then s.writeHallkey c (i - 0x0D8) x
  else if 0x100 ≤ i && i < 0x110 then s.writeFmt c w.die i x
  else
    match engineIndex i with
    | some (e, k) => s.writeEngine w e k x
    -- CTXID, TCAUSE, FRNEXT, CAPCAUSE, LINKST, RETCNT, IFST, XSTAT and the reserved indices trap; no other is listed
    | none => .trap

/-- SWRS by index. -/
def State.swrs (s : State) (d a : SReg) (i : Nat) (g : Group) (w : Wg) (t : Team) : State :=
  match s.writeCtl g w i (t.sreg a.toNat) with
  | .done s1 st => s1.status g w d.toNat st
  | .refused => s.refuse g w d.toNat
  | .trap => s.raiseGroup g.wg g.team g.lanes (plainTrap 0x01 0)
  | .frozen =>
    let s1 := s.enterError (s.ctx w.ctx).part
    if (s1.wg g.wg).uid == g.wg then s1.status g w d.toNat stFrozen else s1
  | .wait => s.park g (.waiting (.service false))

/-! ## The instructions -/

/-- SRDS. -/
def execSrds (d : SReg) (i : BitVec 12) (s : State) : Result := s.withGroup (s.srds d i.toNat)
/-- SWRS. -/
def execSwrs (d a : SReg) (i : BitVec 12) (s : State) : Result := s.withGroup (s.swrs d a i.toNat)
/-- FMTV_WRITE. -/
def execFmtvWrite (d a : SReg) (n : BitVec 3) (s : State) : Result := s.withGroup (s.swrs d a (0x100 + 2 * n.toNat))
/-- FMTH_WRITE. -/
def execFmthWrite (d a : SReg) (n : BitVec 3) (s : State) : Result := s.withGroup (s.swrs d a (0x101 + 2 * n.toNat))
/-- RATTR_WRITE. -/
def execRattrWrite (d a : SReg) (n : BitVec 4) (s : State) : Result := s.withGroup (s.swrs d a (0x023 + 4 * n.toNat))
/-- Place of a bound register in the four of a range. -/
def boundPlace : RangeBound → Nat
  | .base => 0 | .lim => 1 | .off => 2
/-- RANGE_BOUND_WRITE. -/
def execRangeBoundWrite (d a : SReg) (n : BitVec 4) (b : RangeBound) (s : State) : Result :=
  s.withGroup (s.swrs d a (0x020 + 4 * n.toNat + boundPlace b))
/-- WINDOW_WRITE. -/
def execWindowWrite (d a : SReg) (n : BitVec 4) (s : State) : Result := s.withGroup (s.swrs d a (0x060 + n.toNat))
/-- ENGHEAD_WRITE. -/
def execEngheadWrite (d a : SReg) (e : Engine) (s : State) : Result :=
  s.withGroup (s.swrs d a (0x010 + 4 * engineNumber e))
/-- ENGSEQA_WRITE. -/
def execEngseqaWrite (d a : SReg) (e : Engine) (s : State) : Result :=
  s.withGroup (s.swrs d a (0x011 + 4 * engineNumber e))
/-- XSCHED_WRITE. -/
def execXschedWrite (d a : SReg) (n : BitVec 3) (s : State) : Result := s.withGroup (s.swrs d a (0x080 + n.toNat))
/-- XBOUND_WRITE. -/
def execXboundWrite (d a : SReg) (s : State) : Result := s.withGroup (s.swrs d a 0x088)
/-- XSTAT_READ. -/
def execXstatRead (d : SReg) (s : State) : Result := s.withGroup (s.srds d 0x089)
/-- DIEMAP_WRITE. -/
def execDiemapWrite (d a : SReg) (n : BitVec 5) (s : State) : Result := s.withGroup (s.swrs d a (0x0A0 + n.toNat))
/-- EXPB_WRITE. -/
def execExpbWrite (d a : SReg) (n : BitVec 4) (s : State) : Result := s.withGroup (s.swrs d a (0x090 + n.toNat))
/-- PTROOT_WRITE. -/
def execPtrootWrite (d a : SReg) (s : State) : Result := s.withGroup (s.swrs d a 0x070)
/-- PLPOL_WRITE. -/
def execPlpolWrite (d a : SReg) (s : State) : Result := s.withGroup (s.swrs d a 0x071)
/-- HALLKEY_WRITE. -/
def execHallkeyWrite (d a : SReg) (n : BitVec 2) (s : State) : Result := s.withGroup (s.swrs d a (0x0D8 + n.toNat))
/-- PCAP_WRITE. -/
def execPcapWrite (d a : SReg) (s : State) : Result := s.withGroup (s.swrs d a 0x0D2)
/-- DSTATE_WRITE. -/
def execDstateWrite (d a : SReg) (s : State) : Result := s.withGroup (s.swrs d a 0x0C8)
/-- EVACHN_WRITE. -/
def execEvachnWrite (d a : SReg) (s : State) : Result := s.withGroup (s.swrs d a 0x0CA)
/-- CAPCAUSE_READ. -/
def execCapcauseRead (d : SReg) (s : State) : Result := s.withGroup (s.srds d 0x008)

end Sys2Proof.Machine
end

