-- ==== Sys2Proof/Machine/Engine.lean ====
section
/-!
DEFINITION. The engines: command records (R192), the targets an engine address names (R193), and the work of one record of a
chain (R195, R231, R258, R357).
-/
namespace Sys2Proof.Machine

/-! ## Records (R192) -/

/-- An engine command record. -/
structure EngRec where
  opc : Nat
  acq : Bool
  ascope : Nat
  rel : Bool
  rscope : Nat
  wcol : Nat
  dtype : Nat
  next : Nat
  src : Nat
  dst : Nat
  len : Nat
  spitch : Nat
  dpitch : Nat
  rows : Nat
  root : Nat
  idx : Nat
  /-- The reserved fields are zero. -/
  zero : Bool
  deriving DecidableEq, Repr

/-- The record of 64 bytes. -/
def EngRec.of (x : Nat) : EngRec :=
  { opc := bitsOf x 0 8, acq := bitsOf x 8 1 == 1, ascope := bitsOf x 9 3, rel := bitsOf x 12 1 == 1,
    rscope := bitsOf x 13 3, wcol := bitsOf x 16 3, dtype := bitsOf x 24 4, next := bitsOf x 64 64,
    src := bitsOf x 128 64, dst := bitsOf x 192 64, len := bitsOf x 256 64, spitch := bitsOf x 320 32,
    dpitch := bitsOf x 352 32, rows := bitsOf x 384 32, root := bitsOf x 416 8, idx := bitsOf x 448 64,
    zero := bitsOf x 19 5 == 0 && bitsOf x 28 36 == 0 && bitsOf x 424 24 == 0 }

/-- Does an engine have an operation. -/
def engineHas (e : Engine) (opc : Nat) : Bool :=
  match e with
  | .copy => opc == 0x01 || opc == 0x02
  | .gather => opc == 0x10 || opc == 0x11
  | .collective => decide (0x20 ≤ opc) && decide (opc ≤ 0x23)

/-- Is the destination a queue (R193). -/
def EngRec.toQueue (r : EngRec) : Bool := r.dst / 2 ^ 62 == 3
/-- Does the record of a gather engine have an element size. -/
def elemSize (n : Nat) : Bool := n == 4 || n == 8 || n == 16 || n == 32

/-- The check of a record's fields: ERR of R194, 0 none. A queue as the DST of a scatter or a collective is ERR 2, an element size
other than 4, 8, 16 and 32 is ERR 5, an IDX that is no multiple of 4 is ERR 1; ERR 5 is looked for before 6 and 6 before 1
(DESIGN CHOICE, log 39). -/
def EngRec.check (r : EngRec) (e : Engine) (ndie : Nat) : Nat :=
  if !engineHas e r.opc || (r.acq && decide (5 < r.ascope)) || (r.rel && decide (5 < r.rscope))
    || (e == .collective && decide (3 < r.dtype)) || (e == .gather && !elemSize r.spitch)
    || (r.opc == 0x23 && (!r.rows.testBit r.root || decide (ndie ≤ r.root)))
    || (e == .collective && decide (2 ^ ndie ≤ r.rows)) then 5
  else if !r.zero then 6
  else if r.src % 16 != 0 || (!r.toQueue && r.dst % 16 != 0) || r.len % 16 != 0
    || (r.opc == 0x02 && (r.spitch % 16 != 0 || r.dpitch % 16 != 0)) || (e == .gather && r.idx % 4 != 0) then 1
  else if r.toQueue && (r.opc == 0x11 || e == .collective) then 2
  else 0

/-! ## Targets (R193) -/

/-- Why a record's work ends or waits. -/
inductive EngHalt where
  /-- It stops with an ERR code; the access's VA and IA, and whether it writes. -/
  | stop (err va ia : Nat) (write : Bool)
  /-- A page is not published. -/
  | page (va : Nat)
  /-- What it needs is not there yet: a link, a peer workgroup, a scrub. -/
  | later
  /-- It would consume a poisoned word, at a VA and IA; a page, or none of scratch. -/
  | poison (home va ia : Nat) (cell : Bool)
  deriving DecidableEq, Repr

/-- A place an engine reads or writes. -/
inductive EngSpot where
  | mem (kind : RangeKind) (ltype home ia key va : Nat)
  | cell (u off : Nat)
  deriving DecidableEq, Repr

/-- Where an engine works: context, workgroup of the chain, die and cluster. -/
structure EngAt where
  ctx : Ctx
  wg : Wg
  die : Nat
  cluster : Nat
  /-- The collective engine serves the die and does not see one cluster's cache. -/
  whole : Bool
  res : List Nat
  deriving DecidableEq, Repr

/-- Is a core's write on its way from a die in the channel that an engine's write to a key takes, and so comes before it (R354). -/
def State.sentBefore (s : State) (die : Nat) (kind : RangeKind) (key : Nat) : Bool :=
  let n := if kind == .peer then 1 else if kind == .host then 2 else 0
  n != 0 && s.unacked.any fun u => u.kind == n && u.die == die && keyDie u.key == keyDie key

/-- The spot that a global address names. A write to a lattice range is compared with the cell, which it so consumes (R237). -/
def State.globalSpot (s : State) (x : EngAt) (va n : Nat) (write : Bool) : Except EngHalt EngSpot :=
  match x.ctx.hit va n with
  | none => .error (.stop 2 va 0 write)
  | some h =>
    let home := if h.kind == .peer then listGet 31 x.res h.pdie else x.die
    if decide (messageBase ≤ h.ia) || (write && h.kind == .code)
      || (write && h.kind == .lattice && n % unitBytes h.ltype != 0) then .error (.stop 2 va h.ia write)
    else if !s.linked h.kind x.die home h.ia then .error .later
    else
      match s.verdict home h.ia x.ctx.world h.kind (if write then .write else .read) with
      | .page => .error (.page va)
      | .own => .error (.stop 3 va h.ia write)
      | .waiting => .error .later
      | .mapped =>
        let view := s.viewVerdict h.kind (if write then .write else .read) home h.ia x.ctx.world
        if view == .own then .error (.stop 3 va h.ia write)
        else if view == .waiting then .error .later
        else if h.kind == .peer && write && s.exportRo x.ctx home va then .error (.stop 3 va h.ia write)
        else
          match s.keyOf home h.ia with
          | none => .error (.page va)
          | some k =>
            if write && s.sentBefore x.die h.kind k then .error .later
            else if (!write || h.kind == .lattice) && s.spoiled h.kind home h.ia x.ctx.world k n then .error (.poison home va h.ia false)
            else .ok (.mem h.kind h.ltype home h.ia k va)

/-- The spot that an engine address names, `delta` bytes on. -/
def State.engineSpot (s : State) (x : EngAt) (base delta n : Nat) (write : Bool) : Except EngHalt EngSpot :=
  match base / 2 ^ 62 with
  | 2 =>
    match s.scratchTarget x.wg (BitVec.ofNat 64 base) delta n with
    | .fault 0x06 => .error (.stop 1 base 0 write)
    | .fault _ => .error (.stop 2 base 0 write)
    | .absent _ => .error .later
    | .at u off =>
      if !write && (s.wg u).scratchPoisoned off n then .error (.poison x.die (base + delta) 0 true) else .ok (.cell u off)
  | 3 => .error (.stop 2 base 0 write)
  | _ => s.globalSpot x ((base + delta) % 2 ^ 64) n write

/-- Reads bytes of device memory as views and the caches give them, sector by sector. -/
def State.engineRead (s : State) (x : EngAt) (kind : RangeKind) (home ia key n : Nat) : State × Nat :=
  (upFrom 0 ((n + 31) / 32)).foldl (fun (acc : State × Nat) i =>
    let a := ia + 32 * i
    let m := min 32 (n - 32 * i)
    let r := match acc.1.viewFill kind home a x.ctx.world with
      | some (s1, v) => (s1, sectorBytes v a m)
      | none => if x.whole then acc.1.l2Read (key + 32 * i) m else acc.1.noccLoad x.die x.cluster (key + 32 * i) m
    (r.1, acc.2 + r.2 * 2 ^ (256 * i))) (s, 0)

/-- Reads a spot. -/
def State.spotRead (s : State) (x : EngAt) (p : EngSpot) (n : Nat) : State × Nat :=
  match p with
  | .cell u off => (s, readLE (s.wg u).scratch off n)
  | .mem kind _ home ia key _ =>
    match kind with
    | .lattice => (s, readLE s.mem key n)
    | .host => s.l2Read key n
    | k => s.engineRead x k home ia key n

/-- The record of a store that an engine's lattice write drops (R133). -/
def State.engineNonMono (s : State) (x : EngAt) (rec_ va ia data : Nat) : State :=
  s.ownerRecord x.ctx.uid
    { code := 0x0D, nopc := true, kind := 7, vpc := rec_, va := va, ia := ia, ldie := x.wg.ldie, lcore := x.wg.lcore,
      wgid := x.wg.wgid, data := data }

/-- Writes a spot. A lattice cell takes each join unit on its own. -/
def State.spotWrite (s : State) (x : EngAt) (rec_ : Nat) (p : EngSpot) (n v : Nat) : State :=
  match p with
  | .cell u off => s.scratchWrite u off n v
  | .mem kind ltype home ia key va =>
    match kind with
    | .lattice =>
      let u := unitBytes ltype
      (upFrom 0 (n / u)).foldl (fun acc i =>
        let y := (v / 2 ^ (8 * u * i)) % 2 ^ (8 * u)
        if unitDropped ltype (readLE acc.mem (key + u * i) u) y then acc.engineNonMono x rec_ (va + u * i) (ia + u * i) y
        else acc.latticeWrite home (ia + u * i) (key + u * i) u y) s
    | .host => s.l2Write key n v
    | _ => if x.whole then s.l2Write key n v else s.throughStore x.die x.cluster key n v

/-! ## Copy and gather -/

/-- One piece of a move: bases, displacements and size. -/
structure Piece where
  src : Nat
  sd : Nat
  dst : Nat
  dd : Nat
  n : Nat
  deriving DecidableEq, Repr

/-- Pieces of at most 16 bytes of `len` bytes. -/
def piecesOf (src sd dst dd len : Nat) : List Piece :=
  let m := min 16 len
  if m == 0 then [] else (upFrom 0 (len / m)).map fun i => ⟨src, sd + m * i, dst, dd + m * i, m⟩

/-- The pieces of a record; `ix` holds the indices of a gather or scatter. -/
def EngRec.pieces (r : EngRec) (ix : List Nat) : List Piece :=
  let e := r.spitch
  match r.opc with
  | 0x01 => piecesOf r.src 0 r.dst 0 r.len
  | 0x02 => (upFrom 0 r.rows).flatMap fun i => piecesOf r.src (i * r.spitch) r.dst (i * r.dpitch) r.len
  | 0x10 => (mapIdxFrom (fun i j => piecesOf r.src (j * e) r.dst (i * e) e) 0 ix).flatten
  | 0x11 => (mapIdxFrom (fun i j => piecesOf r.src (i * e) r.dst (j * e) e) 0 ix).flatten
  | _ => []

/-- The index list of a gather or scatter. -/
def State.indices (s : State) (x : EngAt) (r : EngRec) : Except EngHalt (List EngSpot) :=
  if r.opc == 0x10 || r.opc == 0x11 then (upFrom 0 r.len).mapM fun i => s.engineSpot x r.idx (4 * i) 4 false else .ok []

/-- Reads a list of spots of one size. -/
def State.readSpots (s : State) (x : EngAt) (ps : List (EngSpot × Nat)) : State × List Nat :=
  ps.foldl (fun acc p => let r := acc.1.spotRead x p.1 p.2; (r.1, acc.2 ++ [r.2])) (s, [])

/-- Do two spans of addresses meet. -/
def spansMeet (a n b m : Nat) : Bool := decide (a < b + m) && decide (b < a + n)
/-- Bytes old or new in an overlap, as the machine takes them (R192; DESIGN CHOICE, log 16). -/
def mixBytes (draw n old new : Nat) : Nat :=
  (upFrom 0 n).foldl (fun acc i =>
    let b (v : Nat) : Nat := v / 2 ^ (8 * i) % 256
    acc + (if Config.free (draw + i) % 2 == 1 then b old else b new) * 2 ^ (8 * i)) 0

/-- Does a piece's destination lie in some piece's source. -/
def Piece.overlapped (p : Piece) (ps : List Piece) : Bool :=
  ps.any fun q => spansMeet (p.dst + p.dd) p.n (q.src + q.sd) q.n

/-- Moves data into the destinations of pieces. -/
def State.writePieces (s : State) (x : EngAt) (rec_ : Nat) (ps : List Piece) (ws : List (Piece × EngSpot × Nat)) : State :=
  ws.foldl (fun acc w =>
    if w.1.overlapped ps then
      let old := (acc.spotRead x w.2.1 w.1.n).2
      (acc.spotWrite x rec_ w.2.1 w.1.n (mixBytes (acc.draws * 16) w.1.n old w.2.2)).drawn
    else acc.spotWrite x rec_ w.2.1 w.1.n w.2.2) s

/-- Does an address of a record lie on a message page. -/
def EngAt.onMessagePage (x : EngAt) (va : Nat) : Bool :=
  decide (va < 2 ^ 63) && match x.ctx.hit va 1 with
    | some h => h.kind != .host && decide (messageBase ≤ h.ia)
    | none => false

/-- A tagged message (R357): the target, when the record's destination is a message page. -/
def EngRec.message (r : EngRec) (x : EngAt) : Option Nat :=
  if r.dst / 2 ^ 63 == 1 then none
  else match x.ctx.hit r.dst 16 with
    | some h => if h.kind == .peer && decide (messageBase ≤ h.ia) && r.opc == 0x01 && r.len == 256
        then some (listGet 31 x.res h.pdie) else none
    | none => none

/-! ## Collectives (R192; DESIGN CHOICE, log 17) -/

/-- The element operation of a DTYPE. -/
def collectiveOp (t : Nat) : AtomOp :=
  match t with
  | 0 => .fadd | 1 => .add | 2 => .maxN | _ => .fmax

/-- Removes the element at an index. -/
def dropAt {α : Type} (l : List α) (n : Nat) : List α := l.take n ++ l.drop (n + 1)

/-- Combines values in an order and a grouping that the machine chooses. -/
def combineFree (op : AtomOp) (draw fuel : Nat) (xs : List Nat) : Nat :=
  match fuel with
  | 0 => xs.headD 0
  | k + 1 =>
    if xs.length ≤ 1 then xs.headD 0
    else
      let i := Config.free (draw + 2 * k) % xs.length
      let rest := dropAt xs i
      let j := Config.free (draw + 2 * k + 1) % rest.length
      combineFree op draw k (atomNew op 32 (listGet 0 xs i) (listGet 0 rest j) :: dropAt rest j)

/-- The logical dies of the group. -/
def EngRec.group (r : EngRec) : List Nat := (upFrom 0 24).filter fun l => r.rows.testBit l

/-- 32-bit elements over the LEN bytes of each die, combined. -/
def reduceAll (r : EngRec) (draw : Nat) (data : List (List Nat)) : List Nat :=
  (upFrom 0 (r.len / 4)).map fun e =>
    combineFree (collectiveOp r.dtype) (draw + 64 * e) data.length (data.map fun d => listGet 0 d e)

/-- What the die of rank k receives, as 32-bit elements; a reduce-scatter cuts its shares at ⌊k·n/m⌋ (DESIGN CHOICE, log 17). -/
def collectiveResult (r : EngRec) (draw : Nat) (data : List (List Nat)) (k : Nat) : List Nat :=
  let m := data.length
  let n := r.len / 4
  match r.opc with
  | 0x20 => reduceAll r draw data
  | 0x21 => ((reduceAll r draw data).drop (k * n / m)).take ((k + 1) * n / m - k * n / m)
  | 0x22 => data.flatten
  | _ => listGet [] data (countWhere (fun l => decide (l < r.root)) r.group)

/-- Elements each die receives. -/
def collectiveSize (r : EngRec) (m k : Nat) : Nat :=
  let n := r.len / 4
  match r.opc with
  | 0x21 => (k + 1) * n / m - k * n / m
  | 0x22 => n * m
  | _ => n

/-- The engine as it stands on another die of the group. -/
def EngAt.on (x : EngAt) (d : Nat) : EngAt := { x with die := d }
def EngRec.diesOf (r : EngRec) (x : EngAt) : List Nat := r.group.map fun l => listGet 31 x.res l

/-- A collective is performed. -/
def State.collectiveWork (s : State) (x : EngAt) (rec_ : Nat) (r : EngRec) : Except EngHalt State := do
  let ds := r.diesOf x
  if ds.any fun d => !s.carries x.die d then .error .later
  let srcs ← ds.mapM fun d => (upFrom 0 (r.len / 4)).mapM fun i => s.engineSpot (x.on d) r.src (4 * i) 4 false
  let dsts ← (mapIdxFrom (fun k d => (k, d)) 0 ds).mapM fun kd =>
    (upFrom 0 (collectiveSize r ds.length kd.1)).mapM fun i => s.engineSpot (x.on kd.2) r.dst (4 * i) 4 true
  let rd := srcs.foldl (fun (acc : State × List (List Nat)) ps =>
    let q := acc.1.readSpots x (ps.map fun p => (p, 4))
    (q.1, acc.2 ++ [q.2])) (s, [])
  let out := mapIdxFrom (fun k ps => List.zip ps (collectiveResult r (s.draws * 2 ^ 40) rd.2 k)) 0 dsts
  .ok ((out.flatten.foldl (fun acc pv => acc.spotWrite x rec_ pv.1 4 pv.2) rd.1).drawn)

/-! ## One record (R195) -/

/-- The engine stops in STATE 3 with an ERR code: its queue loses the producer it was, and its tails go. -/
def State.engineQuit (s : State) (x : EngAt) (e : Engine) (err : Nat) : State :=
  let s1 := match ((s.ctx x.ctx.uid).eng e x.die x.cluster).producer with
    | some n => s.modWg x.wg.uid fun w => w.modQueue n fun z => { z with engineProducers := z.engineProducers - 1 }
    | none => s
  s1.modEng x.ctx.uid e x.die x.cluster fun y => { y with state := 3, err := err, producer := none, progress := 0, next := none, awaits := none,
                                                          tails := [], due := none, finishing := false }
/-- What an owner record of an engine says of its place (R333): the die, core and workgroup of the team whose ETAIL started the
chain. -/
def EngAt.place (x : EngAt) (o : OwnerInfo) : OwnerInfo :=
  { o with nopc := true, kind := 7, ldie := x.wg.ldie, lcore := x.wg.lcore, wgid := x.wg.wgid }
/-- An engine stops on an error: its owner record, with OWN an operator record too, and its ERR code (R194, R195). -/
def State.engineStop (s : State) (x : EngAt) (e : Engine) (rec_ err va ia : Nat) (write : Bool) : State :=
  let code := if err == 1 then 0x06 else if err == 2 then 0x07 else 0x08
  let s1 := if err ≤ 3 then s.ownerRecord x.ctx.uid (x.place { code := code, vpc := rec_, va := va, ia := ia }) else s
  let s2 := if err == 3 then s1.operatorRecord x.die x.ctx.uid (bit1 write) 2 1 (ia / 65536) else s1
  s2.engineQuit x e err

/-- A page is awaited: STATE 2; the rules name no record for it (R195, R332; DEDUCED, log 26). -/
def State.enginePage (s : State) (x : EngAt) (e : Engine) (va : Nat) : State :=
  s.modEng x.ctx.uid e x.die x.cluster fun y => { y with state := 2, awaits := some va }

/-- The sequence word of a record that has been performed is written; the chain ends, breaks or goes on. -/
def State.engineSeq (s : State) (x : EngAt) (e : Engine) (rec_ next : Nat) : Except EngHalt State := do
  let y := x.ctx.eng e x.die x.cluster
  let p ← s.globalSpot x y.seqa.toNat 8 true
  let r := BitVec.ofNat 64 rec_
  let ends := r == y.tail
  let s1 := (s.spotWrite x rec_ p 8 y.seq.toNat).modEng x.ctx.uid e x.die x.cluster fun z =>
    { z with last := some r, next := if ends then none else some (BitVec.ofNat 64 next), completed := z.completed ++ [r],
             state := if ends then 0 else 1, awaits := none, due := none, finishing := false,
             tails := z.tails.filter fun q => q.2 != r }
  .ok (if !ends && next == 0 then s1.engineStop x e rec_ 4 0 0 false else s1)

/-- A record has been performed: the sequence count rises, and the record's sequence word is due. -/
def State.engineDone (s : State) (x : EngAt) (e : Engine) (rec_ next : Nat) : State :=
  let s1 := match (x.ctx.eng e x.die x.cluster).producer with
    | some q => s.modWg x.wg.uid fun w => w.modQueue q fun z => { z with engineProducers := z.engineProducers - 1 }
    | none => s
  s1.modEng x.ctx.uid e x.die x.cluster fun z =>
    { z with seq := z.seq + 1, state := 1, progress := 0, producer := none, awaits := none, due := some (rec_, next) }

/-- Bytes of all the sources, in order, as slots of `w` bytes. -/
def slotsOf (w : Nat) (ns : List (Nat × Nat)) : List Nat :=
  let all := ns.flatMap fun x => (upFrom 0 x.1).map fun i => x.2 / 2 ^ (8 * i) % 256
  (upFrom 0 (all.length / w)).map fun i => fromUnits 1 ((all.drop (i * w)).take w)

/-- A record whose destination is a queue: it fills slots while there are free ones; done, or it waits. -/
def State.queueWork (s : State) (x : EngAt) (e : Engine) (r : EngRec) (ix : List Nat) : Except EngHalt (State × Bool) := do
  let n := r.dst % 16
  let q := x.wg.queue n
  if !q.opened then .error (.stop 2 r.dst 0 false)
  let ps := r.pieces ix
  let bytes := ps.foldl (fun a p => a + p.n) 0
  if bytes % q.width != 0 then .error (.stop 1 r.dst 0 false)
  let spots ← ps.mapM fun p => s.engineSpot x p.src p.sd p.n false
  let rd := s.readSpots x (List.zip spots (ps.map Piece.n))
  let slots := slotsOf q.width (List.zip (ps.map Piece.n) rd.2)
  let y := x.ctx.eng e x.die x.cluster
  let now := (slots.drop y.progress).take q.free
  let full := decide (y.progress + now.length < slots.length)
  if now.isEmpty && full && y.state == 2 && y.awaits == some r.src then .error .later
  let s1 := rd.1.modWg x.wg.uid fun w => w.modQueue n fun z => { z with slots := z.slots ++ now }
  .ok (s1.modEng x.ctx.uid e x.die x.cluster fun z =>
    { z with progress := y.progress + now.length, state := if full then 2 else z.state,
             awaits := if full then some r.src else none }, !full)

/-- Copy, 2-D copy, gather and scatter between memory and scratch. -/
def State.moveWork (s : State) (x : EngAt) (rec_ : Nat) (r : EngRec) (ix : List Nat) : Except EngHalt State := do
  let ps := r.pieces ix
  match r.message x with
  | some target =>
    if !s.carries x.die target then .error .later
    let spots ← ps.mapM fun p => s.engineSpot x p.src p.sd p.n false
    let rd := s.readSpots x (List.zip spots (ps.map Piece.n))
    .ok { rd.1 with msgs := rd.1.msgs ++ [{ source := x.die, target := target, world := x.ctx.world,
                                            payload := BitVec.ofNat 2048 (fromUnits 16 rd.2) }] }
  | none =>
    let srcs ← ps.mapM fun p => s.engineSpot x p.src p.sd p.n false
    let dsts ← ps.mapM fun p => s.engineSpot x p.dst p.dd p.n true
    let rd := s.readSpots x (List.zip srcs (ps.map Piece.n))
    .ok (rd.1.writePieces x rec_ ps (List.zip ps (List.zip dsts rd.2)))

/-- Reads a record: 64 bytes, 64-aligned, in a plain range. -/
def State.readEngRec (s : State) (x : EngAt) (a : Nat) : Except EngHalt (State × EngRec) := do
  if a % 64 != 0 then .error (.stop 1 a 0 false)
  if 2 ^ 63 ≤ a then .error (.stop 2 a 0 false)
  let p ← s.globalSpot x a 64 false
  match p with
  | .mem .plain _ _ _ _ _ =>
    let r := s.spotRead x p 64
    .ok (r.1, EngRec.of r.2)
  | _ => .error (.stop 2 a 0 false)

/-- The record an engine works next: HEAD, or NEXT of the last completed record, read again when the loop starts (R195). -/
def State.nextRecord (s : State) (x : EngAt) (y : Eng) : Except EngHalt Nat :=
  match y.next, y.last with
  | some n, _ => .ok n.toNat
  | none, none => .ok y.head.toNat
  | none, some l => do
    let r ← s.readEngRec x l.toNat
    .ok r.2.next

/-- The error of a record's fields; a record that names a message page in any form but a message's is ERR 2, whatever else is wrong
with it (R357). -/
def EngRec.error (r : EngRec) (e : Engine) (x : EngAt) : Nat :=
  if x.onMessagePage r.src || (x.onMessagePage r.dst && (r.message x).isNone) then 2
  else r.check e x.res.length

/-- The work of one record: the state after it, its NEXT, and whether it was performed. -/
def State.engineWork (s : State) (x : EngAt) (e : Engine) (a : Nat) : Except EngHalt (State × Nat × Bool) := do
  let (s1, r) ← s.readEngRec x a
  let bad := r.error e x
  if bad != 0 then .error (.stop bad a 0 false)
  let ixs ← s1.indices x r
  let (s2, ix) := s1.readSpots x (ixs.map fun p => (p, 4))
  if r.toQueue then
    let (s3, done) ← s2.queueWork x e r ix
    .ok (s3, r.next, done)
  else if e == .collective then
    let s3 ← s2.collectiveWork x a r
    .ok (s3, r.next, true)
  else
    let s3 ← s2.moveWork x a r ix
    .ok (s3, r.next, true)

/-- While the engine works a record whose DST is a queue it counts as a producer of it (R193), from its checks on. -/
def State.engineEnter (s : State) (x : EngAt) (e : Engine) (a : Nat) : State :=
  match s.readEngRec x a with
  | .ok (_, r) =>
    let n := r.dst % 16
    if (x.ctx.eng e x.die x.cluster).producer.isSome || !r.toQueue || r.error e x != 0 || !(x.wg.queue n).opened then s
    else (s.modWg x.wg.uid fun w => w.modQueue n fun z => { z with engineProducers := z.engineProducers + 1 }).modEng
      x.ctx.uid e x.die x.cluster fun z => { z with producer := some n }
  | .error _ => s

/-- Where an engine of a context works. -/
def State.engAt (s : State) (c : Nat) (y : Eng) : EngAt :=
  let w := s.wg y.wg
  { ctx := s.ctx c, wg := w, die := y.die, cluster := y.cluster, whole := y.e == .collective,
    res := (s.record w.launch).resolution }

/-- How a record that did not complete leaves the engine; none where nothing can be done now. -/
def State.engineHalt (s : State) (x : EngAt) (e : Engine) (a : Nat) (h : EngHalt) : Option State :=
  match h with
  | .stop err va ia write => some (s.engineStop x e a err va ia write)
  | .page va =>
    if (x.ctx.eng e x.die x.cluster).state == 2 then none else some (s.enginePage x e va)
  | .later => none
  | .poison home va ia cell =>
    -- the engine does not receive the word: it stops, with no ERR code that the spec would give (DESIGN CHOICE, log 33)
    some ((s.dataError x.ctx.uid home 0 (if cell then 0 else ia / 65536) 1
      (x.place { code := 0x0E, vpc := a, va := va, ia := if cell then Config.registerClass 3 else ia })).engineQuit x e 0)

/-- ENGINE_RECORD: the engine works the next record of its chain; none where nothing can be done now (DEDUCED, log 38)
(DESIGN CHOICE, log 39). -/
def State.engineStep (s : State) (c : Nat) (e : Engine) (die cl : Nat) : Option State :=
  let y := (s.ctx c).eng e die cl
  let x := s.engAt c y
  let seq (s1 : State) (a next : Nat) : Option State :=
    let x1 := s1.engAt c ((s1.ctx c).eng e die cl)
    match s1.engineSeq x1 e a next with
    | .ok s2 => some s2
    | .error h => s1.engineHalt x1 e a h
  if !y.running || (y.paused && !y.finishing) then none
  else
    match y.due, s.nextRecord x y with
    | some (a, next), _ => seq s a next
    | none, .error h => s.engineHalt x e (y.last.getD 0).toNat h
    | none, .ok a =>
      if a == 0 && y.last.isSome then some (s.engineStop x e a 4 0 0 false)
      else
        let s0 := s.engineEnter x e a
        let y0 := (s0.ctx c).eng e die cl
        let x0 := s0.engAt c y0
        match s0.engineWork x0 e a with
        | .ok (s1, next, done) =>
          if done then
            let s2 := s1.engineDone (s1.engAt c ((s1.ctx c).eng e die cl)) e a next
            some ((seq s2 a next).getD s2)
          else some s1
        | .error h => (s0.engineHalt x0 e a h).or (if y.producer == y0.producer then none else some s0)

end Sys2Proof.Machine
end

