-- ==== Sys2Proof/Decode.lean ====
section
/-!
DEFINITION. The decoder of R40 to R42 and R44, total on words and on bytes, and after it the encoder. A word that is no
instruction is rejected by the name of its row in R44. The four GREG forms have no bits in spec/opcode_table.json and
are decoded as R41 gives them.
-/
namespace Sys2Proof

/-- Why a word is a non-instruction: the rows of R44 that bear on the word alone. -/
inductive DecodeError where
  /-- A reserved major opcode. -/
  | reservedOpcode
  /-- A reserved minor, condition, mode, kind, level, engine, type or size code. -/
  | reservedCode
  /-- A nonzero field that R40, R41 or R42 calls zero. -/
  | nonzeroField
  /-- A source selector that the form forbids. -/
  | badSelector
  /-- A register number or index out of range or misaligned for its group. -/
  | badRegister
  /-- Fewer than four bytes. -/
  | truncated
  deriving DecidableEq, Repr

/-- What the decoder answers. -/
inductive Decoded where
  | instr (i : Instr)
  | nonInstr (e : DecodeError)
  deriving DecidableEq, Repr

/-- The instruction, where the word is one. -/
def Decoded.instr? : Decoded → Option Instr
  | .instr i => some i
  | .nonInstr _ => none

/-- Goes on when a condition of the encoding holds. -/
def Decoded.need (c : Bool) (e : DecodeError) (k : Decoded) : Decoded :=
  match c with
  | true => k
  | false => .nonInstr e

/-- Goes on with the meaning of a code, when it has one. -/
def Decoded.code {α : Type} (o : Option α) (k : α → Decoded) : Decoded :=
  match o with
  | some x => k x
  | none => .nonInstr .reservedCode

/-! The fields of a word, by their bits (R33, R38). -/

/-- Bits [31:31]. -/
def wS (w : Word) : BitVec 1 := w.extractLsb' 31 1
/-- Bits [30:30]. -/
def wM1 (w : Word) : BitVec 1 := w.extractLsb' 30 1
/-- Bits [29:24]. -/
def wOp (w : Word) : BitVec 6 := w.extractLsb' 24 6
/-- Bits [23:18]. -/
def wD (w : Word) : BitVec 6 := w.extractLsb' 18 6
/-- Bits [17:10]. -/
def wA (w : Word) : BitVec 8 := w.extractLsb' 10 8
/-- Bits [9:2]. -/
def wB (w : Word) : BitVec 8 := w.extractLsb' 2 8
/-- Bits [1:0]. -/
def wF (w : Word) : BitVec 2 := w.extractLsb' 0 2
/-- Bits [9:0]. -/
def wI10 (w : Word) : BitVec 10 := w.extractLsb' 0 10
/-- Bits [17:0]. -/
def wI18 (w : Word) : BitVec 18 := w.extractLsb' 0 18
/-- Bits [23:21]. -/
def wP (w : Word) : BitVec 3 := w.extractLsb' 21 3
/-- Bits [20:20]. -/
def wN (w : Word) : BitVec 1 := w.extractLsb' 20 1
/-- Bits [19:0]. -/
def wI20 (w : Word) : BitVec 20 := w.extractLsb' 0 20
/-- Bits [17:12]. -/
def wX (w : Word) : BitVec 6 := w.extractLsb' 12 6
/-- Bits [11:6]. -/
def wY (w : Word) : BitVec 6 := w.extractLsb' 6 6
/-- Bits [5:3]. -/
def wC (w : Word) : BitVec 3 := w.extractLsb' 3 3
/-- Bits [2:0]. -/
def wZ (w : Word) : BitVec 3 := w.extractLsb' 0 3
/-- Bits [5:0]. -/
def wK (w : Word) : BitVec 6 := w.extractLsb' 0 6
/-- Bits [23:16]. -/
def wCol (w : Word) : BitVec 8 := w.extractLsb' 16 8
/-- Bits [15:13]. -/
def wScope (w : Word) : BitVec 3 := w.extractLsb' 13 3
/-- Bits [12:11]. -/
def wKind (w : Word) : BitVec 2 := w.extractLsb' 11 2
/-- Bits [10:10]. -/
def wRo (w : Word) : BitVec 1 := w.extractLsb' 10 1
/-- Bits [11:0]. -/
def wI12 (w : Word) : BitVec 12 := w.extractLsb' 0 12
/-- Bits [17:15]. -/
def wCond (w : Word) : BitVec 3 := w.extractLsb' 15 3
/-- Bits [14:0]. -/
def wI15 (w : Word) : BitVec 15 := w.extractLsb' 0 15
/-- The switch marker (R26). -/
def wM (w : Word) : Bool := wM1 w == 1#1

/-! Codes of the enumerated fields. -/

/-- Code of a `Sel` field. -/
def Sel.code : Sel → BitVec 2
  | .own => 0#2
  | .slot1 => 1#2
  | .slot2 => 2#2
  | .uni => 3#2
/-- The `Sel` a code stands for. -/
def Sel.ofCode (c : BitVec 2) : Sel :=
  match c.toNat with
  | 0 => .own
  | 1 => .slot1
  | 2 => .slot2
  | _ => .uni
/-- Code of a `Cond` field. -/
def Cond.code : Cond → BitVec 3
  | .eq => 0#3
  | .ne => 1#3
  | .ltS => 2#3
  | .leS => 3#3
  | .gtS => 4#3
  | .geS => 5#3
  | .ltN => 6#3
  | .geN => 7#3
/-- The `Cond` a code stands for. -/
def Cond.ofCode (c : BitVec 3) : Cond :=
  match c.toNat with
  | 0 => .eq
  | 1 => .ne
  | 2 => .ltS
  | 3 => .leS
  | 4 => .gtS
  | 5 => .geS
  | 6 => .ltN
  | _ => .geN
/-- Code of a `UbrCond` field. -/
def UbrCond.code : UbrCond → BitVec 3
  | .always => 0#3
  | .zero => 1#3
  | .nonzero => 2#3
  | .negative => 3#3
  | .nonNegative => 4#3
  | .positive => 5#3
  | .nonPositive => 6#3
/-- The `UbrCond` a code stands for; the other codes are reserved. -/
def UbrCond.ofCode? (c : BitVec 3) : Option UbrCond :=
  match c.toNat with
  | 0 => some .always
  | 1 => some .zero
  | 2 => some .nonzero
  | 3 => some .negative
  | 4 => some .nonNegative
  | 5 => some .positive
  | 6 => some .nonPositive
  | _ => none
/-- Code of a `Size` field. -/
def Size.code : Size → BitVec 3
  | .b8 => 0#3
  | .b16 => 1#3
  | .b32 => 2#3
  | .b64 => 3#3
  | .b128 => 4#3
  | .b256 => 5#3
/-- The `Size` a code stands for; the other codes are reserved. -/
def Size.ofCode? (c : BitVec 3) : Option Size :=
  match c.toNat with
  | 0 => some .b8
  | 1 => some .b16
  | 2 => some .b32
  | 3 => some .b64
  | 4 => some .b128
  | 5 => some .b256
  | _ => none
/-- Code of a `Hint` field. -/
def Hint.code : Hint → BitVec 3
  | .normal => 0#3
  | .stream => 1#3
  | .ro => 2#3
  | .nocc => 3#3
/-- The `Hint` a code stands for; the other codes are reserved. -/
def Hint.ofCode? (c : BitVec 3) : Option Hint :=
  match c.toNat with
  | 0 => some .normal
  | 1 => some .stream
  | 2 => some .ro
  | 3 => some .nocc
  | _ => none
/-- Code of a `Order` field. -/
def Order.code : Order → BitVec 2
  | .rlx => 0#2
  | .acq => 1#2
  | .rel => 2#2
  | .ar => 3#2
/-- The `Order` a code stands for. -/
def Order.ofCode (c : BitVec 2) : Order :=
  match c.toNat with
  | 0 => .rlx
  | 1 => .acq
  | 2 => .rel
  | _ => .ar
/-- Code of a `AtomWidth` field. -/
def AtomWidth.code : AtomWidth → BitVec 1
  | .w32 => 0#1
  | .w64 => 1#1
/-- The `AtomWidth` a code stands for. -/
def AtomWidth.ofCode (c : BitVec 1) : AtomWidth :=
  match c.toNat with
  | 0 => .w32
  | _ => .w64
/-- Code of a `QSize` field. -/
def QSize.code : QSize → BitVec 2
  | .q32 => 0#2
  | .q64 => 1#2
  | .q128 => 2#2
/-- The `QSize` a code stands for; the other codes are reserved. -/
def QSize.ofCode? (c : BitVec 2) : Option QSize :=
  match c.toNat with
  | 0 => some .q32
  | 1 => some .q64
  | 2 => some .q128
  | _ => none
/-- Code of a `LoopCounter` field. -/
def LoopCounter.code : LoopCounter → BitVec 2
  | .lc0 => 0#2
  | .lc1 => 1#2
  | .lc2 => 2#2
/-- The `LoopCounter` a code stands for; the other codes are reserved. -/
def LoopCounter.ofCode? (c : BitVec 2) : Option LoopCounter :=
  match c.toNat with
  | 0 => some .lc0
  | 1 => some .lc1
  | 2 => some .lc2
  | _ => none
/-- Code of a `Scope` field. -/
def Scope.code : Scope → BitVec 3
  | .team => 0#3
  | .wg => 1#3
  | .cluster => 2#3
  | .die => 3#3
  | .module => 4#3
  | .system => 5#3
/-- The `Scope` a code stands for; the other codes are reserved. -/
def Scope.ofCode? (c : BitVec 3) : Option Scope :=
  match c.toNat with
  | 0 => some .team
  | 1 => some .wg
  | 2 => some .cluster
  | 3 => some .die
  | 4 => some .module
  | 5 => some .system
  | _ => none
/-- Code of a `FenceKind` field. -/
def FenceKind.code : FenceKind → BitVec 2
  | .rel => 0#2
  | .acq => 1#2
  | .ar => 2#2
  | .sc => 3#2
/-- The `FenceKind` a code stands for. -/
def FenceKind.ofCode (c : BitVec 2) : FenceKind :=
  match c.toNat with
  | 0 => .rel
  | 1 => .acq
  | 2 => .ar
  | _ => .sc
/-- Code of a `JetOrder` field. -/
def JetOrder.code : JetOrder → BitVec 2
  | .k0 => 0#2
  | .k1 => 1#2
  | .k3 => 2#2
  | .k7 => 3#2
/-- The `JetOrder` a code stands for. -/
def JetOrder.ofCode (c : BitVec 2) : JetOrder :=
  match c.toNat with
  | 0 => .k0
  | 1 => .k1
  | 2 => .k3
  | _ => .k7
/-- Code of a `Engine` field. -/
def Engine.code : Engine → BitVec 2
  | .copy => 0#2
  | .gather => 1#2
  | .collective => 2#2
/-- The `Engine` a code stands for; the other codes are reserved. -/
def Engine.ofCode? (c : BitVec 2) : Option Engine :=
  match c.toNat with
  | 0 => some .copy
  | 1 => some .gather
  | 2 => some .collective
  | _ => none
/-- Code of a `CmoLevel` field. -/
def CmoLevel.code : CmoLevel → BitVec 2
  | .cluster => 0#2
  | .l2 => 1#2
  | .both => 2#2
/-- The `CmoLevel` a code stands for; the other codes are reserved. -/
def CmoLevel.ofCode? (c : BitVec 2) : Option CmoLevel :=
  match c.toNat with
  | 0 => some .cluster
  | 1 => some .l2
  | 2 => some .both
  | _ => none
/-- Code of a `BankMode` field. -/
def BankMode.code : BankMode → BitVec 2
  | .cache => 0#2
  | .scratch => 1#2
  | .fifo => 2#2
  | .unnamed => 3#2
/-- The `BankMode` a code stands for; code 3 is reserved (R41, R44; DEDUCED, log 60). -/
def BankMode.ofCode? (c : BitVec 2) : Option BankMode :=
  match c.toNat with
  | 0 => some .cache
  | 1 => some .scratch
  | 2 => some .fifo
  | _ => none
/-- Code of a `CancelLevel` field. -/
def CancelLevel.code : CancelLevel → BitVec 2
  | .launch => 0#2
  | .graph => 1#2
  | .phase => 2#2
  | .job => 3#2
/-- The `CancelLevel` a code stands for. -/
def CancelLevel.ofCode (c : BitVec 2) : CancelLevel :=
  match c.toNat with
  | 0 => .launch
  | 1 => .graph
  | 2 => .phase
  | _ => .job
/-- The type and E bits of an MMA (R159): K[5:3], K[1]. -/
def MmaType.code : MmaType → BitVec 3 × BitVec 1
  | .bf16 => (0#3, 0#1) | .f16 => (1#3, 0#1) | .e4m3 => (2#3, 0#1) | .e5m2 => (3#3, 0#1)
  | .mxE4m3 => (4#3, 0#1) | .mxE5m2 => (5#3, 0#1) | .mxfp4 => (6#3, 0#1)
  | .s8E4m3 => (7#3, 0#1) | .s8E5m2 => (7#3, 1#1)
/-- The operand type of K[5:3] and K[1]; E is nonzero only for type 7 (R159). -/
def MmaType.ofCode? (t : BitVec 3) (e : BitVec 1) : Option MmaType :=
  match t.toNat, e.toNat with
  | 0, 0 => some .bf16 | 1, 0 => some .f16 | 2, 0 => some .e4m3 | 3, 0 => some .e5m2
  | 4, 0 => some .mxE4m3 | 5, 0 => some .mxE5m2 | 6, 0 => some .mxfp4
  | 7, 0 => some .s8E4m3 | 7, _ => some .s8E5m2
  | _, _ => none

/-- A source field (R34). -/
def srcOf (c : BitVec 8) : Src := ⟨Sel.ofCode (c.extractLsb' 6 2), c.extractLsb' 0 6⟩
/-- The code of a source field. -/
def Src.code (s : Src) : BitVec 8 := s.sel.code ++ s.reg
/-- The target field of JMPI and CALLI (R151). -/
def targetOf (c : BitVec 8) (k : Target → Decoded) : Decoded :=
  match Sel.ofCode (c.extractLsb' 6 2) with
  | .own => k (.pair (c.extractLsb' 0 6))
  | .uni => k (.uni (c.extractLsb' 0 6))
  | .slot1 => .nonInstr .badSelector
  | .slot2 => .nonInstr .badSelector
/-- The code of a target field. -/
def Target.code : Target → BitVec 8
  | .pair v => 0#2 ++ v
  | .uni s => 3#2 ++ s
/-- One bit as a Bool. -/
def bit1 (b : BitVec 1) : Bool := b == 1#1

/-- Lane set, major opcode 0x00: IADD, ISUB, IMIN_S, IMAX_S. -/
def lane00 (w : Word) : Decoded :=
  match (wF w).toNat with
  | 0 => .instr (.iadd (wD w) (srcOf (wA w)) (srcOf (wB w)))
  | 1 => .instr (.isub (wD w) (srcOf (wA w)) (srcOf (wB w)))
  | 2 => .instr (.iminS (wD w) (srcOf (wA w)) (srcOf (wB w)))
  | _ => .instr (.imaxS (wD w) (srcOf (wA w)) (srcOf (wB w)))

/-- Lane set, major opcode 0x01: IMIN_N, IMAX_N, IABSD, IPOPC. -/
def lane01 (w : Word) : Decoded :=
  match (wF w).toNat with
  | 0 => .instr (.iminN (wD w) (srcOf (wA w)) (srcOf (wB w)))
  | 1 => .instr (.imaxN (wD w) (srcOf (wA w)) (srcOf (wB w)))
  | 2 => .instr (.iabsd (wD w) (srcOf (wA w)) (srcOf (wB w)))
  | _ => .need (wB w == 0#8) .nonzeroField (.instr (.ipopc (wD w) (srcOf (wA w))))

/-- Lane set, major opcode 0x02: IAND, IOR, IXOR, IANDN. -/
def lane02 (w : Word) : Decoded :=
  match (wF w).toNat with
  | 0 => .instr (.iand (wD w) (srcOf (wA w)) (srcOf (wB w)))
  | 1 => .instr (.ior (wD w) (srcOf (wA w)) (srcOf (wB w)))
  | 2 => .instr (.ixor (wD w) (srcOf (wA w)) (srcOf (wB w)))
  | _ => .instr (.iandn (wD w) (srcOf (wA w)) (srcOf (wB w)))

/-- Lane set, major opcode 0x03: ISHL, ISHR, ISAR, IROT. -/
def lane03 (w : Word) : Decoded :=
  match (wF w).toNat with
  | 0 => .instr (.ishl (wD w) (srcOf (wA w)) (srcOf (wB w)))
  | 1 => .instr (.ishr (wD w) (srcOf (wA w)) (srcOf (wB w)))
  | 2 => .instr (.isar (wD w) (srcOf (wA w)) (srcOf (wB w)))
  | _ => .instr (.irot (wD w) (srcOf (wA w)) (srcOf (wB w)))

/-- Lane set, major opcode 0x04: IMUL, IMULHI_S, IMULHI_N, IMAD. -/
def lane04 (w : Word) : Decoded :=
  match (wF w).toNat with
  | 0 => .instr (.imul (wD w) (srcOf (wA w)) (srcOf (wB w)))
  | 1 => .instr (.imulhiS (wD w) (srcOf (wA w)) (srcOf (wB w)))
  | 2 => .instr (.imulhiN (wD w) (srcOf (wA w)) (srcOf (wB w)))
  | _ => .instr (.imad (wD w) (srcOf (wA w)) (srcOf (wB w)))

/-- Lane set, major opcode 0x05: ICLZ, IBREV, IBFX, IBFI. -/
def lane05 (w : Word) : Decoded :=
  match (wF w).toNat with
  | 0 => .need (wB w == 0#8) .nonzeroField (.instr (.iclz (wD w) (srcOf (wA w))))
  | 1 => .need (wB w == 0#8) .nonzeroField (.instr (.ibrev (wD w) (srcOf (wA w))))
  | 2 => .instr (.ibfx (wD w) (srcOf (wA w)) (srcOf (wB w)))
  | _ => .instr (.ibfi (wD w) (srcOf (wA w)) (srcOf (wB w)))

/-- Lane set, major opcode 0x06: ICMP_S_EQ, ICMP_S_NE, ICMP_S_LT, ICMP_S_LE. -/
def lane06 (w : Word) : Decoded :=
  match (wF w).toNat with
  | 0 => .need ((wD w).extractLsb' 3 3 == 0#3) .nonzeroField (.instr (.icmpSEq ((wD w).extractLsb' 0 3) (srcOf (wA w)) (srcOf (wB w))))
  | 1 => .need ((wD w).extractLsb' 3 3 == 0#3) .nonzeroField (.instr (.icmpSNe ((wD w).extractLsb' 0 3) (srcOf (wA w)) (srcOf (wB w))))
  | 2 => .need ((wD w).extractLsb' 3 3 == 0#3) .nonzeroField (.instr (.icmpSLt ((wD w).extractLsb' 0 3) (srcOf (wA w)) (srcOf (wB w))))
  | _ => .need ((wD w).extractLsb' 3 3 == 0#3) .nonzeroField (.instr (.icmpSLe ((wD w).extractLsb' 0 3) (srcOf (wA w)) (srcOf (wB w))))

/-- Lane set, major opcode 0x07: ICMP_N_EQ, ICMP_N_NE, ICMP_N_LT, ICMP_N_LE. -/
def lane07 (w : Word) : Decoded :=
  match (wF w).toNat with
  | 0 => .need ((wD w).extractLsb' 3 3 == 0#3) .nonzeroField (.instr (.icmpNEq ((wD w).extractLsb' 0 3) (srcOf (wA w)) (srcOf (wB w))))
  | 1 => .need ((wD w).extractLsb' 3 3 == 0#3) .nonzeroField (.instr (.icmpNNe ((wD w).extractLsb' 0 3) (srcOf (wA w)) (srcOf (wB w))))
  | 2 => .need ((wD w).extractLsb' 3 3 == 0#3) .nonzeroField (.instr (.icmpNLt ((wD w).extractLsb' 0 3) (srcOf (wA w)) (srcOf (wB w))))
  | _ => .need ((wD w).extractLsb' 3 3 == 0#3) .nonzeroField (.instr (.icmpNLe ((wD w).extractLsb' 0 3) (srcOf (wA w)) (srcOf (wB w))))

/-- Lane set, major opcode 0x08: PSUB. -/
def lane08 (w : Word) : Decoded :=
  .instr (.psub (wD w) (srcOf (wA w)) (srcOf (wB w)) (wF w))

/-- Lane set, major opcode 0x09: PADD. -/
def lane09 (w : Word) : Decoded :=
  .instr (.padd (wD w) (srcOf (wA w)) (srcOf (wB w)) (wF w))

/-- Lane set, major opcode 0x0A: PMOV. -/
def lane0A (w : Word) : Decoded :=
  .instr (.pmov (wD w) (srcOf (wA w)) (srcOf (wB w)) (wF w))

/-- Lane set, major opcode 0x0B: PAND, POR, PXOR, PANDN. -/
def lane0B (w : Word) : Decoded :=
  match (wF w).toNat with
  | 0 => .need ((wD w).extractLsb' 3 3 == 0#3) .nonzeroField (.need ((wA w).extractLsb' 3 5 == 0#5) .nonzeroField (.need ((wB w).extractLsb' 3 5 == 0#5) .nonzeroField (.instr (.pand ((wD w).extractLsb' 0 3) ((wA w).extractLsb' 0 3) ((wB w).extractLsb' 0 3)))))
  | 1 => .need ((wD w).extractLsb' 3 3 == 0#3) .nonzeroField (.need ((wA w).extractLsb' 3 5 == 0#5) .nonzeroField (.need ((wB w).extractLsb' 3 5 == 0#5) .nonzeroField (.instr (.por ((wD w).extractLsb' 0 3) ((wA w).extractLsb' 0 3) ((wB w).extractLsb' 0 3)))))
  | 2 => .need ((wD w).extractLsb' 3 3 == 0#3) .nonzeroField (.need ((wA w).extractLsb' 3 5 == 0#5) .nonzeroField (.need ((wB w).extractLsb' 3 5 == 0#5) .nonzeroField (.instr (.pxor ((wD w).extractLsb' 0 3) ((wA w).extractLsb' 0 3) ((wB w).extractLsb' 0 3)))))
  | _ => .need ((wD w).extractLsb' 3 3 == 0#3) .nonzeroField (.need ((wA w).extractLsb' 3 5 == 0#5) .nonzeroField (.need ((wB w).extractLsb' 3 5 == 0#5) .nonzeroField (.instr (.pandn ((wD w).extractLsb' 0 3) ((wA w).extractLsb' 0 3) ((wB w).extractLsb' 0 3)))))

/-- Lane set, major opcode 0x0C: IADDI. -/
def lane0C (w : Word) : Decoded :=
  .instr (.iaddi (wD w) (srcOf (wA w)) (wI10 w))

/-- Lane set, major opcode 0x0D: IANDI. -/
def lane0D (w : Word) : Decoded :=
  .instr (.iandi (wD w) (srcOf (wA w)) (wI10 w))

/-- Lane set, major opcode 0x0E: ISHLI, ISHRI, ISARI, IROTI. -/
def lane0E (w : Word) : Decoded :=
  match ((wI10 w).extractLsb' 8 2).toNat with
  | 0 => .need ((wI10 w).extractLsb' 5 3 == 0#3) .nonzeroField (.instr (.ishli (wD w) (srcOf (wA w)) ((wI10 w).extractLsb' 0 5)))
  | 1 => .need ((wI10 w).extractLsb' 5 3 == 0#3) .nonzeroField (.instr (.ishri (wD w) (srcOf (wA w)) ((wI10 w).extractLsb' 0 5)))
  | 2 => .need ((wI10 w).extractLsb' 5 3 == 0#3) .nonzeroField (.instr (.isari (wD w) (srcOf (wA w)) ((wI10 w).extractLsb' 0 5)))
  | _ => .need ((wI10 w).extractLsb' 5 3 == 0#3) .nonzeroField (.instr (.iroti (wD w) (srcOf (wA w)) ((wI10 w).extractLsb' 0 5)))

/-- Lane set, major opcode 0x0F: ICMPI. -/
def lane0F (w : Word) : Decoded :=
  .instr (.icmpi (Cond.ofCode ((wD w).extractLsb' 3 3)) ((wD w).extractLsb' 0 3) (srcOf (wA w)) (wI10 w))

/-- Lane set, major opcode 0x10: MOVI. -/
def lane10 (w : Word) : Decoded :=
  .instr (.movi (wD w) (wI18 w))

/-- Lane set, major opcode 0x11: MOVHI. -/
def lane11 (w : Word) : Decoded :=
  .instr (.movhi (wD w) (wI18 w))

/-- Lane set, major opcode 0x12: SRD. -/
def lane12 (w : Word) : Decoded :=
  .need (wA w == 0#8) .nonzeroField (.instr (.srd (wD w) (wI10 w)))

/-- Lane set, major opcode 0x13: TIDX. -/
def lane13 (w : Word) : Decoded :=
  match (wF w).toNat with
  | 0 => .need ((wB w).extractLsb' 6 2 == 3#2) .badSelector (.instr (.tidx (wD w) (srcOf (wA w)) ((wB w).extractLsb' 0 6)))
  | _ => .nonInstr .reservedCode

/-- Lane set, major opcode 0x14: FADD, FSUB, FMUL, FFMA. -/
def lane14 (w : Word) : Decoded :=
  match (wF w).toNat with
  | 0 => .instr (.fadd (wD w) (srcOf (wA w)) (srcOf (wB w)))
  | 1 => .instr (.fsub (wD w) (srcOf (wA w)) (srcOf (wB w)))
  | 2 => .instr (.fmul (wD w) (srcOf (wA w)) (srcOf (wB w)))
  | _ => .instr (.ffma (wD w) (srcOf (wA w)) (srcOf (wB w)))

/-- Lane set, major opcode 0x15: FMIN, FMAX, FFMSUB, FFNMA. -/
def lane15 (w : Word) : Decoded :=
  match (wF w).toNat with
  | 0 => .instr (.fmin (wD w) (srcOf (wA w)) (srcOf (wB w)))
  | 1 => .instr (.fmax (wD w) (srcOf (wA w)) (srcOf (wB w)))
  | 2 => .instr (.ffmsub (wD w) (srcOf (wA w)) (srcOf (wB w)))
  | _ => .instr (.ffnma (wD w) (srcOf (wA w)) (srcOf (wB w)))

/-- Lane set, major opcode 0x16: FABS, FNEG, FCPSGN, FNABS. -/
def lane16 (w : Word) : Decoded :=
  match (wF w).toNat with
  | 0 => .need (wB w == 0#8) .nonzeroField (.instr (.fabs (wD w) (srcOf (wA w))))
  | 1 => .need (wB w == 0#8) .nonzeroField (.instr (.fneg (wD w) (srcOf (wA w))))
  | 2 => .instr (.fcpsgn (wD w) (srcOf (wA w)) (srcOf (wB w)))
  | _ => .need (wB w == 0#8) .nonzeroField (.instr (.fnabs (wD w) (srcOf (wA w))))

/-- Lane set, major opcode 0x17: FCMP_EQ, FCMP_LT, FCMP_LE, FCMP_UNORD. -/
def lane17 (w : Word) : Decoded :=
  match (wF w).toNat with
  | 0 => .need ((wD w).extractLsb' 3 3 == 0#3) .nonzeroField (.instr (.fcmpEq ((wD w).extractLsb' 0 3) (srcOf (wA w)) (srcOf (wB w))))
  | 1 => .need ((wD w).extractLsb' 3 3 == 0#3) .nonzeroField (.instr (.fcmpLt ((wD w).extractLsb' 0 3) (srcOf (wA w)) (srcOf (wB w))))
  | 2 => .need ((wD w).extractLsb' 3 3 == 0#3) .nonzeroField (.instr (.fcmpLe ((wD w).extractLsb' 0 3) (srcOf (wA w)) (srcOf (wB w))))
  | _ => .need ((wD w).extractLsb' 3 3 == 0#3) .nonzeroField (.instr (.fcmpUnord ((wD w).extractLsb' 0 3) (srcOf (wA w)) (srcOf (wB w))))

/-- Lane set, major opcode 0x18: FDIV, FSQRT, FRCP, FRSQ. -/
def lane18 (w : Word) : Decoded :=
  match (wF w).toNat with
  | 0 => .instr (.fdiv (wD w) (srcOf (wA w)) (srcOf (wB w)))
  | 1 => .need (wB w == 0#8) .nonzeroField (.instr (.fsqrt (wD w) (srcOf (wA w))))
  | 2 => .need (wB w == 0#8) .nonzeroField (.instr (.frcp (wD w) (srcOf (wA w))))
  | _ => .need (wB w == 0#8) .nonzeroField (.instr (.frsq (wD w) (srcOf (wA w))))

/-- Lane set, major opcode 0x19: FEXP2, FLOG2, FTANH, FSIGM. -/
def lane19 (w : Word) : Decoded :=
  match (wF w).toNat with
  | 0 => .need (wB w == 0#8) .nonzeroField (.instr (.fexp2 (wD w) (srcOf (wA w))))
  | 1 => .need (wB w == 0#8) .nonzeroField (.instr (.flog2 (wD w) (srcOf (wA w))))
  | 2 => .need (wB w == 0#8) .nonzeroField (.instr (.ftanh (wD w) (srcOf (wA w))))
  | _ => .need (wB w == 0#8) .nonzeroField (.instr (.fsigm (wD w) (srcOf (wA w))))

/-- Lane set, major opcode 0x1A: FSIN, FCOS, FSINT, FCOST. -/
def lane1A (w : Word) : Decoded :=
  match (wF w).toNat with
  | 0 => .need (wB w == 0#8) .nonzeroField (.instr (.fsin (wD w) (srcOf (wA w))))
  | 1 => .need (wB w == 0#8) .nonzeroField (.instr (.fcos (wD w) (srcOf (wA w))))
  | 2 => .need (wB w == 0#8) .nonzeroField (.instr (.fsint (wD w) (srcOf (wA w))))
  | _ => .need (wB w == 0#8) .nonzeroField (.instr (.fcost (wD w) (srcOf (wA w))))

/-- Lane set, major opcode 0x1B: FRND_RNE, FRND_RTZ, FRND_FLOOR, FRND_CEIL. -/
def lane1B (w : Word) : Decoded :=
  match (wF w).toNat with
  | 0 => .need (wB w == 0#8) .nonzeroField (.instr (.frndRne (wD w) (srcOf (wA w))))
  | 1 => .need (wB w == 0#8) .nonzeroField (.instr (.frndRtz (wD w) (srcOf (wA w))))
  | 2 => .need (wB w == 0#8) .nonzeroField (.instr (.frndFloor (wD w) (srcOf (wA w))))
  | _ => .need (wB w == 0#8) .nonzeroField (.instr (.frndCeil (wD w) (srcOf (wA w))))

/-- Lane set, major opcode 0x1C: CVT_F32_I32, CVT_F32_N32, CVT_I32_F32, CVT_N32_F32. -/
def lane1C (w : Word) : Decoded :=
  match (wF w).toNat with
  | 0 => .need (wB w == 0#8) .nonzeroField (.instr (.cvtF32I32 (wD w) (srcOf (wA w))))
  | 1 => .need (wB w == 0#8) .nonzeroField (.instr (.cvtF32N32 (wD w) (srcOf (wA w))))
  | 2 => .need (wB w == 0#8) .nonzeroField (.instr (.cvtI32F32 (wD w) (srcOf (wA w))))
  | _ => .need (wB w == 0#8) .nonzeroField (.instr (.cvtN32F32 (wD w) (srcOf (wA w))))

/-- Lane set, major opcode 0x1D: UNPK_BF16LO, UNPK_BF16HI, PACK_BF16, PACK_F16. -/
def lane1D (w : Word) : Decoded :=
  match (wF w).toNat with
  | 0 => .need (wB w == 0#8) .nonzeroField (.instr (.unpkBf16lo (wD w) (srcOf (wA w))))
  | 1 => .need (wB w == 0#8) .nonzeroField (.instr (.unpkBf16hi (wD w) (srcOf (wA w))))
  | 2 => .instr (.packBf16 (wD w) (srcOf (wA w)) (srcOf (wB w)))
  | _ => .instr (.packF16 (wD w) (srcOf (wA w)) (srcOf (wB w)))

/-- Lane set, major opcode 0x1E: UNPK_E4M3, UNPK_E5M2, PK_E4M3, PK_E5M2. -/
def lane1E (w : Word) : Decoded :=
  match (wF w).toNat with
  | 0 => .need (wB w == 0#8) .nonzeroField (.instr (.unpkE4m3 (wD w) (srcOf (wA w))))
  | 1 => .need (wB w == 0#8) .nonzeroField (.instr (.unpkE5m2 (wD w) (srcOf (wA w))))
  | 2 => .need ((wA w).extractLsb' 6 2 == 0#2) .badSelector (.need (wB w == 0#8) .nonzeroField (.instr (.pkE4m3 (wD w) ((wA w).extractLsb' 0 6))))
  | _ => .need ((wA w).extractLsb' 6 2 == 0#2) .badSelector (.need (wB w == 0#8) .nonzeroField (.instr (.pkE5m2 (wD w) ((wA w).extractLsb' 0 6))))

/-- Lane set, major opcode 0x1F: JSEED_SEED, JSEED_CONST, JSEED_COPY. -/
def lane1F (w : Word) : Decoded :=
  match (wF w).toNat with
  | 0 => .instr (.jseedSeed (wD w) (srcOf (wA w)) (srcOf (wB w)))
  | 1 => .need (wB w == 0#8) .nonzeroField (.instr (.jseedConst (wD w) (srcOf (wA w))))
  | 2 => .need (wB w == 0#8) .nonzeroField (.instr (.jseedCopy (wD w) (srcOf (wA w))))
  | _ => .nonInstr .reservedCode

/-- Lane set, major opcode 0x20: JGET. -/
def lane20 (w : Word) : Decoded :=
  .need ((wI10 w).extractLsb' 5 5 == 0#5) .nonzeroField (.need ((wI10 w).extractLsb' 3 2 == 0#2) .nonzeroField (.instr (.jget (wD w) (srcOf (wA w)) ((wI10 w).extractLsb' 0 3))))

/-- Lane set, major opcode 0x21: JPUT. -/
def lane21 (w : Word) : Decoded :=
  .need ((wI10 w).extractLsb' 5 5 == 0#5) .nonzeroField (.need ((wI10 w).extractLsb' 3 2 == 0#2) .nonzeroField (.instr (.jput (wD w) (srcOf (wA w)) ((wI10 w).extractLsb' 0 3))))

/-- Lane set, major opcode 0x22: JFLG_RD, JFLG_RC, JFLG_CLR. -/
def lane22 (w : Word) : Decoded :=
  match ((wI10 w).extractLsb' 3 2).toNat with
  | 0 => .need (wA w == 0#8) .nonzeroField (.need ((wI10 w).extractLsb' 5 5 == 0#5) .nonzeroField (.instr (.jflgRd (wD w) ((wI10 w).extractLsb' 0 3))))
  | 1 => .need (wA w == 0#8) .nonzeroField (.need ((wI10 w).extractLsb' 5 5 == 0#5) .nonzeroField (.instr (.jflgRc (wD w) ((wI10 w).extractLsb' 0 3))))
  | 2 => .need (wA w == 0#8) .nonzeroField (.need ((wI10 w).extractLsb' 5 5 == 0#5) .nonzeroField (.instr (.jflgClr (wD w) ((wI10 w).extractLsb' 0 3))))
  | _ => .nonInstr .reservedCode

/-- Lane set, major opcode 0x23: BALLOT, ANY, ALL, COUNT. -/
def lane23 (w : Word) : Decoded :=
  match (wF w).toNat with
  | 0 => .need ((wA w).extractLsb' 3 5 == 0#5) .nonzeroField (.need (wB w == 0#8) .nonzeroField (.instr (.ballot (wD w) ((wA w).extractLsb' 0 3))))
  | 1 => .need ((wA w).extractLsb' 3 5 == 0#5) .nonzeroField (.need (wB w == 0#8) .nonzeroField (.instr (.any (wD w) ((wA w).extractLsb' 0 3))))
  | 2 => .need ((wA w).extractLsb' 3 5 == 0#5) .nonzeroField (.need (wB w == 0#8) .nonzeroField (.instr (.all (wD w) ((wA w).extractLsb' 0 3))))
  | _ => .need ((wA w).extractLsb' 3 5 == 0#5) .nonzeroField (.need (wB w == 0#8) .nonzeroField (.instr (.count (wD w) ((wA w).extractLsb' 0 3))))

/-- Lane set, major opcode 0x24: REDUX_IADD, REDUX_IMIN_S, REDUX_IMAX_S, REDUX_OR. -/
def lane24 (w : Word) : Decoded :=
  match (wF w).toNat with
  | 0 => .need (wB w == 0#8) .nonzeroField (.instr (.reduxIadd (wD w) (srcOf (wA w))))
  | 1 => .need (wB w == 0#8) .nonzeroField (.instr (.reduxIminS (wD w) (srcOf (wA w))))
  | 2 => .need (wB w == 0#8) .nonzeroField (.instr (.reduxImaxS (wD w) (srcOf (wA w))))
  | _ => .need (wB w == 0#8) .nonzeroField (.instr (.reduxOr (wD w) (srcOf (wA w))))

/-- Lane set, major opcode 0x25: SCAN_IADD, SCAN_FADD, SCAN_IMAX_S, SCAN_IADD_EXCL. -/
def lane25 (w : Word) : Decoded :=
  match (wF w).toNat with
  | 0 => .need (wB w == 0#8) .nonzeroField (.instr (.scanIadd (wD w) (srcOf (wA w))))
  | 1 => .need (wB w == 0#8) .nonzeroField (.instr (.scanFadd (wD w) (srcOf (wA w))))
  | 2 => .need (wB w == 0#8) .nonzeroField (.instr (.scanImaxS (wD w) (srcOf (wA w))))
  | _ => .need (wB w == 0#8) .nonzeroField (.instr (.scanIaddExcl (wD w) (srcOf (wA w))))

/-- Lane set, major opcode 0x26: LD_G. -/
def lane26 (w : Word) : Decoded :=
  .code (Hint.ofCode? (wC w)) fun c => .code (Size.ofCode? (wZ w)) fun z => .instr (.ldG (wD w) (wX w) (wY w) c z)

/-- Lane set, major opcode 0x27: ST_G. -/
def lane27 (w : Word) : Decoded :=
  .code (Size.ofCode? (wZ w)) fun z => .instr (.stG (wD w) (wX w) (wY w) (wC w) z)

/-- Lane set, major opcode 0x28: LD_S. -/
def lane28 (w : Word) : Decoded :=
  .need (wC w == 0#3) .nonzeroField (.code (Size.ofCode? (wZ w)) fun z => .instr (.ldS (wD w) (wX w) (wY w) z))

/-- Lane set, major opcode 0x29: ST_S. -/
def lane29 (w : Word) : Decoded :=
  .code (Size.ofCode? (wZ w)) fun z => .instr (.stS (wD w) (wX w) (wY w) (wC w) z)

/-- Lane set, major opcode 0x2A: LDTH. -/
def lane2A (w : Word) : Decoded :=
  .need (wC w == 0#3) .nonzeroField (.code (Size.ofCode? (wZ w)) fun z => .instr (.ldth (wD w) (wX w) (wY w) z))

/-- Lane set, major opcode 0x2B: LJOIN. -/
def lane2B (w : Word) : Decoded :=
  .code (Size.ofCode? (wZ w)) fun z => .instr (.ljoin (wD w) (wX w) (wY w) (wC w) z)

/-- Lane set, major opcode 0x2C: ATOM_ADD, ATOM_MIN_S, ATOM_MAX_S, ATOM_MIN_N, ATOM_MAX_N, ATOM_AND, ATOM_OR, ATOM_XOR. -/
def lane2C (w : Word) : Decoded :=
  match (wC w).toNat with
  | 0 => .instr (.atomAdd (wD w) (wX w) (wY w) (Order.ofCode ((wZ w).extractLsb' 1 2)) (AtomWidth.ofCode ((wZ w).extractLsb' 0 1)))
  | 1 => .instr (.atomMinS (wD w) (wX w) (wY w) (Order.ofCode ((wZ w).extractLsb' 1 2)) (AtomWidth.ofCode ((wZ w).extractLsb' 0 1)))
  | 2 => .instr (.atomMaxS (wD w) (wX w) (wY w) (Order.ofCode ((wZ w).extractLsb' 1 2)) (AtomWidth.ofCode ((wZ w).extractLsb' 0 1)))
  | 3 => .instr (.atomMinN (wD w) (wX w) (wY w) (Order.ofCode ((wZ w).extractLsb' 1 2)) (AtomWidth.ofCode ((wZ w).extractLsb' 0 1)))
  | 4 => .instr (.atomMaxN (wD w) (wX w) (wY w) (Order.ofCode ((wZ w).extractLsb' 1 2)) (AtomWidth.ofCode ((wZ w).extractLsb' 0 1)))
  | 5 => .instr (.atomAnd (wD w) (wX w) (wY w) (Order.ofCode ((wZ w).extractLsb' 1 2)) (AtomWidth.ofCode ((wZ w).extractLsb' 0 1)))
  | 6 => .instr (.atomOr (wD w) (wX w) (wY w) (Order.ofCode ((wZ w).extractLsb' 1 2)) (AtomWidth.ofCode ((wZ w).extractLsb' 0 1)))
  | _ => .instr (.atomXor (wD w) (wX w) (wY w) (Order.ofCode ((wZ w).extractLsb' 1 2)) (AtomWidth.ofCode ((wZ w).extractLsb' 0 1)))

/-- Lane set, major opcode 0x2D: ATOM_EXCH, ATOM_CAS, ATOM_FADD, ATOM_FMAX. -/
def lane2D (w : Word) : Decoded :=
  match (wC w).toNat with
  | 0 => .instr (.atomExch (wD w) (wX w) (wY w) (Order.ofCode ((wZ w).extractLsb' 1 2)) (AtomWidth.ofCode ((wZ w).extractLsb' 0 1)))
  | 1 => .instr (.atomCas (wD w) (wX w) (wY w) (Order.ofCode ((wZ w).extractLsb' 1 2)) (AtomWidth.ofCode ((wZ w).extractLsb' 0 1)))
  | 2 => .need ((wZ w).extractLsb' 0 1 == 0#1) .reservedCode (.instr (.atomFadd (wD w) (wX w) (wY w) (Order.ofCode ((wZ w).extractLsb' 1 2))))
  | 3 => .need ((wZ w).extractLsb' 0 1 == 0#1) .reservedCode (.instr (.atomFmax (wD w) (wX w) (wY w) (Order.ofCode ((wZ w).extractLsb' 1 2))))
  | _ => .nonInstr .reservedCode

/-- Lane set, major opcode 0x2E: QPOP. -/
def lane2E (w : Word) : Decoded :=
  .need (wA w == 0#8) .nonzeroField (.need ((wI10 w).extractLsb' 7 3 == 0#3) .nonzeroField (.code (QSize.ofCode? ((wI10 w).extractLsb' 4 2)) fun s => .instr (.qpop (wD w) (bit1 ((wI10 w).extractLsb' 6 1)) s ((wI10 w).extractLsb' 0 4))))

/-- Lane set, major opcode 0x2F: QPUSH. -/
def lane2F (w : Word) : Decoded :=
  .need (wA w == 0#8) .nonzeroField (.need ((wI10 w).extractLsb' 7 3 == 0#3) .nonzeroField (.code (QSize.ofCode? ((wI10 w).extractLsb' 4 2)) fun s => .instr (.qpush (wD w) (bit1 ((wI10 w).extractLsb' 6 1)) s ((wI10 w).extractLsb' 0 4))))

/-- Lane set, major opcode 0x30: BR. -/
def lane30 (w : Word) : Decoded :=
  .instr (.br (wP w) (bit1 (wN w)) (wI20 w))

/-- Lane set, major opcode 0x31: CALL. -/
def lane31 (w : Word) : Decoded :=
  .need (wD w == 0#6) .nonzeroField (.instr (.call (wI18 w)))

/-- Lane set, major opcode 0x32: JMPI, CALLI, RET. -/
def lane32 (w : Word) : Decoded :=
  match (wF w).toNat with
  | 0 => .need (wD w == 0#6) .nonzeroField (.need (wB w == 0#8) .nonzeroField (targetOf (wA w) fun a => .instr (.jmpi a)))
  | 1 => .need (wD w == 0#6) .nonzeroField (.need (wB w == 0#8) .nonzeroField (targetOf (wA w) fun a => .instr (.calli a)))
  | 2 => .need (wD w == 0#6) .nonzeroField (.need (wA w == 0#8) .nonzeroField (.need (wB w == 0#8) .nonzeroField (.instr (.ret))))
  | _ => .nonInstr .reservedCode

/-- Lane set, major opcode 0x33: LOOP. -/
def lane33 (w : Word) : Decoded :=
  .need (wD w == 0#6) .nonzeroField (.code (LoopCounter.ofCode? ((wI10 w).extractLsb' 8 2)) fun c => .instr (.loop (srcOf (wA w)) c ((wI10 w).extractLsb' 0 8)))

/-- Lane set, major opcode 0x34: EXIT, BRK, YIELD, NOP. -/
def lane34 (w : Word) : Decoded :=
  match (wF w).toNat with
  | 0 => .need (wD w == 0#6) .nonzeroField (.need (wA w == 0#8) .nonzeroField (.need (wB w == 0#8) .nonzeroField (.instr (.exit))))
  | 1 => .need (wD w == 0#6) .nonzeroField (.need (wA w == 0#8) .nonzeroField (.need (wB w == 0#8) .nonzeroField (.instr (.brk))))
  | 2 => .need (wD w == 0#6) .nonzeroField (.need (wA w == 0#8) .nonzeroField (.need (wB w == 0#8) .nonzeroField (.instr (.yield))))
  | _ => .need (wD w == 0#6) .nonzeroField (.need (wA w == 0#8) .nonzeroField (.need (wB w == 0#8) .nonzeroField (.instr (.nop))))

/-- Lane set, major opcode 0x35: TRAP. -/
def lane35 (w : Word) : Decoded :=
  .need (wD w == 0#6) .nonzeroField (.need (wA w == 0#8) .nonzeroField (.instr (.trap (wI10 w))))

/-- Lane set, major opcode 0x36: BAR_ARRIVE, BAR_WAIT, BAR_SYNC. -/
def lane36 (w : Word) : Decoded :=
  match ((wI10 w).extractLsb' 4 2).toNat with
  | 0 => .need (wD w == 0#6) .nonzeroField (.need (wA w == 0#8) .nonzeroField (.need ((wI10 w).extractLsb' 6 4 == 0#4) .nonzeroField (.instr (.barArrive ((wI10 w).extractLsb' 0 4)))))
  | 1 => .need (wD w == 0#6) .nonzeroField (.need (wA w == 0#8) .nonzeroField (.need ((wI10 w).extractLsb' 6 4 == 0#4) .nonzeroField (.instr (.barWait ((wI10 w).extractLsb' 0 4)))))
  | 2 => .need (wD w == 0#6) .nonzeroField (.need (wA w == 0#8) .nonzeroField (.need ((wI10 w).extractLsb' 6 4 == 0#4) .nonzeroField (.instr (.barSync ((wI10 w).extractLsb' 0 4)))))
  | _ => .nonInstr .reservedCode

/-- Lane set, major opcode 0x37: FENCE. -/
def lane37 (w : Word) : Decoded :=
  .need (wI10 w == 0#10) .nonzeroField (.code (Scope.ofCode? (wScope w)) fun s => .instr (.fence (wCol w) s (FenceKind.ofCode (wKind w)) (bit1 (wRo w))))

/-- Lane set, major opcode 0x38: MMA_RR. -/
def lane38 (w : Word) : Decoded :=
  .need ((wK w).extractLsb' 2 1 == 0#1) .nonzeroField (.code (MmaType.ofCode? ((wK w).extractLsb' 3 3) ((wK w).extractLsb' 1 1)) fun t => .instr (.mmaRr (wD w) (wX w) (wY w) t (bit1 ((wK w).extractLsb' 0 1))))

/-- Lane set, major opcode 0x39: MMA_RS. -/
def lane39 (w : Word) : Decoded :=
  .need ((wK w).extractLsb' 2 1 == 0#1) .nonzeroField (.code (MmaType.ofCode? ((wK w).extractLsb' 3 3) ((wK w).extractLsb' 1 1)) fun t => .instr (.mmaRs (wD w) (wX w) (wY w) t (bit1 ((wK w).extractLsb' 0 1))))

/-- Lane set, major opcode 0x3A: MMA_SS. -/
def lane3A (w : Word) : Decoded :=
  .need ((wK w).extractLsb' 2 1 == 0#1) .nonzeroField (.code (MmaType.ofCode? ((wK w).extractLsb' 3 3) ((wK w).extractLsb' 1 1)) fun t => .instr (.mmaSs (wD w) (wX w) (wY w) t (bit1 ((wK w).extractLsb' 0 1))))

/-- Lane set, major opcode 0x3B: MACC_ZERO, MACC_BF16, MACC_E4M3, MACC_SCALE. -/
def lane3B (w : Word) : Decoded :=
  match (wK w).toNat with
  | 0 => .need (wX w == 0#6) .nonzeroField (.need (wY w == 0#6) .nonzeroField (.instr (.maccZero (wD w))))
  | 8 => .need (wY w == 0#6) .nonzeroField (.instr (.maccBf16 (wD w) (wX w)))
  | 16 => .need (wY w == 0#6) .nonzeroField (.instr (.maccE4m3 (wD w) (wX w)))
  | 24 => .need (wX w == 0#6) .nonzeroField (.instr (.maccScale (wD w) (wY w)))
  | _ => .nonInstr .reservedCode

/-- Uniform set, major opcode 0x00: SADD, SSUB, SMUL, SMULHI_S, SMULHI_N, SAND, SOR, SXOR, SANDN, SSHLV, SSHRV, SSARV, SMIN_S, SMAX_S, SMIN_N, SMAX_N, SCLZ, SPOPC, SROTV, SCTZ, SBREV, SMOV. -/
def uni00 (w : Word) : Decoded :=
  match (wK w).toNat with
  | 0 => .instr (.sadd (wD w) (wX w) (wY w))
  | 1 => .instr (.ssub (wD w) (wX w) (wY w))
  | 2 => .instr (.smul (wD w) (wX w) (wY w))
  | 3 => .instr (.smulhiS (wD w) (wX w) (wY w))
  | 4 => .instr (.smulhiN (wD w) (wX w) (wY w))
  | 5 => .instr (.sand (wD w) (wX w) (wY w))
  | 6 => .instr (.sor (wD w) (wX w) (wY w))
  | 7 => .instr (.sxor (wD w) (wX w) (wY w))
  | 8 => .instr (.sandn (wD w) (wX w) (wY w))
  | 9 => .instr (.sshlv (wD w) (wX w) (wY w))
  | 10 => .instr (.sshrv (wD w) (wX w) (wY w))
  | 11 => .instr (.ssarv (wD w) (wX w) (wY w))
  | 12 => .instr (.sminS (wD w) (wX w) (wY w))
  | 13 => .instr (.smaxS (wD w) (wX w) (wY w))
  | 14 => .instr (.sminN (wD w) (wX w) (wY w))
  | 15 => .instr (.smaxN (wD w) (wX w) (wY w))
  | 16 => .need (wY w == 0#6) .nonzeroField (.instr (.sclz (wD w) (wX w)))
  | 17 => .need (wY w == 0#6) .nonzeroField (.instr (.spopc (wD w) (wX w)))
  | 18 => .instr (.srotv (wD w) (wX w) (wY w))
  | 19 => .need (wY w == 0#6) .nonzeroField (.instr (.sctz (wD w) (wX w)))
  | 20 => .need (wY w == 0#6) .nonzeroField (.instr (.sbrev (wD w) (wX w)))
  | 21 => .need (wY w == 0#6) .nonzeroField (.instr (.smov (wD w) (wX w)))
  | _ => .nonInstr .reservedCode

/-- Uniform set, major opcode 0x01: SCMP. -/
def uni01 (w : Word) : Decoded :=
  .need ((wK w).extractLsb' 3 3 == 0#3) .reservedCode (.instr (.scmp (wD w) (wX w) (wY w) (Cond.ofCode ((wK w).extractLsb' 0 3))))

/-- Uniform set, major opcode 0x02: SADDI. -/
def uni02 (w : Word) : Decoded :=
  .instr (.saddi (wD w) (wX w) (wI12 w))

/-- Uniform set, major opcode 0x03: SANDI. -/
def uni03 (w : Word) : Decoded :=
  .instr (.sandi (wD w) (wX w) (wI12 w))

/-- Uniform set, major opcode 0x04: SORI. -/
def uni04 (w : Word) : Decoded :=
  .instr (.sori (wD w) (wX w) (wI12 w))

/-- Uniform set, major opcode 0x05: SSHLI, SSHRI, SSARI, SROTI. -/
def uni05 (w : Word) : Decoded :=
  match ((wI12 w).extractLsb' 6 2).toNat with
  | 0 => .need ((wI12 w).extractLsb' 8 4 == 0#4) .nonzeroField (.instr (.sshli (wD w) (wX w) ((wI12 w).extractLsb' 0 6)))
  | 1 => .need ((wI12 w).extractLsb' 8 4 == 0#4) .nonzeroField (.instr (.sshri (wD w) (wX w) ((wI12 w).extractLsb' 0 6)))
  | 2 => .need ((wI12 w).extractLsb' 8 4 == 0#4) .nonzeroField (.instr (.ssari (wD w) (wX w) ((wI12 w).extractLsb' 0 6)))
  | _ => .need ((wI12 w).extractLsb' 8 4 == 0#4) .nonzeroField (.instr (.sroti (wD w) (wX w) ((wI12 w).extractLsb' 0 6)))

/-- Uniform set, major opcode 0x06: SMOVI. -/
def uni06 (w : Word) : Decoded :=
  .instr (.smovi (wD w) (wI18 w))

/-- Uniform set, major opcode 0x07: SLIT_A. -/
def uni07 (w : Word) : Decoded :=
  .instr (.slitA (wD w) (wI18 w))

/-- Uniform set, major opcode 0x08: SLIT_B. -/
def uni08 (w : Word) : Decoded :=
  .instr (.slitB (wD w) (wI18 w))

/-- Uniform set, major opcode 0x09: SLIT_C. -/
def uni09 (w : Word) : Decoded :=
  .instr (.slitC (wD w) (wI18 w))

/-- Uniform set, major opcode 0x0A: SRDS. -/
def uni0A (w : Word) : Decoded :=
  .need (wX w == 0#6) .nonzeroField (.instr (.srds (wD w) (wI12 w)))

/-- Uniform set, major opcode 0x0B: SWRS. -/
def uni0B (w : Word) : Decoded :=
  .instr (.swrs (wD w) (wX w) (wI12 w))

/-- Uniform set, major opcode 0x0C: UBR. -/
def uni0C (w : Word) : Decoded :=
  .code (UbrCond.ofCode? (wCond w)) fun c => .instr (.ubr (wD w) c (wI15 w))

/-- Uniform set, major opcode 0x0D: SLD. -/
def uni0D (w : Word) : Decoded :=
  .instr (.sld (wD w) (wX w) (wI12 w))

/-- Uniform set, major opcode 0x0E: SST. -/
def uni0E (w : Word) : Decoded :=
  .instr (.sst (wD w) (wX w) ((wI12 w).extractLsb' 3 9) ((wI12 w).extractLsb' 0 3))

/-- Uniform set, major opcode 0x0F: SATOM_ADD, SATOM_MIN_S, SATOM_MAX_S, SATOM_MIN_N, SATOM_MAX_N, SATOM_AND, SATOM_OR, SATOM_XOR, SATOM_EXCH, SATOM_CAS. -/
def uni0F (w : Word) : Decoded :=
  match ((wK w).extractLsb' 0 4).toNat with
  | 0 => .need (wY w == 0#6) .nonzeroField (.instr (.satomAdd (wD w) (wX w) (Order.ofCode ((wK w).extractLsb' 4 2))))
  | 1 => .need (wY w == 0#6) .nonzeroField (.instr (.satomMinS (wD w) (wX w) (Order.ofCode ((wK w).extractLsb' 4 2))))
  | 2 => .need (wY w == 0#6) .nonzeroField (.instr (.satomMaxS (wD w) (wX w) (Order.ofCode ((wK w).extractLsb' 4 2))))
  | 3 => .need (wY w == 0#6) .nonzeroField (.instr (.satomMinN (wD w) (wX w) (Order.ofCode ((wK w).extractLsb' 4 2))))
  | 4 => .need (wY w == 0#6) .nonzeroField (.instr (.satomMaxN (wD w) (wX w) (Order.ofCode ((wK w).extractLsb' 4 2))))
  | 5 => .need (wY w == 0#6) .nonzeroField (.instr (.satomAnd (wD w) (wX w) (Order.ofCode ((wK w).extractLsb' 4 2))))
  | 6 => .need (wY w == 0#6) .nonzeroField (.instr (.satomOr (wD w) (wX w) (Order.ofCode ((wK w).extractLsb' 4 2))))
  | 7 => .need (wY w == 0#6) .nonzeroField (.instr (.satomXor (wD w) (wX w) (Order.ofCode ((wK w).extractLsb' 4 2))))
  | 8 => .need (wY w == 0#6) .nonzeroField (.instr (.satomExch (wD w) (wX w) (Order.ofCode ((wK w).extractLsb' 4 2))))
  | 9 => .instr (.satomCas (wD w) (wX w) (wY w) (Order.ofCode ((wK w).extractLsb' 4 2)))
  | _ => .nonInstr .reservedCode

/-- Uniform set, major opcode 0x10: XPAT. -/
def uni10 (w : Word) : Decoded :=
  match (wK w).toNat with
  | 0 => .need (wD w == 0#6) .nonzeroField (.need (wY w == 0#6) .nonzeroField (.instr (.xpat (wX w))))
  | _ => .nonInstr .reservedCode

/-- Uniform set, major opcode 0x11: JORD. -/
def uni11 (w : Word) : Decoded :=
  .need (wD w == 0#6) .nonzeroField (.need (wX w == 0#6) .nonzeroField (.need ((wI12 w).extractLsb' 2 10 == 0#10) .nonzeroField (.instr (.jord (JetOrder.ofCode ((wI12 w).extractLsb' 0 2))))))

/-- Uniform set, major opcode 0x12: TFETCH, TFETCH_B, TFETCH_R. -/
def uni12 (w : Word) : Decoded :=
  match ((wI12 w).extractLsb' 0 2).toNat with
  | 0 => .need (wX w == 0#6) .nonzeroField (.need ((wI12 w).extractLsb' 2 10 == 0#10) .nonzeroField (.instr (.tfetch (wD w))))
  | 1 => .need ((wI12 w).extractLsb' 2 10 == 0#10) .nonzeroField (.instr (.tfetchB (wD w) (wX w)))
  | 2 => .need (wX w == 0#6) .nonzeroField (.need ((wI12 w).extractLsb' 2 10 == 0#10) .nonzeroField (.instr (.tfetchR (wD w))))
  | _ => .nonInstr .reservedCode

/-- Uniform set, major opcode 0x13: SHPSET. -/
def uni13 (w : Word) : Decoded :=
  .need (wD w == 0#6) .nonzeroField (.need ((wI12 w).extractLsb' 5 7 == 0#7) .nonzeroField (.instr (.shpset (wX w) ((wI12 w).extractLsb' 0 5))))

/-- Uniform set, major opcode 0x14: XACQ, XREL, XGIVE, XTAKE. -/
def uni14 (w : Word) : Decoded :=
  match ((wI12 w).extractLsb' 0 2).toNat with
  | 0 => .need (wD w == 0#6) .nonzeroField (.need (wX w == 0#6) .nonzeroField (.need ((wI12 w).extractLsb' 2 10 == 0#10) .nonzeroField (.instr (.xacq))))
  | 1 => .need (wD w == 0#6) .nonzeroField (.need (wX w == 0#6) .nonzeroField (.need ((wI12 w).extractLsb' 2 10 == 0#10) .nonzeroField (.instr (.xrel))))
  | 2 => .need (wD w == 0#6) .nonzeroField (.need ((wI12 w).extractLsb' 2 10 == 0#10) .nonzeroField (.instr (.xgive (wX w))))
  | _ => .need (wX w == 0#6) .nonzeroField (.need ((wI12 w).extractLsb' 2 10 == 0#10) .nonzeroField (.instr (.xtake (wD w))))

/-- Uniform set, major opcode 0x15: BARSET. -/
def uni15 (w : Word) : Decoded :=
  .need (wD w == 0#6) .nonzeroField (.need ((wI12 w).extractLsb' 6 6 == 0#6) .nonzeroField (.need ((wI12 w).extractLsb' 4 2 == 0#2) .nonzeroField (.instr (.barset (wX w) ((wI12 w).extractLsb' 0 4)))))

/-- Uniform set, major opcode 0x16: ETAIL. -/
def uni16 (w : Word) : Decoded :=
  .need (wD w == 0#6) .nonzeroField (.need ((wI12 w).extractLsb' 2 10 == 0#10) .nonzeroField (.code (Engine.ofCode? ((wI12 w).extractLsb' 0 2)) fun e => .instr (.etail (wX w) e)))

/-- Uniform set, major opcode 0x17: EWAIT. -/
def uni17 (w : Word) : Decoded :=
  .need ((wI12 w).extractLsb' 2 10 == 0#10) .nonzeroField (.code (Engine.ofCode? ((wI12 w).extractLsb' 0 2)) fun e => .instr (.ewait (wD w) (wX w) e))

/-- Uniform set, major opcode 0x18: CMO_CLEAN, CMO_INVALIDATE, CMO_CLEAN_INVALIDATE. -/
def uni18 (w : Word) : Decoded :=
  match ((wK w).extractLsb' 0 2).toNat with
  | 0 => .need (wD w == 0#6) .nonzeroField (.need ((wK w).extractLsb' 4 2 == 0#2) .nonzeroField (.code (CmoLevel.ofCode? ((wK w).extractLsb' 2 2)) fun l => .instr (.cmoClean (wX w) (wY w) l)))
  | 1 => .need (wD w == 0#6) .nonzeroField (.need ((wK w).extractLsb' 4 2 == 0#2) .nonzeroField (.code (CmoLevel.ofCode? ((wK w).extractLsb' 2 2)) fun l => .instr (.cmoInvalidate (wX w) (wY w) l)))
  | 2 => .need (wD w == 0#6) .nonzeroField (.need ((wK w).extractLsb' 4 2 == 0#2) .nonzeroField (.code (CmoLevel.ofCode? ((wK w).extractLsb' 2 2)) fun l => .instr (.cmoCleanInvalidate (wX w) (wY w) l)))
  | _ => .nonInstr .reservedCode

/-- Uniform set, major opcode 0x19: TINV. -/
def uni19 (w : Word) : Decoded :=
  match (wK w).toNat with
  | 0 => .instr (.tinv (wD w) (wX w) (wY w))
  | _ => .nonInstr .reservedCode

/-- Uniform set, major opcode 0x1A: BANKMODE. -/
def uni1A (w : Word) : Decoded :=
  .need ((wI12 w).extractLsb' 2 10 == 0#10) .nonzeroField (.code (BankMode.ofCode? ((wI12 w).extractLsb' 0 2)) fun o => .instr (.bankmode (wD w) (wX w) o))

/-- Uniform set, major opcode 0x1B: QOPEN, QCLOSE, QTRY. -/
def uni1B (w : Word) : Decoded :=
  match ((wI12 w).extractLsb' 4 2).toNat with
  | 0 => .need ((wI12 w).extractLsb' 6 6 == 0#6) .nonzeroField (.instr (.qopen (wD w) (wX w) ((wI12 w).extractLsb' 0 4)))
  | 1 => .need ((wI12 w).extractLsb' 6 6 == 0#6) .nonzeroField (.instr (.qclose (wD w) (wX w) ((wI12 w).extractLsb' 0 4)))
  | 2 => .need (wX w == 0#6) .nonzeroField (.need ((wI12 w).extractLsb' 6 6 == 0#6) .nonzeroField (.instr (.qtry (wD w) ((wI12 w).extractLsb' 0 4))))
  | _ => .nonInstr .reservedCode

/-- Uniform set, major opcode 0x1C: ARM. -/
def uni1C (w : Word) : Decoded :=
  .instr (.arm (wD w) (wX w) (wI12 w))

/-- Uniform set, major opcode 0x1D: LAUNCH. -/
def uni1D (w : Word) : Decoded :=
  .need (wI12 w == 0#12) .nonzeroField (.instr (.launch (wD w) (wX w)))

/-- Uniform set, major opcode 0x1E: CANCEL. -/
def uni1E (w : Word) : Decoded :=
  .need ((wI12 w).extractLsb' 2 10 == 0#10) .nonzeroField (.instr (.cancel (wD w) (wX w) (CancelLevel.ofCode ((wI12 w).extractLsb' 0 2))))

/-- Uniform set, major opcode 0x1F: FRPT. -/
def uni1F (w : Word) : Decoded :=
  .need ((wI12 w).extractLsb' 3 9 == 0#9) .nonzeroField (.instr (.frpt (wD w) (wX w) ((wI12 w).extractLsb' 0 3)))

/-- Uniform set, major opcode 0x20: FOPR. -/
def uni20 (w : Word) : Decoded :=
  .need ((wI12 w).extractLsb' 1 11 == 0#11) .nonzeroField (.instr (.fopr (wD w) (wX w) ((wI12 w).extractLsb' 0 1)))

/-- Uniform set, major opcode 0x21: PLACE, UNPLACE. -/
def uni21 (w : Word) : Decoded :=
  match (wK w).toNat with
  | 0 => .instr (.place (wD w) (wX w) (wY w))
  | 1 => .need (wY w == 0#6) .nonzeroField (.instr (.unplace (wD w) (wX w)))
  | _ => .nonInstr .reservedCode

/-- Uniform set, major opcode 0x22: PREEMPT. -/
def uni22 (w : Word) : Decoded :=
  .instr (.preempt (wD w) (wX w) (wY w) (wK w))

/-- Uniform set, major opcode 0x23: MIGRATE. -/
def uni23 (w : Word) : Decoded :=
  match (wK w).toNat with
  | 0 => .instr (.migrate (wD w) (wX w) (wY w))
  | _ => .nonInstr .reservedCode

/-- Uniform set, major opcode 0x24: RESUME. -/
def uni24 (w : Word) : Decoded :=
  match (wK w).toNat with
  | 0 => .instr (.resume (wD w) (wX w) (wY w))
  | _ => .nonInstr .reservedCode

/-- Uniform set, major opcode 0x25: CRESET. -/
def uni25 (w : Word) : Decoded :=
  .need (wI12 w == 0#12) .nonzeroField (.instr (.creset (wD w) (wX w)))

/-- Uniform set, major opcode 0x26: MAPSYNC. -/
def uni26 (w : Word) : Decoded :=
  match (wK w).toNat with
  | 0 => .instr (.mapsync (wD w) (wX w) (wY w))
  | _ => .nonInstr .reservedCode

/-- Uniform set, major opcode 0x27: CNTRD. -/
def uni27 (w : Word) : Decoded :=
  .need (wX w == 0#6) .nonzeroField (.instr (.cntrd (wD w) (wI12 w)))

/-- Uniform set, major opcode 0x28: CNTCFG. -/
def uni28 (w : Word) : Decoded :=
  match (wK w).toNat with
  | 0 => .instr (.cntcfg (wD w) (wX w) (wY w))
  | _ => .nonInstr .reservedCode

/-- Uniform set, major opcode 0x29: TRET. -/
def uni29 (w : Word) : Decoded :=
  .need (wD w == 0#6) .nonzeroField (.need (wX w == 0#6) .nonzeroField (.need (wI12 w == 0#12) .nonzeroField (.instr (.tret))))

/-- Uniform set, major opcode 0x2A: STRAP. -/
def uni2A (w : Word) : Decoded :=
  .need (wD w == 0#6) .nonzeroField (.need ((wI12 w).extractLsb' 6 6 == 0#6) .nonzeroField (.need ((wI12 w).extractLsb' 4 2 == 0#2) .nonzeroField (.instr (.strap (wX w) ((wI12 w).extractLsb' 0 4)))))

/-- Uniform set, major opcode 0x2B: DBG_HALT, DBG_STEP, DBG_STEPALL, DBG_CONT, DBG_RDSEL. -/
def uni2B (w : Word) : Decoded :=
  match (wK w).toNat with
  | 0 => .instr (.dbgHalt (wD w) (wX w) (wY w))
  | 1 => .instr (.dbgStep (wD w) (wX w) (wY w))
  | 2 => .instr (.dbgStepall (wD w) (wX w) (wY w))
  | 3 => .instr (.dbgCont (wD w) (wX w) (wY w))
  | 4 => .instr (.dbgRdsel (wD w) (wX w) (wY w))
  | _ => .nonInstr .reservedCode

/-- Uniform set, major opcode 0x2C: GRD, GWR, GADD, GXCH. -/
def uni2C (w : Word) : Decoded :=
  match ((wI12 w).extractLsb' 4 2).toNat with
  | 0 => .need (wX w == 0#6) .nonzeroField (.need ((wI12 w).extractLsb' 6 6 == 0#6) .nonzeroField (.instr (.grd (wD w) ((wI12 w).extractLsb' 0 4))))
  | 1 => .need ((wI12 w).extractLsb' 6 6 == 0#6) .nonzeroField (.instr (.gwr (wD w) (wX w) ((wI12 w).extractLsb' 0 4)))
  | 2 => .need ((wI12 w).extractLsb' 6 6 == 0#6) .nonzeroField (.instr (.gadd (wD w) (wX w) ((wI12 w).extractLsb' 0 4)))
  | _ => .need ((wI12 w).extractLsb' 6 6 == 0#6) .nonzeroField (.instr (.gxch (wD w) (wX w) ((wI12 w).extractLsb' 0 4)))

/-- Uniform set, major opcode 0x2D: LDK. -/
def uni2D (w : Word) : Decoded :=
  .need ((wI12 w).extractLsb' 1 11 == 0#11) .nonzeroField (.instr (.ldk (wD w) (wX w) ((wI12 w).extractLsb' 0 1)))

/-- The lane-set opcode map (R40). -/
def decodeLane (w : Word) : Decoded :=
  match (wOp w).toNat with
  | 0 => lane00 w
  | 1 => lane01 w
  | 2 => lane02 w
  | 3 => lane03 w
  | 4 => lane04 w
  | 5 => lane05 w
  | 6 => lane06 w
  | 7 => lane07 w
  | 8 => lane08 w
  | 9 => lane09 w
  | 10 => lane0A w
  | 11 => lane0B w
  | 12 => lane0C w
  | 13 => lane0D w
  | 14 => lane0E w
  | 15 => lane0F w
  | 16 => lane10 w
  | 17 => lane11 w
  | 18 => lane12 w
  | 19 => lane13 w
  | 20 => lane14 w
  | 21 => lane15 w
  | 22 => lane16 w
  | 23 => lane17 w
  | 24 => lane18 w
  | 25 => lane19 w
  | 26 => lane1A w
  | 27 => lane1B w
  | 28 => lane1C w
  | 29 => lane1D w
  | 30 => lane1E w
  | 31 => lane1F w
  | 32 => lane20 w
  | 33 => lane21 w
  | 34 => lane22 w
  | 35 => lane23 w
  | 36 => lane24 w
  | 37 => lane25 w
  | 38 => lane26 w
  | 39 => lane27 w
  | 40 => lane28 w
  | 41 => lane29 w
  | 42 => lane2A w
  | 43 => lane2B w
  | 44 => lane2C w
  | 45 => lane2D w
  | 46 => lane2E w
  | 47 => lane2F w
  | 48 => lane30 w
  | 49 => lane31 w
  | 50 => lane32 w
  | 51 => lane33 w
  | 52 => lane34 w
  | 53 => lane35 w
  | 54 => lane36 w
  | 55 => lane37 w
  | 56 => lane38 w
  | 57 => lane39 w
  | 58 => lane3A w
  | 59 => lane3B w
  | _ => .nonInstr .reservedOpcode

/-- The uniform-set opcode map (R41). -/
def decodeUni (w : Word) : Decoded :=
  match (wOp w).toNat with
  | 0 => uni00 w
  | 1 => uni01 w
  | 2 => uni02 w
  | 3 => uni03 w
  | 4 => uni04 w
  | 5 => uni05 w
  | 6 => uni06 w
  | 7 => uni07 w
  | 8 => uni08 w
  | 9 => uni09 w
  | 10 => uni0A w
  | 11 => uni0B w
  | 12 => uni0C w
  | 13 => uni0D w
  | 14 => uni0E w
  | 15 => uni0F w
  | 16 => uni10 w
  | 17 => uni11 w
  | 18 => uni12 w
  | 19 => uni13 w
  | 20 => uni14 w
  | 21 => uni15 w
  | 22 => uni16 w
  | 23 => uni17 w
  | 24 => uni18 w
  | 25 => uni19 w
  | 26 => uni1A w
  | 27 => uni1B w
  | 28 => uni1C w
  | 29 => uni1D w
  | 30 => uni1E w
  | 31 => uni1F w
  | 32 => uni20 w
  | 33 => uni21 w
  | 34 => uni22 w
  | 35 => uni23 w
  | 36 => uni24 w
  | 37 => uni25 w
  | 38 => uni26 w
  | 39 => uni27 w
  | 40 => uni28 w
  | 41 => uni29 w
  | 42 => uni2A w
  | 43 => uni2B w
  | 44 => uni2C w
  | 45 => uni2D w
  | _ => .nonInstr .reservedOpcode

/-- An instruction whose registers or indices R40 to R44 forbid is a non-instruction. -/
def Decoded.checked (d : Decoded) : Decoded :=
  match d with
  | .instr i => .need i.wellFormed .badRegister (.instr i)
  | .nonInstr e => .nonInstr e

/-- The instruction a word stands for, or the reason it is none (R40 to R44) (DEDUCED, log 60). -/
def decode (w : Word) : Decoded :=
  (match (wS w).toNat with
  | 0 => decodeLane w
  | _ => decodeUni w).checked

/-- The word at the head of a list of bytes, least significant byte first (R26). -/
def wordOfBytes (bs : List Byte) : Option (Word × List Byte) :=
  match bs with
  | b0 :: b1 :: b2 :: b3 :: rest => some (b3 ++ b2 ++ b1 ++ b0, rest)
  | _ => none

/-- The four bytes of a word as they lie in memory. -/
def bytesOfWord (w : Word) : List Byte :=
  [w.extractLsb' 0 8, w.extractLsb' 8 8, w.extractLsb' 16 8, w.extractLsb' 24 8]

/-- The instruction at the head of a list of bytes. -/
def decodeBytes (bs : List Byte) : Decoded :=
  match wordOfBytes bs with
  | some (w, _) => decode w
  | none => .nonInstr .truncated

/-- The instruction the decoder reads from a row's bits as spec/opcode_table.json numbers them. Every instruction is
one word, so the bits above `nbits` are zero. -/
def decodeTableWord (nbits w : Nat) : Option Instr :=
  match decodeBytes (bytesOfWord (BitVec.ofNat 32 (w % 2 ^ nbits))) with
  | .instr i => some i
  | .nonInstr _ => none

/-! The encoder: the formats of R33 and R38, and the word of every encoded instruction. -/

/-- Format LR. -/
def packLR (m : Bool) (op : BitVec 6) (d : BitVec 6) (a : BitVec 8) (b : BitVec 8) (f : BitVec 2) : Word :=
  0#1 ++ BitVec.ofBool m ++ op ++ d ++ a ++ b ++ f
/-- Format LI. -/
def packLI (m : Bool) (op : BitVec 6) (d : BitVec 6) (a : BitVec 8) (i : BitVec 10) : Word :=
  0#1 ++ BitVec.ofBool m ++ op ++ d ++ a ++ i
/-- Format LX. -/
def packLX (m : Bool) (op : BitVec 6) (d : BitVec 6) (i : BitVec 18) : Word :=
  0#1 ++ BitVec.ofBool m ++ op ++ d ++ i
/-- Format LB. -/
def packLB (m : Bool) (op : BitVec 6) (p : BitVec 3) (n : BitVec 1) (i : BitVec 20) : Word :=
  0#1 ++ BitVec.ofBool m ++ op ++ p ++ n ++ i
/-- Format LM. -/
def packLM (m : Bool) (op : BitVec 6) (d : BitVec 6) (x : BitVec 6) (b : BitVec 6) (c : BitVec 3) (z : BitVec 3) : Word :=
  0#1 ++ BitVec.ofBool m ++ op ++ d ++ x ++ b ++ c ++ z
/-- Format LQ. -/
def packLQ (m : Bool) (op : BitVec 6) (d : BitVec 6) (a : BitVec 6) (b : BitVec 6) (k : BitVec 6) : Word :=
  0#1 ++ BitVec.ofBool m ++ op ++ d ++ a ++ b ++ k
/-- Format LF. -/
def packLF (m : Bool) (op : BitVec 6) (c : BitVec 8) (s : BitVec 3) (k : BitVec 2) (r : BitVec 1) (z : BitVec 10) : Word :=
  0#1 ++ BitVec.ofBool m ++ op ++ c ++ s ++ k ++ r ++ z
/-- Format UR. -/
def packUR (m : Bool) (op : BitVec 6) (d : BitVec 6) (a : BitVec 6) (b : BitVec 6) (f : BitVec 6) : Word :=
  1#1 ++ BitVec.ofBool m ++ op ++ d ++ a ++ b ++ f
/-- Format UI. -/
def packUI (m : Bool) (op : BitVec 6) (d : BitVec 6) (a : BitVec 6) (i : BitVec 12) : Word :=
  1#1 ++ BitVec.ofBool m ++ op ++ d ++ a ++ i
/-- Format UE. -/
def packUE (m : Bool) (op : BitVec 6) (a : BitVec 6) (b : BitVec 6) (i : BitVec 12) : Word :=
  1#1 ++ BitVec.ofBool m ++ op ++ a ++ b ++ i
/-- Format UX. -/
def packUX (m : Bool) (op : BitVec 6) (d : BitVec 6) (i : BitVec 18) : Word :=
  1#1 ++ BitVec.ofBool m ++ op ++ d ++ i
/-- Format UB. -/
def packUB (m : Bool) (op : BitVec 6) (a : BitVec 6) (c : BitVec 3) (i : BitVec 15) : Word :=
  1#1 ++ BitVec.ofBool m ++ op ++ a ++ c ++ i

/-- The word of an instruction; the further steps of the device have none (DESIGN CHOICE, log 28). -/
def encode (m : Bool) (i : Instr) : Option Word :=
  match i with
  | .iadd d a b => some (packLR m 0#6 d a.code b.code 0#2)
  | .isub d a b => some (packLR m 0#6 d a.code b.code 1#2)
  | .iminS d a b => some (packLR m 0#6 d a.code b.code 2#2)
  | .imaxS d a b => some (packLR m 0#6 d a.code b.code 3#2)
  | .iminN d a b => some (packLR m 1#6 d a.code b.code 0#2)
  | .imaxN d a b => some (packLR m 1#6 d a.code b.code 1#2)
  | .iabsd d a b => some (packLR m 1#6 d a.code b.code 2#2)
  | .ipopc d a => some (packLR m 1#6 d a.code 0#8 3#2)
  | .iand d a b => some (packLR m 2#6 d a.code b.code 0#2)
  | .ior d a b => some (packLR m 2#6 d a.code b.code 1#2)
  | .ixor d a b => some (packLR m 2#6 d a.code b.code 2#2)
  | .iandn d a b => some (packLR m 2#6 d a.code b.code 3#2)
  | .ishl d a b => some (packLR m 3#6 d a.code b.code 0#2)
  | .ishr d a b => some (packLR m 3#6 d a.code b.code 1#2)
  | .isar d a b => some (packLR m 3#6 d a.code b.code 2#2)
  | .irot d a b => some (packLR m 3#6 d a.code b.code 3#2)
  | .imul d a b => some (packLR m 4#6 d a.code b.code 0#2)
  | .imulhiS d a b => some (packLR m 4#6 d a.code b.code 1#2)
  | .imulhiN d a b => some (packLR m 4#6 d a.code b.code 2#2)
  | .imad d a b => some (packLR m 4#6 d a.code b.code 3#2)
  | .iclz d a => some (packLR m 5#6 d a.code 0#8 0#2)
  | .ibrev d a => some (packLR m 5#6 d a.code 0#8 1#2)
  | .ibfx d a b => some (packLR m 5#6 d a.code b.code 2#2)
  | .ibfi d a b => some (packLR m 5#6 d a.code b.code 3#2)
  | .icmpSEq p a b => some (packLR m 6#6 (0#3 ++ p) a.code b.code 0#2)
  | .icmpSNe p a b => some (packLR m 6#6 (0#3 ++ p) a.code b.code 1#2)
  | .icmpSLt p a b => some (packLR m 6#6 (0#3 ++ p) a.code b.code 2#2)
  | .icmpSLe p a b => some (packLR m 6#6 (0#3 ++ p) a.code b.code 3#2)
  | .icmpNEq p a b => some (packLR m 7#6 (0#3 ++ p) a.code b.code 0#2)
  | .icmpNNe p a b => some (packLR m 7#6 (0#3 ++ p) a.code b.code 1#2)
  | .icmpNLt p a b => some (packLR m 7#6 (0#3 ++ p) a.code b.code 2#2)
  | .icmpNLe p a b => some (packLR m 7#6 (0#3 ++ p) a.code b.code 3#2)
  | .psub d a b g => some (packLR m 8#6 d a.code b.code g)
  | .padd d a b g => some (packLR m 9#6 d a.code b.code g)
  | .pmov d a b g => some (packLR m 10#6 d a.code b.code g)
  | .pand d a b => some (packLR m 11#6 (0#3 ++ d) (0#5 ++ a) (0#5 ++ b) 0#2)
  | .por d a b => some (packLR m 11#6 (0#3 ++ d) (0#5 ++ a) (0#5 ++ b) 1#2)
  | .pxor d a b => some (packLR m 11#6 (0#3 ++ d) (0#5 ++ a) (0#5 ++ b) 2#2)
  | .pandn d a b => some (packLR m 11#6 (0#3 ++ d) (0#5 ++ a) (0#5 ++ b) 3#2)
  | .iaddi d a i => some (packLI m 12#6 d a.code i)
  | .iandi d a i => some (packLI m 13#6 d a.code i)
  | .ishli d a n => some (packLI m 14#6 d a.code (0#2 ++ 0#3 ++ n))
  | .ishri d a n => some (packLI m 14#6 d a.code (1#2 ++ 0#3 ++ n))
  | .isari d a n => some (packLI m 14#6 d a.code (2#2 ++ 0#3 ++ n))
  | .iroti d a n => some (packLI m 14#6 d a.code (3#2 ++ 0#3 ++ n))
  | .icmpi c p a i => some (packLI m 15#6 (c.code ++ p) a.code i)
  | .movi d i => some (packLX m 16#6 d i)
  | .movhi d i => some (packLX m 17#6 d i)
  | .srd d i => some (packLI m 18#6 d 0#8 i)
  | .tidx d a b => some (packLR m 19#6 d a.code (3#2 ++ b) 0#2)
  | .fadd d a b => some (packLR m 20#6 d a.code b.code 0#2)
  | .fsub d a b => some (packLR m 20#6 d a.code b.code 1#2)
  | .fmul d a b => some (packLR m 20#6 d a.code b.code 2#2)
  | .ffma d a b => some (packLR m 20#6 d a.code b.code 3#2)
  | .fmin d a b => some (packLR m 21#6 d a.code b.code 0#2)
  | .fmax d a b => some (packLR m 21#6 d a.code b.code 1#2)
  | .ffmsub d a b => some (packLR m 21#6 d a.code b.code 2#2)
  | .ffnma d a b => some (packLR m 21#6 d a.code b.code 3#2)
  | .fabs d a => some (packLR m 22#6 d a.code 0#8 0#2)
  | .fneg d a => some (packLR m 22#6 d a.code 0#8 1#2)
  | .fcpsgn d a b => some (packLR m 22#6 d a.code b.code 2#2)
  | .fnabs d a => some (packLR m 22#6 d a.code 0#8 3#2)
  | .fcmpEq p a b => some (packLR m 23#6 (0#3 ++ p) a.code b.code 0#2)
  | .fcmpLt p a b => some (packLR m 23#6 (0#3 ++ p) a.code b.code 1#2)
  | .fcmpLe p a b => some (packLR m 23#6 (0#3 ++ p) a.code b.code 2#2)
  | .fcmpUnord p a b => some (packLR m 23#6 (0#3 ++ p) a.code b.code 3#2)
  | .fdiv d a b => some (packLR m 24#6 d a.code b.code 0#2)
  | .fsqrt d a => some (packLR m 24#6 d a.code 0#8 1#2)
  | .frcp d a => some (packLR m 24#6 d a.code 0#8 2#2)
  | .frsq d a => some (packLR m 24#6 d a.code 0#8 3#2)
  | .fexp2 d a => some (packLR m 25#6 d a.code 0#8 0#2)
  | .flog2 d a => some (packLR m 25#6 d a.code 0#8 1#2)
  | .ftanh d a => some (packLR m 25#6 d a.code 0#8 2#2)
  | .fsigm d a => some (packLR m 25#6 d a.code 0#8 3#2)
  | .fsin d a => some (packLR m 26#6 d a.code 0#8 0#2)
  | .fcos d a => some (packLR m 26#6 d a.code 0#8 1#2)
  | .fsint d a => some (packLR m 26#6 d a.code 0#8 2#2)
  | .fcost d a => some (packLR m 26#6 d a.code 0#8 3#2)
  | .frndRne d a => some (packLR m 27#6 d a.code 0#8 0#2)
  | .frndRtz d a => some (packLR m 27#6 d a.code 0#8 1#2)
  | .frndFloor d a => some (packLR m 27#6 d a.code 0#8 2#2)
  | .frndCeil d a => some (packLR m 27#6 d a.code 0#8 3#2)
  | .cvtF32I32 d a => some (packLR m 28#6 d a.code 0#8 0#2)
  | .cvtF32N32 d a => some (packLR m 28#6 d a.code 0#8 1#2)
  | .cvtI32F32 d a => some (packLR m 28#6 d a.code 0#8 2#2)
  | .cvtN32F32 d a => some (packLR m 28#6 d a.code 0#8 3#2)
  | .unpkBf16lo d a => some (packLR m 29#6 d a.code 0#8 0#2)
  | .unpkBf16hi d a => some (packLR m 29#6 d a.code 0#8 1#2)
  | .packBf16 d a b => some (packLR m 29#6 d a.code b.code 2#2)
  | .packF16 d a b => some (packLR m 29#6 d a.code b.code 3#2)
  | .unpkE4m3 d a => some (packLR m 30#6 d a.code 0#8 0#2)
  | .unpkE5m2 d a => some (packLR m 30#6 d a.code 0#8 1#2)
  | .pkE4m3 d a => some (packLR m 30#6 d (0#2 ++ a) 0#8 2#2)
  | .pkE5m2 d a => some (packLR m 30#6 d (0#2 ++ a) 0#8 3#2)
  | .jseedSeed d a b => some (packLR m 31#6 d a.code b.code 0#2)
  | .jseedConst d a => some (packLR m 31#6 d a.code 0#8 1#2)
  | .jseedCopy d a => some (packLR m 31#6 d a.code 0#8 2#2)
  | .jget d a c => some (packLI m 32#6 d a.code (0#5 ++ 0#2 ++ c))
  | .jput d a c => some (packLI m 33#6 d a.code (0#5 ++ 0#2 ++ c))
  | .jflgRd d c => some (packLI m 34#6 d 0#8 (0#5 ++ 0#2 ++ c))
  | .jflgRc d c => some (packLI m 34#6 d 0#8 (0#5 ++ 1#2 ++ c))
  | .jflgClr d c => some (packLI m 34#6 d 0#8 (0#5 ++ 2#2 ++ c))
  | .ballot d p => some (packLR m 35#6 d (0#5 ++ p) 0#8 0#2)
  | .any d p => some (packLR m 35#6 d (0#5 ++ p) 0#8 1#2)
  | .all d p => some (packLR m 35#6 d (0#5 ++ p) 0#8 2#2)
  | .count d p => some (packLR m 35#6 d (0#5 ++ p) 0#8 3#2)
  | .reduxIadd d a => some (packLR m 36#6 d a.code 0#8 0#2)
  | .reduxIminS d a => some (packLR m 36#6 d a.code 0#8 1#2)
  | .reduxImaxS d a => some (packLR m 36#6 d a.code 0#8 2#2)
  | .reduxOr d a => some (packLR m 36#6 d a.code 0#8 3#2)
  | .scanIadd d a => some (packLR m 37#6 d a.code 0#8 0#2)
  | .scanFadd d a => some (packLR m 37#6 d a.code 0#8 1#2)
  | .scanImaxS d a => some (packLR m 37#6 d a.code 0#8 2#2)
  | .scanIaddExcl d a => some (packLR m 37#6 d a.code 0#8 3#2)
  | .ldG d x b c z => some (packLM m 38#6 d x b c.code z.code)
  | .stG d x b c z => some (packLM m 39#6 d x b c z.code)
  | .ldS d x b z => some (packLM m 40#6 d x b 0#3 z.code)
  | .stS d x b c z => some (packLM m 41#6 d x b c z.code)
  | .ldth d x b z => some (packLM m 42#6 d x b 0#3 z.code)
  | .ljoin d x b c z => some (packLM m 43#6 d x b c z.code)
  | .atomAdd d x b o w => some (packLM m 44#6 d x b 0#3 (o.code ++ w.code))
  | .atomMinS d x b o w => some (packLM m 44#6 d x b 1#3 (o.code ++ w.code))
  | .atomMaxS d x b o w => some (packLM m 44#6 d x b 2#3 (o.code ++ w.code))
  | .atomMinN d x b o w => some (packLM m 44#6 d x b 3#3 (o.code ++ w.code))
  | .atomMaxN d x b o w => some (packLM m 44#6 d x b 4#3 (o.code ++ w.code))
  | .atomAnd d x b o w => some (packLM m 44#6 d x b 5#3 (o.code ++ w.code))
  | .atomOr d x b o w => some (packLM m 44#6 d x b 6#3 (o.code ++ w.code))
  | .atomXor d x b o w => some (packLM m 44#6 d x b 7#3 (o.code ++ w.code))
  | .atomExch d x b o w => some (packLM m 45#6 d x b 0#3 (o.code ++ w.code))
  | .atomCas d x b o w => some (packLM m 45#6 d x b 1#3 (o.code ++ w.code))
  | .atomFadd d x b o => some (packLM m 45#6 d x b 2#3 (o.code ++ 0#1))
  | .atomFmax d x b o => some (packLM m 45#6 d x b 3#3 (o.code ++ 0#1))
  | .qpop d t s q => some (packLI m 46#6 d 0#8 (0#3 ++ BitVec.ofBool t ++ s.code ++ q))
  | .qpush d t s q => some (packLI m 47#6 d 0#8 (0#3 ++ BitVec.ofBool t ++ s.code ++ q))
  | .br p n i => some (packLB m 48#6 p (BitVec.ofBool n) i)
  | .call i => some (packLX m 49#6 0#6 i)
  | .jmpi a => some (packLR m 50#6 0#6 a.code 0#8 0#2)
  | .calli a => some (packLR m 50#6 0#6 a.code 0#8 1#2)
  | .ret => some (packLR m 50#6 0#6 0#8 0#8 2#2)
  | .loop a c i => some (packLI m 51#6 0#6 a.code (c.code ++ i))
  | .exit => some (packLR m 52#6 0#6 0#8 0#8 0#2)
  | .brk => some (packLR m 52#6 0#6 0#8 0#8 1#2)
  | .yield => some (packLR m 52#6 0#6 0#8 0#8 2#2)
  | .nop => some (packLR m 52#6 0#6 0#8 0#8 3#2)
  | .trap i => some (packLI m 53#6 0#6 0#8 i)
  | .barArrive b => some (packLI m 54#6 0#6 0#8 (0#4 ++ 0#2 ++ b))
  | .barWait b => some (packLI m 54#6 0#6 0#8 (0#4 ++ 1#2 ++ b))
  | .barSync b => some (packLI m 54#6 0#6 0#8 (0#4 ++ 2#2 ++ b))
  | .fence c s k r => some (packLF m 55#6 c s.code k.code (BitVec.ofBool r) 0#10)
  | .mmaRr d a b t z => some (packLQ m 56#6 d a b (t.code.1 ++ 0#1 ++ t.code.2 ++ BitVec.ofBool z))
  | .mmaRs d a b t z => some (packLQ m 57#6 d a b (t.code.1 ++ 0#1 ++ t.code.2 ++ BitVec.ofBool z))
  | .mmaSs d a b t z => some (packLQ m 58#6 d a b (t.code.1 ++ 0#1 ++ t.code.2 ++ BitVec.ofBool z))
  | .maccZero d => some (packLQ m 59#6 d 0#6 0#6 0#6)
  | .maccBf16 d a => some (packLQ m 59#6 d a 0#6 8#6)
  | .maccE4m3 d a => some (packLQ m 59#6 d a 0#6 16#6)
  | .maccScale d b => some (packLQ m 59#6 d 0#6 b 24#6)
  | .sadd d a b => some (packUR m 0#6 d a b 0#6)
  | .ssub d a b => some (packUR m 0#6 d a b 1#6)
  | .smul d a b => some (packUR m 0#6 d a b 2#6)
  | .smulhiS d a b => some (packUR m 0#6 d a b 3#6)
  | .smulhiN d a b => some (packUR m 0#6 d a b 4#6)
  | .sand d a b => some (packUR m 0#6 d a b 5#6)
  | .sor d a b => some (packUR m 0#6 d a b 6#6)
  | .sxor d a b => some (packUR m 0#6 d a b 7#6)
  | .sandn d a b => some (packUR m 0#6 d a b 8#6)
  | .sshlv d a b => some (packUR m 0#6 d a b 9#6)
  | .sshrv d a b => some (packUR m 0#6 d a b 10#6)
  | .ssarv d a b => some (packUR m 0#6 d a b 11#6)
  | .sminS d a b => some (packUR m 0#6 d a b 12#6)
  | .smaxS d a b => some (packUR m 0#6 d a b 13#6)
  | .sminN d a b => some (packUR m 0#6 d a b 14#6)
  | .smaxN d a b => some (packUR m 0#6 d a b 15#6)
  | .sclz d a => some (packUR m 0#6 d a 0#6 16#6)
  | .spopc d a => some (packUR m 0#6 d a 0#6 17#6)
  | .srotv d a b => some (packUR m 0#6 d a b 18#6)
  | .sctz d a => some (packUR m 0#6 d a 0#6 19#6)
  | .sbrev d a => some (packUR m 0#6 d a 0#6 20#6)
  | .smov d a => some (packUR m 0#6 d a 0#6 21#6)
  | .scmp d a b c => some (packUR m 1#6 d a b (0#3 ++ c.code))
  | .saddi d a i => some (packUI m 2#6 d a i)
  | .sandi d a i => some (packUI m 3#6 d a i)
  | .sori d a i => some (packUI m 4#6 d a i)
  | .sshli d a n => some (packUI m 5#6 d a (0#4 ++ 0#2 ++ n))
  | .sshri d a n => some (packUI m 5#6 d a (0#4 ++ 1#2 ++ n))
  | .ssari d a n => some (packUI m 5#6 d a (0#4 ++ 2#2 ++ n))
  | .sroti d a n => some (packUI m 5#6 d a (0#4 ++ 3#2 ++ n))
  | .smovi d i => some (packUX m 6#6 d i)
  | .slitA d i => some (packUX m 7#6 d i)
  | .slitB d i => some (packUX m 8#6 d i)
  | .slitC d i => some (packUX m 9#6 d i)
  | .srds d i => some (packUI m 10#6 d 0#6 i)
  | .swrs d a i => some (packUI m 11#6 d a i)
  | .ubr a c i => some (packUB m 12#6 a c.code i)
  | .sld d a i => some (packUI m 13#6 d a i)
  | .sst a b o c => some (packUE m 14#6 a b (o ++ c))
  | .satomAdd d a o => some (packUR m 15#6 d a 0#6 (o.code ++ 0#4))
  | .satomMinS d a o => some (packUR m 15#6 d a 0#6 (o.code ++ 1#4))
  | .satomMaxS d a o => some (packUR m 15#6 d a 0#6 (o.code ++ 2#4))
  | .satomMinN d a o => some (packUR m 15#6 d a 0#6 (o.code ++ 3#4))
  | .satomMaxN d a o => some (packUR m 15#6 d a 0#6 (o.code ++ 4#4))
  | .satomAnd d a o => some (packUR m 15#6 d a 0#6 (o.code ++ 5#4))
  | .satomOr d a o => some (packUR m 15#6 d a 0#6 (o.code ++ 6#4))
  | .satomXor d a o => some (packUR m 15#6 d a 0#6 (o.code ++ 7#4))
  | .satomExch d a o => some (packUR m 15#6 d a 0#6 (o.code ++ 8#4))
  | .satomCas d a b o => some (packUR m 15#6 d a b (o.code ++ 9#4))
  | .xpat a => some (packUR m 16#6 0#6 a 0#6 0#6)
  | .jord j => some (packUI m 17#6 0#6 0#6 (0#10 ++ j.code))
  | .tfetch d => some (packUI m 18#6 d 0#6 (0#10 ++ 0#2))
  | .tfetchB d a => some (packUI m 18#6 d a (0#10 ++ 1#2))
  | .tfetchR d => some (packUI m 18#6 d 0#6 (0#10 ++ 2#2))
  | .shpset a e => some (packUI m 19#6 0#6 a (0#7 ++ e))
  | .xacq => some (packUI m 20#6 0#6 0#6 (0#10 ++ 0#2))
  | .xrel => some (packUI m 20#6 0#6 0#6 (0#10 ++ 1#2))
  | .xgive a => some (packUI m 20#6 0#6 a (0#10 ++ 2#2))
  | .xtake d => some (packUI m 20#6 d 0#6 (0#10 ++ 3#2))
  | .barset a i => some (packUI m 21#6 0#6 a (0#6 ++ 0#2 ++ i))
  | .etail a e => some (packUI m 22#6 0#6 a (0#10 ++ e.code))
  | .ewait d a e => some (packUI m 23#6 d a (0#10 ++ e.code))
  | .cmoClean a b l => some (packUR m 24#6 0#6 a b (0#2 ++ l.code ++ 0#2))
  | .cmoInvalidate a b l => some (packUR m 24#6 0#6 a b (0#2 ++ l.code ++ 1#2))
  | .cmoCleanInvalidate a b l => some (packUR m 24#6 0#6 a b (0#2 ++ l.code ++ 2#2))
  | .tinv d a b => some (packUR m 25#6 d a b 0#6)
  | .bankmode d a o => some (packUI m 26#6 d a (0#10 ++ o.code))
  | .qopen d a q => some (packUI m 27#6 d a (0#6 ++ 0#2 ++ q))
  | .qclose d a q => some (packUI m 27#6 d a (0#6 ++ 1#2 ++ q))
  | .qtry d q => some (packUI m 27#6 d 0#6 (0#6 ++ 2#2 ++ q))
  | .arm d a i => some (packUI m 28#6 d a i)
  | .launch d a => some (packUI m 29#6 d a 0#12)
  | .cancel d a l => some (packUI m 30#6 d a (0#10 ++ l.code))
  | .frpt d a c => some (packUI m 31#6 d a (0#9 ++ c))
  | .fopr d a c => some (packUI m 32#6 d a (0#11 ++ c))
  | .place d a b => some (packUR m 33#6 d a b 0#6)
  | .unplace d a => some (packUR m 33#6 d a 0#6 1#6)
  | .preempt d a b c => some (packUR m 34#6 d a b c)
  | .migrate d a b => some (packUR m 35#6 d a b 0#6)
  | .resume d a b => some (packUR m 36#6 d a b 0#6)
  | .creset d a => some (packUI m 37#6 d a 0#12)
  | .mapsync d a b => some (packUR m 38#6 d a b 0#6)
  | .cntrd d i => some (packUI m 39#6 d 0#6 i)
  | .cntcfg d a b => some (packUR m 40#6 d a b 0#6)
  | .tret => some (packUI m 41#6 0#6 0#6 0#12)
  | .strap a c => some (packUI m 42#6 0#6 a (0#6 ++ 0#2 ++ c))
  | .dbgHalt d a b => some (packUR m 43#6 d a b 0#6)
  | .dbgStep d a b => some (packUR m 43#6 d a b 1#6)
  | .dbgStepall d a b => some (packUR m 43#6 d a b 2#6)
  | .dbgCont d a b => some (packUR m 43#6 d a b 3#6)
  | .dbgRdsel d a b => some (packUR m 43#6 d a b 4#6)
  | .grd d g => some (packUI m 44#6 d 0#6 (0#6 ++ 0#2 ++ g))
  | .gwr d a g => some (packUI m 44#6 d a (0#6 ++ 1#2 ++ g))
  | .gadd d a g => some (packUI m 44#6 d a (0#6 ++ 2#2 ++ g))
  | .gxch d a g => some (packUI m 44#6 d a (0#6 ++ 3#2 ++ g))
  | .ldk d a p => some (packUI m 45#6 d a (0#11 ++ p))
  | .resultReturn _ => none
  | .verdictArrival _ => none
  | .regionCommit _ => none
  | .trapDelivery _ _ _ => none
  | .rendezvousComplete _ _ _ => none
  | .heldAccessReissue _ => none
  | .sideLogReplay _ _ => none
  | .twillTranslation _ _ _ => none
  | .blockGrant _ _ => none
  | .workgroupEnd _ => none
  | .launchCompletion _ => none
  | .launchStart _ => none
  | .workgroupPlacement _ _ => none
  | .phaseStart _ => none
  | .doorbellWrite _ _ _ => none
  | .taggedMessage _ _ => none
  | .engineRecord _ _ _ _ => none
  | .queueWake _ _ => none
  | .ldthCellChange _ => none
  | .ldthPoll _ => none
  | .ldthWaitExpiry _ => none
  | .ewaitWake _ => none
  | .ewaitWaitExpiry _ => none
  | .tokenPass _ _ => none
  | .leaseGrant _ => none
  | .leaseQuantumEnd _ => none
  | .ageingTopPriority _ _ _ => none
  | .preemptFreeze _ _ => none
  | .exchangeBoundary _ _ => none
  | .lineJoin _ => none
  | .heldLineJoin _ => none
  | .softError _ => none
  | .targetedTest _ => none
  | .linkReplay _ _ => none
  | .linkTrainRetry _ _ _ => none
  | .moduleResetRelease _ => none
  | .modulePowerOff => none
  | .unitWakeScrub _ _ => none
  | .drainFrameCopy _ => none
  | .capFrame _ => none
  | .getVersion _ _ => none
  | .getCapabilities _ _ => none
  | .negotiateAlgorithms _ _ => none
  | .getDigests _ _ => none
  | .getCertificate _ _ _ _ _ => none
  | .challenge _ _ _ _ => none
  | .getMeasurements _ _ _ _ => none
  | .keyExchange _ _ _ => none
  | .finish _ _ _ => none
  | .endSession _ _ _ => none
  | .setCertificate _ _ _ _ _ => none
  | .spdmUnsupportedRequest _ _ _ => none
  | .spdmResponseRelease _ => none
  | .getTdispVersion _ _ => none
  | .getTdispCapabilities _ _ => none
  | .lockInterfaceRequest _ _ _ => none
  | .getDeviceInterfaceReport _ _ _ _ _ => none
  | .getDeviceInterfaceState _ _ _ => none
  | .startInterfaceRequest _ _ _ _ => none
  | .stopInterfaceRequest _ _ _ => none
  | .tdispUnsupportedRequest _ _ _ => none
  | .setHallKey _ _ => none
  | .configure _ _ => none
  | .dissolve _ _ => none
  | .query _ => none
  | .setMgmt _ _ _ => none
  | .configUnsupported _ _ => none
  | .fmtvWrite _ _ _ => none
  | .fmthWrite _ _ _ => none
  | .rattrWrite _ _ _ => none
  | .rangeBoundWrite _ _ _ _ => none
  | .windowWrite _ _ _ => none
  | .engheadWrite _ _ _ => none
  | .engseqaWrite _ _ _ => none
  | .xschedWrite _ _ _ => none
  | .xboundWrite _ _ => none
  | .xstatRead _ => none
  | .diemapWrite _ _ _ => none
  | .expbWrite _ _ _ => none
  | .ptrootWrite _ _ => none
  | .plpolWrite _ _ => none
  | .hallkeyWrite _ _ _ => none
  | .pcapWrite _ _ => none
  | .dstateWrite _ _ => none
  | .evachnWrite _ _ => none
  | .capcauseRead _ => none
  | .writeAcknowledged _ => none
  | .linkDown _ _ => none
  | .dieLostWithoutEvacuation _ => none
  | .hbmOrFabricTestFailure _ => none
  | .thermalProtection _ _ => none
  | .electricalProtection _ => none

end Sys2Proof
end

