-- ==== Sys2Proof/Machine/Uses.lean ====
section
/-!
DEFINITION. What each instruction reads, writes and makes pending, for the hazard rule (R28, R29, R32), and its jet groups
(R37, R79, R87). Register keys: 0 to 63 are v0 to v63, 64 to 127 are s0 to s63, 128 is p6; no other predicate is ever
pending.
-/
namespace Sys2Proof.Machine

/-- Key of a uniform register. -/
def uk (x : SReg) : Nat := 64 + x.toNat
/-- Key of p6. -/
def p6k : Nat := 128
def predKey (p : PReg) : List Nat := if p == 6#3 then [p6k] else []

/-- Registers an instruction reads, writes, and leaves pending; `all` for one that reads whatever is pending (R32). -/
structure Use where
  reads : List Nat := []
  writes : List Nat := []
  pend : List Nat := []
  all : Bool := false
  deriving DecidableEq, Repr

/-- Uniform registers among source fields. -/
def uniSrcs (l : List Src) : List Nat := (l.filter fun a => a.sel == .uni).map fun a => uk a.reg
/-- Register use of a lane operation, with further registers it reads and writes. -/
def LaneOp.use (o : LaneOp) (r w : List Nat) : Use :=
  { reads := o.reads ++ uniSrcs o.srcs ++ r, writes := o.writes ++ w, pend := if o.pending then o.writes else [] }

/-- Predicates and uniform registers that a lane operation or a collective names outside its 8-bit source fields: read
and written. -/
def sideUse (i : Instr) : List Nat × List Nat :=
  match i with
  | .icmpSEq p _ _ => ([], predKey p)
  | .icmpSNe p _ _ => ([], predKey p)
  | .icmpSLt p _ _ => ([], predKey p)
  | .icmpSLe p _ _ => ([], predKey p)
  | .icmpNEq p _ _ => ([], predKey p)
  | .icmpNNe p _ _ => ([], predKey p)
  | .icmpNLt p _ _ => ([], predKey p)
  | .icmpNLe p _ _ => ([], predKey p)
  | .pand d a b => (predKey a ++ predKey b, predKey d)
  | .por d a b => (predKey a ++ predKey b, predKey d)
  | .pxor d a b => (predKey a ++ predKey b, predKey d)
  | .pandn d a b => (predKey a ++ predKey b, predKey d)
  | .icmpi _ p _ _ => ([], predKey p)
  | .srd _ i => (if i == 0x10 then [p6k] else [], [])
  | .tidx _ _ b => ([uk b], [])
  | .fcmpEq p _ _ => ([], predKey p)
  | .fcmpLt p _ _ => ([], predKey p)
  | .fcmpLe p _ _ => ([], predKey p)
  | .fcmpUnord p _ _ => ([], predKey p)
  | .ballot _ p => (predKey p, [])
  | .any _ p => (predKey p, [])
  | .all _ p => (predKey p, [])
  | .count _ p => (predKey p, [])
  | .maccScale _ b => ([uk b], [])
  | _ => ([], [])

/-- Lane registers or uniform register of a jump target. -/
def targetUse (a : Target) : List Nat :=
  match a with
  | .pair v => vregs v 2
  | .uni x => [uk x]

/-- Register use of the instructions that are neither lane operations nor collectives, at jet order k. -/
def otherUse (k : Nat) (i : Instr) : Use :=
  match i with
  | .ldG d x b _ z => { reads := [x.toNat, uk b], writes := vregs d z.regs, pend := vregs d z.regs }
  | .stG d x b _ z => { reads := x.toNat :: uk b :: vregs d z.regs }
  | .ldS d x b z => { reads := [x.toNat, uk b], writes := vregs d z.regs, pend := vregs d z.regs }
  | .stS d x b _ z => { reads := x.toNat :: uk b :: vregs d z.regs }
  | .ldth d x b z => { reads := x.toNat :: uk b :: vregs d z.regs, writes := p6k :: vregs d z.regs, pend := p6k :: vregs d z.regs }
  | .ljoin d x b _ z => { reads := x.toNat :: uk b :: vregs d z.regs }
  | .atomAdd d x b _ w => { reads := x.toNat :: uk b :: vregs d w.regs, writes := vregs d w.regs, pend := vregs d w.regs }
  | .atomMinS d x b _ w => { reads := x.toNat :: uk b :: vregs d w.regs, writes := vregs d w.regs, pend := vregs d w.regs }
  | .atomMaxS d x b _ w => { reads := x.toNat :: uk b :: vregs d w.regs, writes := vregs d w.regs, pend := vregs d w.regs }
  | .atomMinN d x b _ w => { reads := x.toNat :: uk b :: vregs d w.regs, writes := vregs d w.regs, pend := vregs d w.regs }
  | .atomMaxN d x b _ w => { reads := x.toNat :: uk b :: vregs d w.regs, writes := vregs d w.regs, pend := vregs d w.regs }
  | .atomAnd d x b _ w => { reads := x.toNat :: uk b :: vregs d w.regs, writes := vregs d w.regs, pend := vregs d w.regs }
  | .atomOr d x b _ w => { reads := x.toNat :: uk b :: vregs d w.regs, writes := vregs d w.regs, pend := vregs d w.regs }
  | .atomXor d x b _ w => { reads := x.toNat :: uk b :: vregs d w.regs, writes := vregs d w.regs, pend := vregs d w.regs }
  | .atomExch d x b _ w => { reads := x.toNat :: uk b :: vregs d w.regs, writes := vregs d w.regs, pend := vregs d w.regs }
  | .atomCas d x b _ w => { reads := x.toNat :: uk b :: vregs d (2 * w.regs), writes := vregs d w.regs, pend := vregs d w.regs }
  | .atomFadd d x b _ => { reads := x.toNat :: uk b :: vregs d 1, writes := vregs d 1, pend := vregs d 1 }
  | .atomFmax d x b _ => { reads := x.toNat :: uk b :: vregs d 1, writes := vregs d 1, pend := vregs d 1 }
  | .qpop d t s _ => { writes := (if t then [p6k] else []) ++ vregs d s.regs, pend := (if t then [p6k] else []) ++ vregs d s.regs }
  | .qpush d t s _ => { reads := vregs d s.regs, writes := if t then [p6k] else [] }
  | .br p _ _ => { reads := predKey p }
  | .call _ => { all := true }
  | .jmpi a => { reads := targetUse a, all := true }
  | .calli a => { reads := targetUse a, all := true }
  | .ret => { all := true }
  | .mmaRr d a b t z => { reads := (if z then [] else vregs d (16 * (k + 1))) ++ vregs a ((k + 1) * t.aRegs) ++ vregs b ((k + 1) * t.bRegs), writes := vregs d (16 * (k + 1)), pend := vregs d (16 * (k + 1)) }
  | .mmaRs d a b t z => { reads := (if z then [] else vregs d (16 * (k + 1))) ++ vregs a ((k + 1) * t.aRegs) ++ [uk b, uk b + 1], writes := vregs d (16 * (k + 1)), pend := vregs d (16 * (k + 1)) }
  | .mmaSs d a b _ z => { reads := (if z then [] else vregs d (16 * (k + 1))) ++ [uk a, uk a + 1, uk b, uk b + 1], writes := vregs d (16 * (k + 1)), pend := vregs d (16 * (k + 1)) }
  | .sadd d a b => { reads := [uk a, uk b], writes := [uk d] }
  | .ssub d a b => { reads := [uk a, uk b], writes := [uk d] }
  | .smul d a b => { reads := [uk a, uk b], writes := [uk d] }
  | .smulhiS d a b => { reads := [uk a, uk b], writes := [uk d] }
  | .smulhiN d a b => { reads := [uk a, uk b], writes := [uk d] }
  | .sand d a b => { reads := [uk a, uk b], writes := [uk d] }
  | .sor d a b => { reads := [uk a, uk b], writes := [uk d] }
  | .sxor d a b => { reads := [uk a, uk b], writes := [uk d] }
  | .sandn d a b => { reads := [uk a, uk b], writes := [uk d] }
  | .sshlv d a b => { reads := [uk a, uk b], writes := [uk d] }
  | .sshrv d a b => { reads := [uk a, uk b], writes := [uk d] }
  | .ssarv d a b => { reads := [uk a, uk b], writes := [uk d] }
  | .sminS d a b => { reads := [uk a, uk b], writes := [uk d] }
  | .smaxS d a b => { reads := [uk a, uk b], writes := [uk d] }
  | .sminN d a b => { reads := [uk a, uk b], writes := [uk d] }
  | .smaxN d a b => { reads := [uk a, uk b], writes := [uk d] }
  | .sclz d a => { reads := [uk a], writes := [uk d] }
  | .spopc d a => { reads := [uk a], writes := [uk d] }
  | .srotv d a b => { reads := [uk a, uk b], writes := [uk d] }
  | .sctz d a => { reads := [uk a], writes := [uk d] }
  | .sbrev d a => { reads := [uk a], writes := [uk d] }
  | .smov d a => { reads := [uk a], writes := [uk d] }
  | .scmp d a b _ => { reads := [uk a, uk b], writes := [uk d] }
  | .saddi d a _ => { reads := [uk a], writes := [uk d] }
  | .sandi d a _ => { reads := [uk a], writes := [uk d] }
  | .sori d a _ => { reads := [uk a], writes := [uk d] }
  | .sshli d a _ => { reads := [uk a], writes := [uk d] }
  | .sshri d a _ => { reads := [uk a], writes := [uk d] }
  | .ssari d a _ => { reads := [uk a], writes := [uk d] }
  | .sroti d a _ => { reads := [uk a], writes := [uk d] }
  | .smovi d _ => { writes := [uk d] }
  | .slitA d _ => { reads := [uk d], writes := [uk d] }
  | .slitB d _ => { reads := [uk d], writes := [uk d] }
  | .slitC d _ => { reads := [uk d], writes := [uk d] }
  | .srds d _ => { writes := [uk d] }
  | .swrs d a _ => { reads := [uk a], writes := [uk d] }
  | .ubr a _ _ => { reads := [uk a] }
  | .sld d a _ => { reads := [uk a], writes := [uk d], pend := [uk d] }
  | .sst a b _ _ => { reads := [uk a, uk b] }
  | .satomAdd d a _ => { reads := [uk a, uk d], writes := [uk d], pend := [uk d] }
  | .satomMinS d a _ => { reads := [uk a, uk d], writes := [uk d], pend := [uk d] }
  | .satomMaxS d a _ => { reads := [uk a, uk d], writes := [uk d], pend := [uk d] }
  | .satomMinN d a _ => { reads := [uk a, uk d], writes := [uk d], pend := [uk d] }
  | .satomMaxN d a _ => { reads := [uk a, uk d], writes := [uk d], pend := [uk d] }
  | .satomAnd d a _ => { reads := [uk a, uk d], writes := [uk d], pend := [uk d] }
  | .satomOr d a _ => { reads := [uk a, uk d], writes := [uk d], pend := [uk d] }
  | .satomXor d a _ => { reads := [uk a, uk d], writes := [uk d], pend := [uk d] }
  | .satomExch d a _ => { reads := [uk a, uk d], writes := [uk d], pend := [uk d] }
  | .satomCas d a b _ => { reads := [uk a, uk b, uk d], writes := [uk d], pend := [uk d] }
  | .xpat a => { reads := [uk a] }
  | .tfetch d => { writes := [uk d], pend := [uk d] }
  | .tfetchB d a => { reads := [uk a], writes := [uk d, uk d + 1], pend := [uk d, uk d + 1] }
  | .tfetchR d => { writes := [uk d], pend := [uk d] }
  | .shpset a _ => { reads := [uk a] }
  | .xgive a => { reads := [uk a] }
  | .xtake d => { writes := [uk d], pend := [uk d] }
  | .barset a _ => { reads := [uk a] }
  | .etail a _ => { reads := [uk a] }
  | .ewait d a _ => { reads := [uk a], writes := [uk d], pend := [uk d] }
  | .cmoClean a b _ => { reads := [uk a, uk b] }
  | .cmoInvalidate a b _ => { reads := [uk a, uk b] }
  | .cmoCleanInvalidate a b _ => { reads := [uk a, uk b] }
  | .tinv d a b => { reads := [uk a, uk b], writes := [uk d] }
  | .bankmode d a _ => { reads := [uk a], writes := [uk d] }
  | .qopen d a _ => { reads := [uk a], writes := [uk d] }
  | .qclose d a _ => { reads := [uk a], writes := [uk d] }
  | .qtry d _ => { writes := [uk d] }
  | .arm d a _ => { reads := [uk a], writes := [uk d] }
  | .launch d a => { reads := [uk a], writes := [uk d] }
  | .cancel d a _ => { reads := [uk a], writes := [uk d] }
  | .frpt d a _ => { reads := [uk a], writes := [uk d], pend := [uk d] }
  | .fopr d a _ => { reads := [uk a], writes := [uk d], pend := [uk d] }
  | .place d a b => { reads := [uk a, uk b], writes := [uk d] }
  | .unplace d a => { reads := [uk a], writes := [uk d] }
  | .preempt d a b _ => { reads := [uk a, uk b], writes := [uk d] }
  | .migrate d a b => { reads := [uk a, uk b], writes := [uk d] }
  | .resume d a b => { reads := [uk a, uk b], writes := [uk d] }
  | .creset d a => { reads := [uk a], writes := [uk d] }
  | .mapsync d a b => { reads := [uk a, uk b], writes := [uk d] }
  | .cntrd d _ => { writes := [uk d] }
  | .cntcfg d a b => { reads := [uk a, uk b], writes := [uk d] }
  | .strap a _ => { reads := [uk a] }
  | .dbgHalt d a b => { reads := [uk a, uk b], writes := [uk d] }
  | .dbgStep d a b => { reads := [uk a, uk b], writes := [uk d] }
  | .dbgStepall d a b => { reads := [uk a, uk b], writes := [uk d] }
  | .dbgCont d a b => { reads := [uk a, uk b], writes := [uk d] }
  | .dbgRdsel d a b => { reads := [uk a, uk b], writes := [uk d] }
  | .grd d _ => { writes := [uk d] }
  | .gwr d a _ => { reads := [uk a], writes := [uk d] }
  | .gadd d a _ => { reads := [uk a], writes := [uk d] }
  | .gxch d a _ => { reads := [uk a], writes := [uk d] }
  | .ldk d a _ => { reads := [uk a], writes := [uk d] }
  | _ => { }

/-- Register use of an instruction at jet order k. -/
def useOf (i : Instr) (k : Nat) : Use :=
  match laneOpOf k i, collectiveOf i with
  | some o, _ => o.use (sideUse i).1 (sideUse i).2
  | none, some c => c.op.use (sideUse i).1 (sideUse i).2
  | none, none => otherUse k i

/-- Lane register a source field names; none for a uniform source, which is the constant jet (R34). -/
def laneSrc (a : Src) : List Nat := if a.sel == .uni then [] else [a.reg.toNat]

/-- First registers of the jet groups an instruction names (R37). -/
def jetGroupsOf (i : Instr) : List Nat :=
  match i with
  | .fadd d a b => d.toNat :: (laneSrc a ++ laneSrc b)
  | .fsub d a b => d.toNat :: (laneSrc a ++ laneSrc b)
  | .fmul d a b => d.toNat :: (laneSrc a ++ laneSrc b)
  | .ffma d a b => d.toNat :: (laneSrc a ++ laneSrc b)
  | .fmin d a b => d.toNat :: (laneSrc a ++ laneSrc b)
  | .fmax d a b => d.toNat :: (laneSrc a ++ laneSrc b)
  | .ffmsub d a b => d.toNat :: (laneSrc a ++ laneSrc b)
  | .ffnma d a b => d.toNat :: (laneSrc a ++ laneSrc b)
  | .fabs d a => d.toNat :: laneSrc a
  | .fneg d a => d.toNat :: laneSrc a
  | .fcpsgn d a _ => d.toNat :: laneSrc a
  | .fnabs d a => d.toNat :: laneSrc a
  | .fdiv d a b => d.toNat :: (laneSrc a ++ laneSrc b)
  | .fsqrt d a => d.toNat :: laneSrc a
  | .frcp d a => d.toNat :: laneSrc a
  | .frsq d a => d.toNat :: laneSrc a
  | .fexp2 d a => d.toNat :: laneSrc a
  | .flog2 d a => d.toNat :: laneSrc a
  | .ftanh d a => d.toNat :: laneSrc a
  | .fsigm d a => d.toNat :: laneSrc a
  | .fsin d a => d.toNat :: laneSrc a
  | .fcos d a => d.toNat :: laneSrc a
  | .fsint d a => d.toNat :: laneSrc a
  | .fcost d a => d.toNat :: laneSrc a
  | .frndRne d _ => [d.toNat]
  | .frndRtz d _ => [d.toNat]
  | .frndFloor d _ => [d.toNat]
  | .frndCeil d _ => [d.toNat]
  | .jseedSeed d _ _ => [d.toNat]
  | .jseedConst d _ => [d.toNat]
  | .jseedCopy d a => d.toNat :: laneSrc a
  | .jget _ a _ => laneSrc a
  | .jput d _ _ => [d.toNat]
  | _ => []

end Sys2Proof.Machine
end

