-- ==== Sys2Proof/Machine/Twill.lean ====
section
/-!
DEFINITION. Twill: the functions of a launch (R388), the level it chooses (R310), the checks of R44 and the hazard rule over
a function's control-flow graph (R29 to R32, R37, R43 to R46, R152, R160), and the translation it makes (R312, R316). A
translation here is the function's virtual words with the fault each carries; native code is not architectural (R320).
-/
namespace Sys2Proof.Machine

/-! ## Functions (R307, R388) -/

/-- A function entry of FTAB. -/
structure FnEntry where
  entry : Nat
  nwords : Nat
  loopVer : Nat
  tileVer : Nat
  loopA : Nat
  nloop : Nat
  ntile : Nat
  tileA : Nat
  deriving DecidableEq, Repr

/-- The entry of a function table at an index; none where it cannot be read. -/
def State.fnEntry (s : State) (c : Ctx) (die ftab i : Nat) : Option FnEntry :=
  (s.readCode c die (ftab + 64 * i) 64).map fun x =>
    { entry := bitsOf x 0 64, nwords := bitsOf x 64 32, loopVer := bitsOf x 96 16, tileVer := bitsOf x 112 16,
      loopA := bitsOf x 128 64, nloop := bitsOf x 192 16, ntile := bitsOf x 208 16, tileA := bitsOf x 256 64 }

/-- The entries of a launch's table, in table order. -/
def State.fnTable (s : State) (c : Ctx) (die : Nat) (h : Header) : List FnEntry :=
  if h.ftab == 0 then [] else (upFrom 0 h.nfunc).filterMap (s.fnEntry c die h.ftab)

/-- A listed function: where it starts and how many words it has. -/
abbrev Listed := List (Nat × Nat)

/-- The listed functions; the first entry that names an address gives the extent. -/
def listedOf (fs : List FnEntry) : Listed :=
  fs.foldl (fun acc f => if acc.any fun e => e.1 == f.entry then acc else acc ++ [(f.entry, f.nwords)]) []

/-- Does an extent hold an address. -/
def inExtent (e : Nat × Nat) (pc : Nat) : Bool := decide (e.1 ≤ pc) && decide (pc < e.1 + 4 * e.2)

/-- Is a CALL target a function entry: a listed ENTRY, or in no listed function (R388). -/
def callable (l : Listed) (target : Nat) : Bool :=
  (l.any fun e => e.1 == target) || !(l.any fun e => inExtent e target)

/-- The end of the code range that holds an address. -/
def Ctx.codeEnd (c : Ctx) (pc : Nat) : Nat :=
  match c.hit pc 4 with
  | some h => if h.kind == .code then (c.rlim h.n + 1) * 65536 else pc
  | none => pc

/-- Words of an implied function: to the lowest listed ENTRY above it in its code range, or to that range's end. -/
def impliedWords (c : Ctx) (l : Listed) (entry : Nat) : Nat :=
  let stop := l.foldl (fun a e => if entry < e.1 && decide (e.1 < a) then e.1 else a) (c.codeEnd entry)
  (stop - entry) / 4

/-- The function that holds an address which threads of a launch fetch: a listed one; an implied one that Twill has met in
this launch; or an implied one that begins here (R388; DEDUCED, log 13). -/
def functionAt (c : Ctx) (r : Rec) (l : Listed) (pc : Nat) : Nat × Nat :=
  match findFirst (fun e => inExtent e pc) l with
  | some e => e
  | none =>
    let ext (e : Nat) : Nat × Nat := (e, impliedWords c l e)
    match findFirst (fun f => !l.any (fun x => inExtent x f.base) && inExtent (ext f.base) pc) r.fns with
    | some f => ext f.base
    | none => ext pc

/-! ## Reading the words (R126) -/

/-- What a fetch of one word answers. -/
inductive FetchWord where
  | word (w : BitVec 32)
  | page (ia : Nat)
  /-- The verdict is not in: the frame is being copied, or its scrub is pending. -/
  | waiting
  | own (ia : Nat)
  | poisoned (ia : Nat)
  | outside
  deriving DecidableEq, Repr

def State.fetchWord (s : State) (c : Ctx) (die va : Nat) : FetchWord :=
  match c.hit va 4 with
  | none => .outside
  | some h =>
    if h.kind == .code then
      match s.verdict die h.ia c.world .code .fetch, s.viewVerdict .code .fetch die h.ia c.world with
      | .mapped, .mapped =>
        match s.keyOf die h.ia, s.readSeen .code die c.world h.ia 4 with
        | some k, some w => if s.spoiled .code die h.ia c.world k 4 then .poisoned h.ia else .word (BitVec.ofNat 32 w)
        | _, _ => .page h.ia
      | .mapped, .own => .own h.ia
      | .own, _ => .own h.ia
      | .page, _ => .page h.ia
      | _, _ => .waiting
    else .outside

/-- The words of an extent; an extent that leaves the code range ends there. -/
def State.fetchWords (s : State) (c : Ctx) (die va n : Nat) : List FetchWord :=
  match n with
  | 0 => []
  | k + 1 =>
    match s.fetchWord c die va with
    | .outside => []
    | w => w :: s.fetchWords c die (va + 4) k

/-! ## Checks of R44 on one instruction -/

/-- The order of a JORD code. -/
def allOrders : List JetOrder := [.k0, .k1, .k3, .k7]

/-- R160 at order 1: doubled groups. An accumulator that is no multiple of 32 is JALIGN and is not judged as a span. -/
def mmaOrder1Ok (i : Instr) : Bool :=
  let acc (d : VReg) : Bool := !aligned d 32 || regSpan d 32
  let grp (n elems : Nat) (r d : VReg) : Bool :=
    aligned r elems && regSpan r (2 * n) && disjointSpans r.toNat (2 * n) d.toNat 32
  match i with
  | .mmaRr d a b t _ => acc d && grp t.aRegs t.aElems a d && grp t.bRegs t.bElems b d
  | .mmaRs d a _ t _ => acc d && grp t.aRegs t.aElems a d
  | .mmaSs d _ _ _ _ => acc d
  | _ => true

/-- An MMA. -/
def isMma : Instr → Bool
  | .mmaRr _ _ _ _ _ => true
  | .mmaRs _ _ _ _ _ => true
  | .mmaSs _ _ _ _ _ => true
  | _ => false
/-- The accumulator of an MMA. -/
def mmaAcc : Instr → Option VReg
  | .mmaRr d _ _ _ _ => some d
  | .mmaRs d _ _ _ _ => some d
  | .mmaSs d _ _ _ _ => some d
  | _ => none

/-- JALIGN under an order (R37, R160). -/
def jalign (i : Instr) (k : Nat) : Bool :=
  ((jetGroupsOf i).any fun r => r % (k + 1) != 0)
  || (k == 1 && match mmaAcc i with
      | some d => !aligned d 32
      | none => false)

/-- JORDSUP under an order. -/
def jordsup (i : Instr) (k : Nat) : Bool := isMma i && decide (1 < k)

/-! ## Bodies and successors (R152) -/

/-- One word of the function: the instruction with its marker, or no instruction. -/
abbrev Slot := Option (Instr × Bool)

/-- The word as an instruction that R40 to R44 allow on its own. -/
def slotOf (w : FetchWord) : Slot :=
  match w with
  | .word x =>
    match decode x with
    | .instr i => if i.wellFormed then some (i, wM x) else none
    | .nonInstr _ => none
  | _ => none

/-- The body a LOOP word opens: first and last index, counter. -/
def bodyOf (i : Nat) (x : Slot) : Option (Nat × Nat × Nat) :=
  match x with
  | some (.loop _ c n, _) => some (i + 1, i + 1 + n.toNat, counterIndex c)
  | _ => none

/-- Bodies whose LOOP lies at an index below a length, with the LOOP words that break R44 taken out: a body past the
end, or a fourth open body. Innermost first where they end together. Whether the body of a LOOP that is itself refused as
a fourth counts as open for a later one the spec does not say; here it counts (DESIGN CHOICE, log 81). -/
def bodiesOf (xs : List Slot) : List (Nat × Nat × Nat) :=
  let n := xs.length
  let all := (mapIdxFrom (fun i x => bodyOf i x) 0 xs).filterMap id
  let inside := all.filter fun b => decide (b.2.1 < n)
  let good := inside.filter fun b =>
    decide (countWhere (fun (o : Nat × Nat × Nat) => decide (o.1 ≤ b.1 - 1) && decide (b.1 - 1 ≤ o.2.1)) inside < 3)
  good.reverse

/-- Is the LOOP at an index one that R44 refuses. -/
def loopBad (bodies : List (Nat × Nat × Nat)) (i : Nat) (x : Slot) : Bool :=
  match bodyOf i x with
  | some b => !bodies.contains b
  | none => false

/-- A displaced index, if it lies in a function of n words. -/
def indexOf (n i : Nat) (disp : Int) : Option Nat :=
  let t : Int := (i : Int) + 1 + disp
  if 0 ≤ t ∧ t < (n : Int) then some t.toNat else none

/-- Index of a branch or UBR target: none where it is no branch, `some none` where it leaves the function. -/
def branchIndex (n i : Nat) (x : Instr) : Option (Option Nat) :=
  match x with
  | .br _ _ d => some (indexOf n i d.toInt)
  | .ubr _ _ d => some (indexOf n i d.toInt)
  | _ => none

/-- ILLOP of a word in its function (R44). -/
def illop (base : Nat) (l : Listed) (n : Nat) (bodies : List (Nat × Nat × Nat)) (k : Nat) (i : Nat) (x : Slot) : Bool :=
  match x with
  | none => true
  | some (ins, _) =>
    loopBad bodies i x || branchIndex n i ins == some none || (k == 1 && !mmaOrder1Ok ins)
    || match ins with
       | .call d => !callable l ((((base + 4 * (i + 1) : Nat) : Int) + 4 * d.toInt) % 2 ^ 64).toNat
       | _ => false

/-- Where a word that executes without changing the pc leads: the next word, and the start of each body it ends. -/
def fallIndex (bodies : List (Nat × Nat × Nat)) (i : Nat) : List Nat :=
  (i + 1) :: (bodies.filter fun b => b.2.1 == i).map fun b => b.1

/-- Successors of a word: index and order. -/
def successors (n : Nat) (bodies : List (Nat × Nat × Nat)) (i : Nat) (o : JetOrder) (x : Instr) : List (Nat × JetOrder) :=
  let here (l : List Nat) : List (Nat × JetOrder) := l.map fun j => (j, o)
  let fall := fallIndex bodies i
  match x with
  | .jord o' => fall.map fun j => (j, o')
  | .exit => []
  | .jmpi _ => []
  | .ret => []
  | .tret => []
  | .br p neg d =>
    here ((indexOf n i d.toInt).toList ++ if p == 7#3 && !neg then [] else fall)
  | .ubr _ c d => here ((indexOf n i d.toInt).toList ++ if c == .always then [] else fall)
  | .call _ => here [i + 1]
  | .calli _ => here [i + 1]
  | .loop _ _ m => here [i + 1, i + 2 + m.toNat]
  | _ => here fall

/-! ## The hazard rule -/

/-- A set of register keys as a bit mask. -/
def keyMask (l : List Nat) : Nat := l.foldl (fun m k => m ||| 2 ^ k) 0

/-- What may be pending on entry to a word under an order; none where no path reaches it. -/
abbrev Flow := Array (Option Nat)
/-- Place of a word and an order. -/
def nodeIx (i : Nat) (o : JetOrder) : Nat := 4 * i + o.code.toNat

/-- What is pending after a word. EXIT behaves as marked (R32). -/
def pendAfter (x : Instr) (m : Bool) (k p : Nat) : Nat :=
  let u := keyMask (useOf x k).pend
  if m || x == .exit then u else p ||| u

/-- Everything one function's analysis needs. -/
structure Fn where
  base : Nat
  listed : Listed
  slots : Array Slot
  bodies : List (Nat × Nat × Nat)

def Fn.slot (f : Fn) (i : Nat) : Slot := f.slots.getD i none
/-- The fault of a word before the hazard rule, 0 none (R46). -/
def Fn.early (f : Fn) (o : JetOrder) (i : Nat) : Nat :=
  let x := f.slot i
  if illop f.base f.listed f.slots.size f.bodies o.order i x then 1
  else match x with
    | none => 1
    | some (ins, _) => if jalign ins o.order then 3 else if jordsup ins o.order then 4 else 0

/-- Adds to what may be pending at a node; answers whether it grew. -/
def flowAdd (n : Nat) (fl : Flow × Bool) (j : Nat) (o : JetOrder) (p : Nat) : Flow × Bool :=
  if j < n then
    match fl.1.getD (nodeIx j o) none with
    | none => (fl.1.setIfInBounds (nodeIx j o) (some p), true)
    | some q => if q ||| p == q then fl else (fl.1.setIfInBounds (nodeIx j o) (some (q ||| p)), true)
  else fl

/-- Passes what is pending along from one node. A word that traps leads nowhere. -/
def Fn.spread (f : Fn) (fl : Flow × Bool) (i : Nat) (o : JetOrder) : Flow × Bool :=
  match fl.1.getD (nodeIx i o) none, f.slot i with
  | some p, some (x, m) =>
    if f.early o i == 0 then
      (successors f.slots.size f.bodies i o x).foldl (fun a t =>
        flowAdd f.slots.size a t.1 t.2 (pendAfter x m o.order p)) fl
    else fl
  | _, _ => fl

/-- Passes over every node until nothing grows. -/
def Fn.settle (f : Fn) (fuel : Nat) (fl : Flow) : Flow :=
  match fuel with
  | 0 => fl
  | k + 1 =>
    let r := (List.range f.slots.size).foldl (fun a i => allOrders.foldl (fun b o => f.spread b i o) a) (fl, false)
    if r.2 then f.settle k r.1 else r.1

/-- The flow from the function's first word and the words where threads entered it: nothing is pending there (DEDUCED,
log 14). -/
def Fn.flow (f : Fn) (seeds : List (Nat × JetOrder)) : Flow :=
  let n := f.slots.size
  let start := seeds.foldl (fun a t => flowAdd n a t.1 t.2 0) (Array.replicate (4 * n) none, false)
  f.settle (4 * n * 130 + 1) start.1

/-- Does a word break the hazard rule with these registers pending (R29, R32). A word at the function's entry must find
nothing pending. -/
def hazard (x : Instr) (m : Bool) (k p i : Nat) : Bool :=
  if m || x == .exit then false
  else
    let u := useOf x k
    if u.all || i == 0 then p != 0 else p &&& keyMask (u.reads ++ u.writes) != 0

/-- The fault of a word under an order, 0 none. -/
def Fn.fault (f : Fn) (fl : Flow) (o : JetOrder) (i : Nat) : Nat :=
  let e := f.early o i
  if e != 0 then e
  else match fl.getD (nodeIx i o) none, f.slot i with
    | some p, some (x, m) => if hazard x m o.order p i then 2 else 0
    | _, _ => 0

/-- The analysis of words as they were read. -/
def fnOf (base : Nat) (l : Listed) (ws : List FetchWord) : Fn :=
  let xs := ws.map slotOf
  { base := base, listed := l, slots := xs.toArray, bodies := bodiesOf xs }

/-! ## Levels (R308 to R310) -/

/-- A valid loop record: KIND 1, only INDEP beside it. -/
def loopRecordOk (x : Nat) : Bool := x % 256 == 1 && x / 2 ^ 9 == 0
/-- A valid tile record: KIND 1, NMMA from 2. -/
def tileRecordOk (x : Nat) : Bool := x % 256 == 1 && x / 2 ^ 16 == 0 && decide (2 ≤ x / 256 % 256)

/-- Form, accumulator, type and flags of an MMA word. -/
def mmaKey (x : Slot) : Option (BitVec 32) :=
  match x with
  | some (i, _) => if isMma i then (encode false i).map fun w => w &&& 0xFFFC003F else none
  | none => none

/-- `n` MMA words from an index, all alike, in one LOOP body (R309). -/
def Fn.mmaChain (f : Fn) (i n : Nat) : Bool :=
  match mmaKey (f.slot i) with
  | none => false
  | some k => ((upFrom i n).all fun j => mmaKey (f.slot j) == some k)
      && f.bodies.any fun b => decide (b.1 ≤ i) && decide (i + n ≤ b.2.1 + 1)

/-- Does a LOOP word stand at an index. -/
def Fn.isLoop (f : Fn) (i : Nat) : Bool := (bodyOf i (f.slot i)).isSome

/-- Are the records of a level readable and valid. -/
def State.recordsOk (s : State) (c : Ctx) (die addr n nwords : Nat) (ok : Nat → Nat → Bool) : Bool :=
  (upFrom 0 n).all fun i =>
    match s.readCode c die (addr + 16 * i) 16, s.readCode c die (addr + 16 * n + 4 * i) 4 with
    | some x, some j => decide (j < nwords) && ok x j
    | _, _ => false

/-- The level of a function (R310): 2 tile, 1 loop, 0 scalar (DESIGN CHOICE, log 72). -/
def State.selectLevel (s : State) (c : Ctx) (die : Nat) (fs : List FnEntry) (fn : Fn) : Nat :=
  let mine := fs.filter fun f => f.entry == fn.base
  if mine.any fun f => f.tileVer == 1 && s.recordsOk c die f.tileA f.ntile f.nwords fun x j =>
      tileRecordOk x && fn.mmaChain j (x / 256 % 256) then 2
  else if mine.any fun f => f.loopVer == 1 && s.recordsOk c die f.loopA f.nloop f.nwords fun x j =>
      loopRecordOk x && fn.isLoop j then 1
  else 0

/-! ## Translating -/

/-- Everything Twill finds out before it translates. -/
structure Plan where
  listed : Listed
  fns : List FnEntry
  base : Nat
  words : List FetchWord

/-- The words of the function that a launch's thread fetches at an address. -/
def State.plan (s : State) (c : Ctx) (die : Nat) (r : Rec) (pc : Nat) : Plan :=
  let fs := s.fnTable c die (r.header.getD { teams := 0, live := 0, span := 0, xblk := false, order := .k0, pin := false,
                                             matrix := false, entry := 0, units := 0, ftab := 0, nfunc := 0 })
  let l := listedOf fs
  let e := functionAt c r l pc
  { listed := l, fns := fs, base := e.1, words := s.fetchWords c die e.1 e.2 }

/-- Index and IA of the first word on each page whose verdict is PAGE. -/
def Plan.missing (p : Plan) : List (Nat × Nat) :=
  let all := (mapIdxFrom (fun i w => match w with
    | .page ia => some (i, ia)
    | _ => none) 0 p.words).filterMap id
  all.foldl (fun acc x => if acc.any fun y => y.2 / 65536 == x.2 / 65536 then acc else acc ++ [x]) []
/-- The pages themselves. -/
def Plan.missingPages (p : Plan) : List Nat := p.missing.map fun m => m.2 / 65536
/-- Must Twill wait for a verdict before it can translate. -/
def Plan.waits (p : Plan) : Bool := p.words.contains .waiting
/-- Does no word stand in the way of the translation. -/
def Plan.open_ (p : Plan) : Bool := p.missing.isEmpty && !p.waits
/-- The first word on a frame that is another's. -/
def Plan.foreign (p : Plan) : Option (Nat × Nat) :=
  ((mapIdxFrom (fun i w => match w with
    | .own ia => some (i, ia)
    | _ => none) 0 p.words).filterMap id).head?
/-- The first word that is poisoned. -/
def Plan.poisoned (p : Plan) : Option (Nat × Nat) :=
  ((mapIdxFrom (fun i w => match w with
    | .poisoned ia => some (i, ia)
    | _ => none) 0 p.words).filterMap id).head?

/-- Records of a fetch (R126): one owner record of KIND 6 and one operator record of KIND 3. -/
def State.fetchRecords (s : State) (w : Wg) (t : Nat) (lane code opCode vpc ia lanes : Nat) (owner : Bool) : State :=
  let s1 := if owner then s.ownerRecord w.ctx (OwnerInfo.place
    { code := code, size := 2, lane := lane, kind := 6, vpc := vpc, va := vpc, ia := ia } w t) else s
  s1.operatorRecord w.die w.ctx 3 opCode lanes (ia / 65536)

/-- Records of every page a translation meets PAGE on, but for those it has met before (R126). -/
def State.missRecords (s : State) (w : Wg) (t lane lanes : Nat) (p : Plan) (known : List Nat) : State :=
  (p.missing.filter fun m => !known.contains (m.2 / 65536)).foldl (fun acc m =>
    acc.fetchRecords w t lane 0x0C 1 (p.base + 4 * m.1) m.2 lanes true) s

/-- What the owner record of poison in a function's words says beside its place (R237, R333). -/
def fetchPoison (p : Plan) (lane i ia : Nat) : OwnerInfo :=
  { code := 0x0E, size := 2, lane := lane, kind := 6, vpc := p.base + 4 * i, va := p.base + 4 * i, ia := ia }

/-- A word as the translation holds it. -/
def FetchWord.value : FetchWord → BitVec 32
  | .word w => w
  | _ => 0

/-- Fault codes of the words: OWN where the frame is another's. -/
def Plan.faults (p : Plan) (f : Fn) (fl : Flow) (o : JetOrder) : List Nat :=
  mapIdxFrom (fun i w => match w with
    | .own _ => 8
    | _ => f.fault fl o i) 0 p.words
/-- Which words are reached under an order. -/
def reachedBy (n : Nat) (fl : Flow) (o : JetOrder) : List Bool :=
  (upFrom 0 n).map fun i => (fl.getD (nodeIx i o) none).isSome

/-- Translations of one function at one level, under any order. -/
def Translation.same (t : Translation) (die : Nat) (c : Ctx) (ia level : Nat) : Bool := t.tagged die c.world ia level t.order

/-- The function as its words stand. -/
def Plan.fn (p : Plan) : Fn := fnOf p.base p.listed p.words
/-- The function of a plan as the launch uses it (R310, R388). -/
def State.fnUse (s : State) (c : Ctx) (die : Nat) (p : Plan) : FnUse :=
  { base := p.base, words := p.words.length, level := s.selectLevel c die p.fns p.fn }

/-- A function is met in a launch. -/
def Rec.meet (r : Rec) (f : FnUse) : Rec := { r with fns := (r.fns.filter fun g => g.base != f.base) ++ [f] }

/-- The line of a function's translation that holds a word: one for each 64 words of the function (DESIGN CHOICE, log 9). -/
def lineOf (base pc : Nat) : Nat := (pc - base) / 256
/-- A cluster's cache holds a line of a translation. -/
def Translation.hold (t : Translation) (cl line : Nat) : Translation :=
  if t.cached.contains (cl, line) then t else { t with cached := t.cached ++ [(cl, line)] }
/-- Has a cluster's translation cache retired (R361): its fetches look in the die store. -/
def State.noTranslations (s : State) (die cl : Nat) : Bool := (s.die die).retired.contains (.bank cl translationBank)

/-- Twill translates a function under an order, for a fetch at an address (R312, R316). The checks follow the paths from
its first word and from the words that threads were to execute so far, in every translation of the function (R31, R78). -/
def State.translate (s : State) (die cl : Nat) (c : Ctx) (p : Plan) (o : JetOrder) (pc : Nat) : State :=
  let n := p.words.length
  let u := s.fnUse c die p
  let ia := (c.codeIa p.base).getD 0
  let mine (t : Translation) : Bool := t.same die c ia u.level
  let old := s.trans.filter mine
  let seeds := ((old.flatMap Translation.seeds) ++ (if old.isEmpty then [(0, o)] else []) ++ [((pc - p.base) / 4, o)]).eraseDups
  let f := p.fn
  let fl := f.flow (seeds.filter fun x => decide (x.1 < n))
  let judged (t : Translation) : Translation :=
    { t with seeds := seeds, faults := p.faults f fl t.order, reached := reachedBy n fl t.order,
             words := p.words.map FetchWord.value, bodies := f.bodies }
  let new : Translation :=
    match findFirst (fun t => t.order == o) old with
    | some t => { t with stored := true }
    | none =>
      { die := die, world := c.world, order := o, base := p.base, words := [], faults := [], reached := [], seeds := [],
        bodies := [], ia := ia, level := u.level, stored := true, cached := [], pins := [] }
  let held := if s.noTranslations die cl then judged new else (judged new).hold cl (lineOf p.base pc)
  { s with trans := ((s.trans.filter fun t => !(mine t && t.order == o)).map fun t => if mine t then judged t else t)
      ++ [held] }

/-! ## Pins (R318) -/

/-- The lines of a translation, numbered. -/
def Translation.lines (t : Translation) : List Nat := upFrom 0 ((t.words.length + 63) / 64)
/-- Lines of a translation that a context has pinned in a cluster: a line pinned twice counts once. -/
def Translation.pinned (t : Translation) (ctx cl : Nat) : List Nat :=
  ((t.pins.filter fun p => p.ctx == ctx && p.cluster == cl).flatMap Pin.lines).eraseDups
/-- Lines a context has pinned in a cluster of a die. -/
def State.pinnedLines (s : State) (die ctx cl : Nat) : Nat :=
  s.trans.foldl (fun acc t => acc + if t.die == die then (t.pinned ctx cl).length else 0) 0

/-- Pins lines of a translation, which the cluster's cache then holds. -/
def Translation.pin (t : Translation) (p : Pin) : Translation :=
  let mine (q : Pin) : Bool := q.cluster == p.cluster && q.ctx == p.ctx && q.launch == p.launch
  let all := ((t.pins.filter mine).flatMap Pin.lines ++ p.lines).eraseDups
  p.lines.foldl (fun a k => a.hold p.cluster k) { t with pins := (t.pins.filter fun q => !mine q) ++ [{ p with lines := all }] }

/-- Is a translation the one that a team of a workgroup uses of a function of its launch. -/
def State.isFor (s : State) (w : Wg) (o : JetOrder) (base : Nat) (t : Translation) : Bool :=
  match (s.record w.launch).fnAt base, (s.ctx w.ctx).codeIa base with
  | some f, some ia => t.tagged w.die (s.ctx w.ctx).world ia f.level o
  | _, _ => false

end Sys2Proof.Machine
end

