-- ==== Sys2Proof/Machine/Issue.lean ====
section
/-!
DEFINITION. Issue inside a team: paths and what makes them ready (R30, R32, R216), the ageing counters and the candidate
(R217), the steps of a halted context (R211, R221), and what a word that does not execute raises (R44 to R47, R126, R128).
`step` issues a group through these; the meaning of the instruction itself is `exec`.
-/
namespace Sys2Proof.Machine

/-! ## Fetch -/

/-- The word at a program counter of a team as its translation holds it, with its fault code; none where no translation
matches (R316). -/
def State.fetchAt (s : State) (w : Wg) (t : Team) (pc : BitVec 64) : Option (BitVec 32 × Nat) :=
  (s.transAt w t.jord pc.toNat).map fun tr =>
    (listGet 0 tr.words ((pc.toNat - tr.base) / 4), listGet 0 tr.faults ((pc.toNat - tr.base) / 4))

/-- Is a word one that waits for every outstanding result: it is marked, or it is EXIT (R30, R32). -/
def waitsForResults (x : BitVec 32) : Bool :=
  wM x || match decode x with
    | .instr .exit => true
    | _ => false
/-- Is a word of the uniform set (R26). -/
def isUniformWord (x : BitVec 32) : Bool := x.getLsbD 31
/-- Is a word an MMA. -/
def isMmaWord (x : BitVec 32) : Bool :=
  match decode x with
  | .instr i => isMma i
  | .nonInstr _ => false

/-! ## Paths -/

/-- Inserts a number into an ascending list without repeats. -/
def insertSorted (n : Nat) : List Nat → List Nat
  | [] => [n]
  | x :: t => if n < x then n :: x :: t else if n == x then x :: t else x :: insertSorted n t

/-- The program counters of a team's non-exited threads, ascending (R216). -/
def Team.pathPcs (t : Team) : List Nat :=
  t.threads.foldl (fun acc th => if th.exited then acc else insertSorted th.pc.toNat acc) []

/-- The running threads of a team at a program counter. -/
def Team.standing (t : Team) (pc : BitVec 64) : BitVec 64 :=
  t.members (maskOf fun l => (t.thread l).status == .running && (t.thread l).pc == pc)
/-- Has a thread nothing outstanding. -/
def Team.settled (t : Team) (m : BitVec 64) : BitVec 64 := maskOf fun l => inMask m l && (t.thread l).outs.isEmpty

/-- Does an MMA of a launch wait for a token or a lease it has asked for (R168, R170). -/
def State.mmaWaits (s : State) (w : Wg) : Bool :=
  s.mmaStalls w && ((s.record w.launch).lease.waiting || (s.record w.launch).lease.held != 0)

/-- The threads that can issue a word: a marked lane word takes the threads with nothing outstanding, a marked uniform
word waits for the whole group (R30). -/
def Team.canIssue (t : Team) (pc : BitVec 64) (x : BitVec 32) : BitVec 64 :=
  let m := t.standing pc
  if waitsForResults x then
    if isUniformWord x then (if t.settled m == m then m else 0) else t.settled m
  else m

/-- The issue group that is ready at a program counter; zero where there is none (R216). -/
def State.readyLanes (s : State) (w : Wg) (t : Team) (pc : BitVec 64) : BitVec 64 :=
  match s.fetchAt w t pc with
  | none => 0
  | some (x, f) => if f == 0 && isMmaWord x && s.mmaWaits w then 0 else t.canIssue pc x

/-- Ageing counter of a path. -/
def Team.age (t : Team) (pc : Nat) : Nat := (spGet t.ages pc).toNat

/-- The ready paths of a team, ascending. -/
def State.readyPaths (s : State) (w : Wg) (t : Team) : List Nat :=
  t.pathPcs.filter fun pc => s.readyLanes w t (BitVec.ofNat 64 pc) != 0

/-- Of the program counters, the one with the highest counter, the lowest of equals (R217). -/
def Team.oldest (t : Team) : List Nat → Option Nat
  | [] => none
  | pc :: rest =>
    match t.oldest rest with
    | none => some pc
    | some q => if t.age pc < t.age q then some q else some pc

/-- The candidate of a team (R217). -/
def State.candidate (s : State) (w : Wg) (t : Team) : Option Nat := t.oldest (s.readyPaths w t)

/-! ## Steps of a halted context (R211, R221) -/

/-- Waits that another party ends (R221). -/
def Wait.onParty : Wait → Bool
  | .release => false
  | .scratch _ _ => false
  | .fetch _ _ => false
  | _ => true
def Status.onParty : Status → Bool
  | .waiting w => w.onParty
  | _ => false
/-- Has the instruction at a program counter parked its thread (R211, R216): it waits, be it on a held access or, in an LDK, on a
page of code. A thread that has gone on and waits for the code of its next instruction has not parked. -/
def Thread.parksAt (th : Thread) (pc : BitVec 64) : Bool :=
  match th.status with
  | .waiting (.fetch _ _) => th.pc == pc
  | .waiting _ => true
  | .held _ => true
  | _ => false

/-- Does a thread wait in an LDTH or an EWAIT. -/
def State.longWait (s : State) (w : Wg) (ti l : Nat) : Bool :=
  s.waiters.any fun x => x.wg == w.uid && x.team == ti && x.lane == l && !x.abandoned
/-- Is a thread parked on another party (R221). -/
def State.partyParked (s : State) (w : Wg) (ti l : Nat) : Bool :=
  ((w.team ti).thread l).status.onParty || s.longWait w ti l

/-- The non-exited threads of a team at a program counter (R221). -/
def Team.subGroup (t : Team) (pc : BitVec 64) : BitVec 64 :=
  t.members (maskOf fun l => !(t.thread l).exited && (t.thread l).pc == pc)

/-- Does a thread wait in a rendezvous that all its members have reached. -/
def Team.meets (t : Team) (l : Nat) : Bool :=
  match (t.thread l).meeting (t.thread l).pc with
  | some k => t.allThere k.mask (t.thread l).pc
  | none => false

/-- Is it not yet decided whether a stepped instruction parks: an access whose verdict or commit is still to come, or a rendezvous
that is complete. -/
def Team.undecided (t : Team) (m : BitVec 64) (id : Nat) : Bool :=
  (lanesOf m).any fun l => (t.thread l).status == .region id || t.meets l

/-- A step request as things stand: a sub-group that has issued is done when it is decided whether it parked; sub-groups that
are gone, or parked on another party, are passed over. -/
def State.stepView (s : State) (r : StepReq) : StepReq :=
  let w := s.wg r.wg
  let t := w.team r.team
  let skip (q : StepReq) : StepReq :=
    let here (g : BitVec 64 × BitVec 64) : List Nat := lanesOf (g.2 &&& t.subGroup g.1)
    let parked (g : BitVec 64 × BitVec 64) : Bool := (here g).any (s.partyParked w r.team)
    let gone := q.groups.filter fun g => (here g).isEmpty || parked g
    { q with groups := q.groups.filter (fun g => !gone.contains g), parked := q.parked || gone.any parked }
  match r.issued with
  | none => skip r
  | some (m, id) =>
    if t.undecided m id then r
    else
      let pc := (r.groups.head?.map Prod.fst).getD 0
      let parks := (lanesOf m).any fun l => (t.thread l).parksAt pc || s.waiters.any fun x => x.id == id && x.lane == l
      skip { r with groups := r.groups.drop 1, issued := none, parked := r.parked || parks }

/-- The sub-group that a team of a halted context has to issue next. -/
def State.stepNext (s : State) (w : Wg) (ti : Nat) : Option (BitVec 64 × BitVec 64) :=
  match findFirst (fun r => r.wg == w.uid && r.team == ti && !r.groups.isEmpty) ((s.ctx w.ctx).steps.map s.stepView) with
  | none => none
  | some r => if r.issued.isSome then none else r.groups.head?.map fun g => (g.1, g.2 &&& (w.team ti).subGroup g.1)

/-- May a step issue a sub-group now: every thread runs and has nothing outstanding, and no token is awaited. -/
def State.stepReady (s : State) (w : Wg) (t : Team) (g : BitVec 64 × BitVec 64) : Bool :=
  (match s.fetchAt w t g.1 with
    | some (x, f) => !(f == 0 && isMmaWord x && s.mmaWaits w)
    | none => false)
  && g.2 != 0 && (lanesOf g.2).all fun l => (t.thread l).status == .running && (t.thread l).outs.isEmpty

/-- The step that a team of a halted context can take now: program counter and lanes. -/
def State.stepPc (s : State) (w : Wg) (ti : Nat) : Option (BitVec 64 × BitVec 64) :=
  match s.stepNext w ti with
  | some g => if s.stepReady w (w.team ti) g then some g else none
  | none => none

/-- After the issue of a stepped sub-group; the asking group looks again. -/
def State.stepDone (s : State) (u ti : Nat) (pc : BitVec 64) (lanes : BitVec 64) (id : Nat) : State :=
  let mine (r : StepReq) : Bool := r.wg == u && r.team == ti && r.issued.isNone && (r.groups.head?.map Prod.fst) == some pc
  let one (r : StepReq) : StepReq := { r with issued := some (lanes, id) }
  (s.modCtx (s.wg u).ctx fun c => { c with steps := mapWhere mine one (c.steps.map s.stepView) }).wakePercale

/-! ## Caches of translations (R316, R318) -/

/-- Twill translates for a fetch at an address, the launch has met the function, and the cluster's cache holds it. -/
def State.translateAt (s : State) (w : Wg) (t : Team) (p : Plan) (pc : Nat) : State :=
  (s.translate w.die (clusterOf w.core) (s.ctx w.ctx) p t.jord pc).modRec w.launch fun r =>
    r.meet (s.fnUse (s.ctx w.ctx) w.die p)

/-- Pins lines of a function's translation in the issuing cluster for a launch, or for the context (launch 0): all of them, or one; none
where the quota would be passed (R318). -/
def State.pinFor (s : State) (w : Wg) (t : Team) (base launch : Nat) (line : Option Nat) : Option State :=
  let cl := clusterOf w.core
  match findFirst (s.isFor w t.jord base) s.trans with
  | none => some s
  | some x =>
    let ks := match line with
      | some k => [k]
      | none => x.lines
    let new := ks.filter fun k => !(x.pinned w.ctx cl).contains k
    if (s.ctx w.ctx).pinq < s.pinnedLines w.die w.ctx cl + new.length then none
    else
      let pinned (y : Translation) : Translation := y.pin { cluster := cl, ctx := w.ctx, launch := launch, lines := ks }
      some { s with trans := mapWhere (s.isFor w t.jord base) pinned s.trans }

/-- Does the header of a workgroup's launch ask for pins. -/
def State.pins (s : State) (w : Wg) : Bool :=
  match (s.record w.launch).header with
  | some h => h.pin
  | none => false
/-- Pins a line that is filled for a launch whose header asks for it, where the quota allows (R318). -/
def State.pinLaunch (s : State) (w : Wg) (t : Team) (base pc : Nat) : State :=
  if s.pins w then (s.pinFor w t base w.launch (some (lineOf base pc))).getD s else s

/-- A fetch of a line that the cluster's cache does not hold fills it from the die store: a miss, which event 9 counts (R316). -/
def State.fillCluster (s : State) (w : Wg) (t : Team) (pc : BitVec 64) : State :=
  match s.transAt w t.jord pc.toNat with
  | none => s
  | some tr =>
    let cl := clusterOf w.core
    let line := lineOf tr.base pc.toNat
    if tr.cached.contains (cl, line) then s
    else
      let s1 := s.countEvent (s.ctx w.ctx).part 9 1
      if s.noTranslations w.die cl then s1
      else
        let s2 : State := { s1 with trans := mapWhere (s.isFor w t.jord tr.base) (fun x => x.hold cl line) s1.trans }
        s2.pinLaunch w t tr.base pc.toNat

/-! ## Before and after an issue -/

/-- The threads of a frozen team at a program counter for which Percale looks again at what they have asked (R297, R339). -/
def Team.due (t : Team) (pc : BitVec 64) : BitVec 64 :=
  t.members (maskOf fun l => (t.thread l).status == .waiting (.service true) && (t.thread l).pc == pc)
/-- Where they stand. -/
def Team.duePc (t : Team) : Option Nat :=
  (findFirst (fun th => th.status == .waiting (.service true)) t.threads).map fun th => th.pc.toNat

/-- Where a team of a workgroup may issue next, and which lanes: the candidate's group, or the step of a halted context; in a frozen
workgroup only what Percale has been asked goes on. -/
def State.issuePc (s : State) (u ti : Nat) : Option Nat :=
  let w := s.wg u
  if w.uid != u || u == 0 || decide (w.teams.length ≤ ti) then none
  else if w.frozen then (w.team ti).duePc
  else if (s.ctx w.ctx).halted then (s.stepPc w ti).map fun g => g.1.toNat
  else s.candidate w (w.team ti)

/-- The lanes of the group that issues at a program counter. -/
def State.issueLanes (s : State) (u ti : Nat) (pc : BitVec 64) : BitVec 64 :=
  let w := s.wg u
  if w.frozen then (w.team ti).due pc
  else if (s.ctx w.ctx).halted then ((s.stepPc w ti).map Prod.snd).getD 0
  else s.readyLanes w (w.team ti) pc

/-! ## Ageing (R217, R218) -/

/-- Do the counters of a workgroup's paths stand still. -/
def State.still (s : State) (w : Wg) : Bool := w.frozen || (s.ctx w.ctx).halted

/-- In a cycle every ready path that is not issued grows older by one; the path that issues starts at 0 again. A step of the
model is one cycle here (DESIGN CHOICE, log 50). -/
def State.ageAll (s : State) (issued : Option (Nat × Nat × Nat)) : State :=
  let one (w : Wg) (ti : Nat) (t : Team) : Team :=
    let waits := (s.readyPaths w t).filter fun p => issued != some (w.uid, ti, p)
    let older := waits.foldl (fun a p => spSet a p (spGet a p + 1)) t.ages
    match issued with
    | some (u, i, p) => { t with ages := if u == w.uid && i == ti then spDel older p else older }
    | none => { t with ages := older }
  { s with wgs := s.wgs.map fun w => if s.still w then w else { w with teams := mapIdxFrom (one w) 0 w.teams } }

/-- Does a path at top priority come before a team's candidate on its core: by descending counter, then ascending team, then
ascending program counter (R218). -/
def State.outranked (s : State) (u ti : Nat) : Bool :=
  let w := s.wg u
  let rank (y : Wg) (i : Nat) (t : Team) : Option (Nat × Nat × Nat) := (s.candidate y t).map fun p => (t.age p, i, p)
  let before (x y : Nat × Nat × Nat) : Bool :=
    decide (y.1 < x.1) || (x.1 == y.1 && (decide (x.2.1 < y.2.1) || (x.2.1 == y.2.1 && decide (x.2.2 < y.2.2))))
  match rank w ti (w.team ti) with
  | none => false
  | some me =>
    !s.still w && s.wgs.any fun y => y.die == w.die && y.core == w.core && !s.still y
      && (mapIdxFrom (rank y) 0 y.teams).any fun x => match x with
        | some o => decide (1024 ≤ o.1) && before o me
        | none => false

/-- The counters of the auditor that an issue of a word raises (R210): instructions, lane or uniform issues. -/
def State.countIssue (s : State) (part : Nat) (x : BitVec 32) : State :=
  (s.addCounter part 4 1).countEvent part (if isUniformWord x then 2 else 1) 1

/-- Counters of paths that have no thread any more are forgotten. -/
def State.pruneAges (s : State) (u ti : Nat) : State :=
  s.modTeam u ti fun t => { t with ages := t.ages.filter fun e => t.pathPcs.contains e.1 }

/-- A group takes its turn: it becomes the group that executes, its threads under the bodies its translation has. In a frozen workgroup
nothing is fetched or counted: an operation that has issued completes. -/
def State.beginIssue (s : State) (u ti : Nat) (pc : BitVec 64) (x : BitVec 32) : State :=
  let lanes := s.issueLanes u ti pc
  let w := s.wg u
  let ls := s.loopsAt w (w.team ti) pc
  let s0 := if w.frozen then s
    else ((s.fillCluster w (w.team ti) pc).ageAll (some (u, ti, pc.toNat))).countIssue (s.ctx w.ctx).part x
  let s1 := s0.modLanes u ti lanes fun _ th => { th with bodies := ls }
  { s1 with cur := some { wg := u, team := ti, lanes := lanes, pc := pc, id := s.nextId }, nextId := s.nextId + 1 }

/-- Does a thread of a translation's world and die stand in its function, or have its return address there. -/
def State.inUse (s : State) (t : Translation) : Bool :=
  let inside (c : Ctx) (a : BitVec 64) : Bool :=
    match c.codeIa a.toNat with
    | some ia => decide (t.ia ≤ ia) && decide (ia < t.ia + 4 * t.words.length)
    | none => false
  s.wgs.any fun w => w.die == t.die && (s.ctx w.ctx).world == t.world
    && w.teams.any fun x => x.threads.any fun th => inside (s.ctx w.ctx) th.pc || inside (s.ctx w.ctx) th.lr

/-- Copies leave the caches by the machine's own choice: words of a cluster cache line, dirty ones written back first, lines
of a read-only cache, translations that are not pinned, and decoded sectors of L2; no thread loses the translation it
stands in (R225, R232, R235, R316, R318; DESIGN CHOICE, log 9). -/
def State.evict (s : State) : State :=
  let out := Config.evicts s.draws
  let keep (t : Translation) (x : Nat × Nat) : Bool :=
    !out 2 t.die x.1 (t.ia + 256 * x.2) || t.pins.any fun p => p.cluster == x.1 && p.lines.contains x.2
  let s1 := s.dropWords fun c => out 0 c.die c.cluster (c.word / 32)
  { s1 with
    roLines := s1.roLines.filter fun r => !out 1 r.die r.cluster r.line,
    trans := s1.trans.map fun t =>
      if out 3 t.die 0 t.ia && t.pins.isEmpty && !s.inUse t then { t with stored := false, cached := [] }
      else { t with cached := t.cached.filter (keep t) },
    dies := mapIdxFrom (fun i d => { d with sectors := d.sectors.filter fun f => !out 4 i 0 f.sector }) 0 s1.dies }

/-- Counters of events that caches, memories and links decide rise by free numbers (R210; DESIGN CHOICE, log 58). -/
def Part.traffic (draw n : Nat) (p : Part) : Part :=
  (upFrom 0x010 16).foldl (fun q i =>
    let ev := (spGet q.events i).toNat
    if 4 ≤ ev ∧ ev ≤ 8 then q.addCounter i (Config.traffic draw n ev) else q) p

/-- Time moves on by a free amount, and the cycle counts of running contexts with it (DESIGN CHOICE, log 5; R99, R323); copies may leave
the caches. -/
def State.elapse (s0 : State) : State :=
  let s := s0.evict
  let run (c : Ctx) : Ctx :=
    if c.state == .running then { c with cycles := c.cycles + BitVec.ofNat 64 (Config.cycles s.draws) } else c
  { s with time := s.time + Config.elapsed s.draws, draws := s.draws + 1, ctxs := s.ctxs.map run,
           parts := mapIdxFrom (Part.traffic s.draws) 0 s.parts }

/-- A cycle in which nothing issues. -/
def State.pass (s : State) : State := (s.ageAll none).elapse

/-- A stepped path keeps its counter where its threads go: stepping never changes which path is favoured later (R221). -/
def Team.moveAge (t : Team) (pc : Nat) (lanes : BitVec 64) : Team :=
  let n := t.age pc
  let put (a : Sparse 64) (l : Nat) : Sparse 64 :=
    let q := (t.thread l).pc.toNat
    spSet a q (BitVec.ofNat 64 (max n (spGet a q).toNat))
  { t with ages := (lanesOf lanes).foldl put t.ages }

/-- The counters of a team of a halted context as its threads move: a path that goes on, be it when an access of it commits or a
rendezvous is complete, takes its counter along, and a path that no thread stands at any more keeps none (R221). -/
def Team.follow (old new : Team) : Team :=
  let put (a : Sparse 64) (x : Thread × Thread) : Sparse 64 :=
    let q := x.2.pc.toNat
    if x.1.pc == x.2.pc then a else spSet a q (BitVec.ofNat 64 (max (old.age x.1.pc.toNat) (spGet a q).toNat))
  let ages := (List.zip old.threads new.threads).foldl put new.ages
  { new with ages := ages.filter fun e => new.pathPcs.contains e.1 }
/-- The counters of every halted context follow a step that led from `old` here. -/
def State.follow (s old : State) : State :=
  let one (w : Wg) : Wg :=
    if (s.ctx w.ctx).halted && (old.ctx w.ctx).halted && (old.wg w.uid).uid == w.uid then
      { w with teams := mapIdxFrom (fun ti t => ((old.wg w.uid).team ti).follow t) 0 w.teams }
    else w
  { s with wgs := s.wgs.map one }

/-- Uniform registers that an issue wrote while results of earlier issues are outstanding, those of loads and atomics in flight among
them, do not receive those results any more: the later write remains (R32, R216). -/
def State.noteWrites (s : State) (u ti : Nat) (lanes : BitVec 64) (id : Nat) (x : BitVec 32) : State :=
  let t := (s.wg u).team ti
  match decode x with
  | .nonInstr _ => s
  | .instr i =>
    let early := !t.uouts.isEmpty || s.accs.any fun a => a.uniform && a.wg == u && a.team == ti
    if !early || !isUniformWord x || (t.thread (lowestLane lanes)).status != .running then s
    else
      let y := useOf i t.jord.order
      let rs := (y.writes.filter fun r => decide (64 ≤ r) && decide (r < 128) && !y.pend.contains r).map fun r => r - 64
      s.modTeam u ti fun t => t.wrote id rs

/-- The group has executed. -/
def State.endIssue (s : State) (u ti : Nat) (pc : BitVec 64) (lanes : BitVec 64) (id : Nat) (x : BitVec 32) : State :=
  let s1 := ({ s with cur := none } : State).noteWrites u ti lanes id x
  if (s1.ctx (s1.wg u).ctx).halted then
    (((s1.modTeam u ti fun t => t.moveAge pc.toNat lanes).pruneAges u ti).stepDone u ti pc lanes id).elapse
  else (s1.pruneAges u ti).elapse

/-- An MMA whose cluster holds no token of its launch does not issue: the first asks for the lease (R168, R170). -/
def State.stallsMma (s : State) (u : Nat) (x : BitVec 32) (f : Nat) : Bool := f == 0 && isMmaWord x && s.mmaStalls (s.wg u)

/-! ## Words that do not execute -/

/-- OWN of a fetch (R126, R128): one operator record, an owner record where some thread has no handler, and the trap in
every thread. -/
def State.fetchOwn (s : State) (g : Group) (w : Wg) (t : Team) : State :=
  let ls := g.live t
  let ia := match (s.ctx w.ctx).hit g.pc.toNat 4 with
    | some h => h.ia
    | none => 0
  let un := ls.any fun l => s.unhandled w g.team l 0x08
  let s1 := s.fetchRecords w g.team (lowestLane g.lanes) 0x08 2 g.pc.toNat ia ls.length un
  s1.raiseEach g.wg g.team ls fun l =>
    { plainTrap 0x08 l with recorded := true, kind := 6, size := 2, va := g.pc.toNat, ia := ia }

/-- A word with a translation fault executes: it raises the fault at that instruction (R44 to R47). -/
def State.faultWord (s : State) (x : BitVec 32) (f : Nat) : Result :=
  s.withGroup fun g w t =>
    if f == 8 then s.fetchOwn g w t
    else if isUniformWord x then s.raiseGroup g.wg g.team g.lanes (plainTrap f 0)
    else s.raiseEach g.wg g.team (g.live t) (plainTrap f)

/-- Would an instruction consume a poisoned uniform register of its team (R237). -/
def State.consumesUniform (s : State) (u ti : Nat) (i : Instr) : Bool :=
  let t := (s.wg u).team ti
  !t.poison.isEmpty && (useOf i t.jord.order).reads.any fun r => decide (64 ≤ r) && t.poison.contains (r - 64)

/-- A group that would consume a poisoned uniform register does not receive it (R237). -/
def State.poisonIssue (s : State) : Result := 
  s.withGroup fun g w _ => s.registerError w g.team (lanesOf g.lanes) 1 0 g.pc.toNat

end Sys2Proof.Machine
end

