-- ==== Sys2Proof/Machine/Sched.lean ====
section
/-!
DEFINITION. The scheduler: the checks of a record examined for dispatch (R287 to R289, R305, R306), when a record may start,
the start of launches, graphs and jobs (R290), the schedule selector (R292), the placement of workgroups (R214, R296,
R345), completion (R291), and leases (R299).
-/
namespace Sys2Proof.Machine

/-! ## Examination -/

/-- The reserved bits of the common header of a record (R287). -/
def headerZero (x : Nat) : Bool := bitsOf x 4 4 == 0 && bitsOf x 10 6 == 0 && bitsOf x 24 8 == 0

/-- Physical cores of a die that CORES names and that are present (R288, R227). -/
def State.presentCores (s : State) (die cores : Nat) : List Nat :=
  (upFrom 0 63).filter fun c => cores.testBit c && s.coreExists die c

/-- The kernel header at an address, checked (R305, R306). -/
def State.readHeader (s : State) (c : Ctx) (die va : Nat) : Option Header :=
  if va % 64 != 0 then none
  else
    match s.readCode c die va 64 with
    | none => none
    | some x =>
      let teams := bitsOf x 32 4 + 1
      let entry := bitsOf x 64 64
      let ftab := bitsOf x 192 64
      let nfunc := bitsOf x 256 16
      let ok := bitsOf x 0 32 == 0x3152484B && bitsOf x 49 15 / 2 == 0 && bitsOf x 132 60 == 0 && bitsOf x 272 240 == 0
        && decide (bitsOf x 42 3 ≤ 5) && decide (bitsOf x 128 4 ≤ 8) && !(bitsOf x 45 1 == 1 && decide (12 < teams))
        && entry % 4 == 0 && c.inCode entry 4
        && (ftab == 0 || (ftab % 64 == 0 && (upFrom 0 nfunc).all fun i => c.inCode (ftab + 64 * i) 64))
      let order : JetOrder := match bitsOf x 46 2 with
        | 0 => .k0 | 1 => .k1 | 2 => .k3 | _ => .k7
      if ok then
        some { teams := teams, live := bitsOf x 36 6 + 1, span := bitsOf x 42 3, xblk := bitsOf x 45 1 == 1,
               order := order, pin := bitsOf x 48 1 == 1, matrix := bitsOf x 49 1 == 1,
               entry := BitVec.ofNat 64 entry, units := bitsOf x 128 4, ftab := ftab, nfunc := nfunc }
      else none

/-- What the examination of a launch record gives. -/
structure Examined where
  header : Header
  units : Nat
  tokens : Nat
  cores : List Nat
  seeds : List (BitVec 64)
  deriving DecidableEq, Repr

/-- What the first examination of a launch found, while it waits for its tokens (R306). -/
def Rec.found (r : Rec) : Option Examined :=
  match r.header with
  | some h => if r.examined then
      some { header := h, units := r.units, tokens := r.lease.asked, cores := r.cores, seeds := r.seeds } else none
  | none => none
/-- The examination's findings kept with the record. -/
def Rec.keep (r : Rec) (e : Examined) : Rec :=
  { r with examined := true, header := some e.header, units := e.units, cores := e.cores, seeds := e.seeds,
           lease := { r.lease with asked := if e.header.matrix then e.tokens else 0 } }

/-- The examination of a launch (R286, R288, R306); none is BADARG. -/
def State.examine (s : State) (u : Nat) : Option Examined :=
  let r := s.record u
  let c := s.ctx r.ctx
  match s.readPlain c r.die r.addr 128 with
  | none => none
  | some x =>
    let cores := bitsOf x 256 64
    let here := s.presentCores r.die cores
    let nsucc := bitsOf x 464 16
    let ok := !r.bad && headerZero x && bitsOf x 236 20 == 0 && bitsOf x 480 32 == 0 && decide (cores < 2 ^ 63)
      && !here.isEmpty && decide (bitsOf x 192 40 < 2 ^ 40)
      && (bitsOf x 320 64 != 0 || bitsOf x 448 16 == 0) && (nsucc != 0 || bitsOf x 384 64 == 0)
      && (bitsOf x 320 64 != 0 || nsucc == 0)
    match (if ok then s.readHeader c r.die (bitsOf x 128 64) else none) with
    | none => none
    | some h => some
      { header := h, units := bitsOf x 192 40, tokens := max 1 (bitsOf x 232 4), cores := here,
        seeds := (upFrom 0 8).map fun n => BitVec.ofNat 64 (bitsOf x (512 + 64 * n) 64) }

/-- The fields of a graph, phase or job record are in order (R289). -/
def State.groupOk (s : State) (u : Nat) : Bool :=
  let r := s.record u
  match s.readPlain (s.ctx r.ctx) r.die r.addr 64 with
  | none => false
  | some x =>
    !r.bad && headerZero x &&
      match r.kind with
      | .launch => false
      | .graph => bitsOf x 208 48 == 0 && bitsOf x 384 128 == 0
      | .phase => bitsOf x 264 56 == 0 && bitsOf x 448 64 == 0 && bitsOf x 128 64 % 8 == 0
      | .job => bitsOf x 208 304 == 0

/-! ## When a record may start -/

/-- May launches of a context start on a die: an owner's only in RUN (R371), none on a die that drains (R364), none of a
context that is frozen or saved (R323) or has reset itself (R208) (DEDUCED, log 73). -/
def State.mayRun (s : State) (c : Ctx) (die : Nat) : Bool :=
  (c.auth != 1 || (s.part c.part).ifstate == .run) && (c.state == .idle || c.state == .running) && !c.resetting
    && (s.die die).dstate == 0

/-- Members of a job before one have all completed with CODE OK (R292). -/
def State.allOkBefore (s : State) (l : List Nat) (u : Nat) : Bool :=
  match l with
  | [] => true
  | k :: t => if k == u then true else (s.record k).isDone && (s.record k).code == codeOk && s.allOkBefore t u

/-- Has a record come to the point where it starts (R289, R292, R295). -/
def State.reached (s : State) (u : Nat) : Bool :=
  let r := s.record u
  r.uid == u && u != 0 && (r.state == 0 || r.state == 1) && r.tag.isNone &&
    match r.parent with
    | none => r.state == 1
    | some p =>
      let q := s.record p
      q.state == 2 && match q.kind with
        | .graph => decide (r.npred ≤ r.predsDone)
        | .phase => q.chosen == some u
        | .job => s.allOkBefore q.children u
        | .launch => false

/-- A record ends with a code; a launch's successors are counted or dropped (R291). -/
def State.finishRec (s : State) (u code : Nat) : State :=
  let s1 := s.complete u code
  if (s.record u).kind == .launch then s1.countSuccessors u code else s1

/-- STATE, TOTAL and DONE of a record that starts (R290); it leaves the device queue (R285). -/
def State.beginRec (s : State) (u total done : Nat) : State :=
  let f (x : Rec) : Rec := { x with state := 2, total := total, done := done, ending := decide (total ≤ done) }
  (((s.modRec u f).unqueue u).writeHead u).writeDone u

/-! ## Starting -/

/-- The graphs that a phase did not choose stop being held (R293). -/
def State.release (s : State) (us : List Nat) : State :=
  let gone := us.flatMap fun u => s.treeOf 2 u
  { s with recs := s.recs.filter fun r => r.isDone || !gone.contains r.uid }

/-- A graph, phase or job is first examined for dispatch: its arrays and the records they name are read and checked now
(R286, R289, R292); one that a cancel has dropped already stays dropped (R293; DEDUCED, log 41). -/
def State.takeUp (s : State) (u : Nat) : State :=
  let r := s.record u
  let known := (s.treeOf 4 u).filter fun k => k != u && (s.record k).isDone
  ((s.release r.children).modRec u fun x => { x with children := [], bad := false }).adoptTree known u 4

/-- A graph or a job starts: its members are its children (R287, R290). Members that a cancel has dropped count. -/
def State.startGroup (s0 : State) (u : Nat) : State :=
  let s := s0.takeUp u
  let r := s.record u
  if s.groupOk u then s.beginRec u r.children.length (countWhere (fun k => (s.record k).isDone) r.children)
  else (s.release r.children).finishRec u codeBadArg

/-- The schedule selector: the graph of least capacity that holds the size, the earlier of equals; a graph that a cancel
has dropped is passed over (R292, R293). -/
def State.select (s : State) (size : Nat) : List Nat → Option Nat
  | [] => none
  | k :: rest =>
    let r := s.record k
    let other := s.select size rest
    if r.isDone || r.capacity < size then other
    else
      match other with
      | none => some k
      | some q => if (s.record q).capacity < r.capacity then some q else some k

/-- A phase starts (R292). -/
def State.startPhase (s0 : State) (u : Nat) : State :=
  let s := s0.takeUp u
  let r := s.record u
  let c := s.ctx r.ctx
  let size := match s.readPlain c r.die r.addr 64 with
    | some x => s.readPlain c r.die (bitsOf x 128 64) 8
    | none => none
  match (if s.groupOk u then size else none) with
  | none => (s.release r.children).finishRec u codeBadArg
  | some n =>
    match s.select n r.children with
    | none =>
      let s1 := (s.writeVa c r.die (r.addr + 48) 8 0).release r.children
      (s1.beginRec u 0 0).finishRec u codePhaseFit
    | some k =>
      let s1 := s.writeVa c r.die (r.addr + 48) 8 (s.record k).addr
      let s2 := (s1.modRec u fun x => { x with chosen := some k }).release (r.children.filter fun x => x != k)
      (s2.beginRec u 1 0).startGroup k

/-- The launch-start acquire: every cluster of the die drops what it does not own and its read-only copies (R262). -/
def State.launchAcquire (s : State) (die : Nat) : State :=
  (upFrom 0 16).foldl (fun acc cl => acc.acquireHalf die cl 4 true) s

/-- A launch whose examination has passed starts on some cores (R290). -/
def State.startLaunch (s : State) (u : Nat) (e : Examined) (cores : List Nat) : State :=
  let r := s.record u
  let f (x : Rec) : Rec :=
    { x.keep e with next := 0, cores := cores, placed := [], ended := 0, resolution := (s.part (s.ctx r.ctx).part).resolve,
                    handlers := [], fns := [] }
  ((s.launchAcquire r.die).modRec u f).beginRec u cores.length 0

/-- A MATRIX launch asks for its tokens (R299); the front end has taken it from the device queue (R285), and keeps what the
examination found under its acquire (R306). -/
def State.askTokens (s : State) (u : Nat) (e : Examined) : State :=
  let r := s.record u
  let f (x : Rec) : Rec := { x.keep e with lease := { x.lease with asked := e.tokens, waiting := true, since := s.time } }
  (((s.launchAcquire r.die).unqueue u).modRec u f).seeLease r.ctx

/-- What a launch that is to start is: as its first examination found it. -/
def State.examined (s : State) (u : Nat) : Option Examined :=
  match (s.record u).found with
  | some e => some e
  | none => s.examine u

/-- LAUNCH_START of a launch that is reached; none where it is held as accepted or waits for its lease (R371, R364). -/
def State.startOne (s : State) (u : Nat) : Option State :=
  let r := s.record u
  if !s.mayRun (s.ctx r.ctx) r.die || (s.ctx r.ctx).urgent then none
  else
    match s.examined u with
    | none => some (s.finishRec u codeBadArg)
    | some e =>
      if e.header.matrix && r.lease.held == 0 then (if r.lease.waiting then none else some (s.askTokens u e))
      else some (s.startLaunch u e (e.cores.filter (s.coreExists r.die)))

/-! ## Placement (R214) -/

/-- Scratch units of a core's cluster, the lowest free ones. -/
def State.takeUnits (s : State) (die core n : Nat) : List Nat := (s.freeUnits die (clusterOf core)).take n

/-- Does a core's cluster wait for the scrub of its waking, before any allocation (R345). -/
def State.needsScrub (s : State) (die core : Nat) : Bool := (s.die die).scrubPending.contains (clusterOf core)

/-- Are the resources of a workgroup free on a core. -/
def State.fits (s : State) (die core : Nat) (h : Header) (urgent : Bool) : Bool :=
  decide (h.teams ≤ s.freeSlots die core urgent)
    && (!h.xblk || decide (h.teams ≤ s.freeBlocks die core urgent))
    && decide (h.units ≤ (s.freeUnits die (clusterOf core)).length)

/-- One team as it starts (R6, R290). JORD starts from the header's order, as R290 and R305 say, where R6's table has zero
(DEDUCED, log 23). -/
def newTeam (h : Header) (seed : List (BitVec 64)) : Team :=
  let th : Thread := { Thread.init with pc := h.entry }
  let seeds := mapIdxFrom (fun n x => (n, x)) 1 seed
  { Team.absent with
    threads := (upFrom 0 h.live).map fun _ => th,
    s := seeds.foldl (fun m p => spSet m p.1 p.2) [],
    jord := h.order, ext := h.xblk }

/-- A workgroup as it starts. -/
def State.newWg (s : State) (u : Nat) (h : Header) (core j : Nat) (urgent : Bool) : Wg :=
  let r := s.record u
  let p := s.part (s.ctx r.ctx).part
  { uid := s.nextId, ctx := r.ctx, launch := u, wgid := j, nwg := r.cores.length, lcore := core,
    ldie := (p.logicalOf r.die).getD 0, ndie := r.resolution.length, die := r.die, core := core, nlive := h.live,
    teams := (upFrom 0 h.teams).map fun _ => newTeam h r.seeds, g := [],
    barriers := (upFrom 0 16).map fun _ => ⟨h.teams * h.live, 0, 0⟩, shapes := [], scratch := [],
    units := s.takeUnits r.die core h.units, span := h.span, bankModes := [],
    queues := (upFrom 0 16).map fun _ => Queue.init, urgent := urgent, frozen := false, poison := [], gpoison := [] }

/-- Place of a core among the assigned ones (WGID). -/
def placeIn (core : Nat) : List Nat → Nat
  | [] => 0
  | c :: t => if c == core then 0 else 1 + placeIn core t

/-- Places the workgroup of a launch on a core; its banks leave cache mode (R226). What another
context left there is scrubbed first (R345). -/
def State.placeWg (s : State) (u : Nat) (h : Header) (core : Nat) (urgent : Bool) : State :=
  let r := s.record u
  let w := s.newWg u h core (placeIn core r.cores) urgent
  let s0 := s.switchScrub r.die core r.ctx
  let s1 := if w.units.isEmpty then s0 else s0.dropCluster r.die (clusterOf core)
  let s2 : State := { s1 with wgs := s1.wgs ++ [w], nextId := s1.nextId + 1 }
  let s3 := s2.modRec u fun x => { x with placed := x.placed ++ [core] }
  s3.modCtx r.ctx fun c => { c with state := if c.state == .idle then .running else c.state }

/-- Launches of a die whose workgroup for a core still waits. -/
def State.waitingOn (s : State) (die core : Nat) : List Rec :=
  s.recs.filter fun r => r.kind == .launch && r.state == 2 && r.die == die && r.cores.contains core
    && !r.placed.contains core && !(s.ctx r.ctx).urgent && s.mayRun (s.ctx r.ctx) die

/-- Does one launch come before another for a freed core (R296). -/
def State.before (s : State) (a b : Rec) : Bool :=
  let ca := s.ctx a.ctx
  let cb := s.ctx b.ctx
  if ca.cls != cb.cls then decide (cb.cls < ca.cls)
  else if a.order != b.order then decide (a.order < b.order)
  else decide (ca.handle.toNat < cb.handle.toNat)

/-- Can the dispatcher place a launch's workgroup on a core now: no launch that comes before it waits for the core. -/
def State.canPlace (s : State) (u core : Nat) (h : Header) : Bool :=
  let r := s.record u
  (s.waitingOn r.die core).any (fun q => q.uid == u)
    && (s.waitingOn r.die core).all (fun q => q.uid == u || s.before r q)
    && s.fits r.die core h false && !s.needsScrub r.die core
    && !(s.die r.die).preempts.any fun p => clusterOf p.core == clusterOf core && (s.record p.record).placed.isEmpty

/-! ## Completion -/

/-- Does a graph hold a member that can still run: one that runs, or one that is reached. -/
def State.graphLive (s : State) (u : Nat) : Bool :=
  (s.record u).children.any fun k => (s.record k).state == 2 || s.reached k
/-- The members of a graph that lie on a cycle of SUCC edges and are not done. -/
def State.onCycle (s : State) (u : Nat) : List Nat :=
  let r := s.record u
  r.children.filter fun k => !(s.record k).isDone && (s.succReach s.recs.length (s.record k).succ).contains k
/-- A graph whose SUCC edges form a cycle: nothing runs or is ready and something is not done (R289) (DEDUCED, log 42). -/
def State.graphCycle (s : State) (u : Nat) : Bool :=
  let r := s.record u
  r.kind == .graph && r.state == 2 && !s.graphLive u && !(s.onCycle u).isEmpty

/-- The first member of a job that completed with another code than OK (R292). -/
def State.jobFailed (s : State) (r : Rec) : Option Nat :=
  findFirst (fun k => (s.record k).isDone && (s.record k).code != codeOk) r.children

/-- LAUNCH_COMPLETION of a record; none where it is not due (R291). -/
def State.completeDue (s : State) (u : Nat) : Option State :=
  let r := s.record u
  if r.uid != u || u == 0 || r.state != 2 then none
  else
    match r.kind with
    | .launch => if r.ending then some ((s.finishRec u (if r.cancelled then codeCancelled else codeOk)).endPins u) else none
    | .job =>
      match s.jobFailed r with
      | some k =>
        let later := r.children.filter fun x => !(s.record x).isDone
        if r.cancelled then (if r.ending then some (s.finishRec u codeCancelled) else none)
        else if s.allOkBefore r.children k then some ((s.release later).finishRec u (s.record k).code)
        else none
      | none => if r.ending then some (s.finishRec u (s.parentCode r)) else none
    | .graph =>
      if s.graphCycle u then
        let s0 := (s.onCycle u).foldl (fun acc k => acc.complete k codeBadArg) s
        let s1 := (s0.succReach s0.recs.length (s.onCycle u)).foldl (fun acc k => acc.dropRec k) s0
        let open_ := r.children.filter fun k => !(s1.record k).isDone
        let code := if r.cancelled then codeCancelled else codeBadArg
        some ((s1.release open_).finishRec u code)
      else if r.ending then some (s.finishRec u (s.parentCode r)) else none
    | .phase => if r.ending then some (s.finishRec u (s.parentCode r)) else none

/-- A workgroup has ended: DONE of its launch rises (R291). -/
def State.wgEnded (s : State) (u : Nat) : State :=
  let s1 := s.modRec u fun r =>
    { r with ended := r.ended + 1, done := r.done + 1, ending := r.ending || decide (r.total ≤ r.done + 1) }
  s1.writeDone u

/-! ## Leases (R299, R300) -/

/-- Tokens of a die that leases hold. -/
def State.tokensHeld (s : State) (die : Nat) : Nat :=
  s.recs.foldl (fun acc r => acc + if r.die == die then r.lease.held else 0) 0
/-- Tokens free in a die's pool. -/
def State.tokensFree (s : State) (die : Nat) : Nat := (s.die die).pool - s.tokensHeld die

/-- Launches of a die that wait for tokens. -/
def State.leaseWaiters (s : State) (die : Nat) : List Rec := s.recs.filter fun r => r.die == die && r.lease.waiting
/-- Does one waiter come before another: an urgent launch, the higher class, the longer wait, the lower handle; of one
context's, the one accepted first (DESIGN CHOICE, log 50). -/
def State.leaseBefore (s : State) (a b : Rec) : Bool :=
  let ca := s.ctx a.ctx
  let cb := s.ctx b.ctx
  if ca.urgent != cb.urgent then ca.urgent
  else if ca.cls != cb.cls then decide (cb.cls < ca.cls)
  else if a.lease.since != b.lease.since then decide (a.lease.since < b.lease.since)
  else if ca.handle != cb.handle then decide (ca.handle.toNat < cb.handle.toNat)
  else decide (a.order < b.order)

/-- The quantum of a partition in nanoseconds (R376: QUANT counts microseconds). -/
def State.quantum (s : State) (part : Nat) : Nat := field (s.part part).pcap 16 16 * 1000

/-- The first waiter is granted min(k, P) tokens as soon as they are free. -/
def State.grantLease (s : State) (u : Nat) : Option State :=
  let r := s.record u
  let k := min r.lease.asked (s.die r.die).pool
  if r.uid == u && u != 0 && r.lease.waiting && (s.leaseWaiters r.die).all (fun q => q.uid == u || s.leaseBefore r q)
      && decide (k ≤ s.tokensFree r.die) then
    let waited := (s.time - r.lease.since) * (s.die r.die).mhz / 1000
    let f (x : Rec) : Rec :=
      { x with lease := { x.lease with held := k, waiting := false, captured := [],
                                       quantumEnd := s.time + s.quantum (s.ctx r.ctx).part } }
    some (((s.seeCauses.modRec u f).addCounter (s.ctx r.ctx).part 3 waited).seeCauses)
  else none

/-- A lease's quantum ends: it renews, or its tokens return to the pool and the launch waits again. -/
def State.endQuantum (s : State) (u : Nat) : Option State :=
  let r := s.record u
  if r.uid != u || u == 0 || r.lease.held == 0 then none
  else
    let c := s.ctx r.ctx
    let rivals := (s.leaseWaiters r.die).any fun q => decide (c.cls ≤ (s.ctx q.ctx).cls)
    let now := max s.time r.lease.quantumEnd
    let s1 : State := { s with time := now }
    if rivals then
      let f (x : Rec) : Rec := { x with lease := { x.lease with held := 0, captured := [], waiting := true, since := now } }
      some ((s1.seeCauses.modRec u f).seeCauses)
    else some (s1.modRec u fun x => { x with lease := { x.lease with quantumEnd := now + s.quantum c.part } })

end Sys2Proof.Machine
end

