-- ==== Sys2Proof/Machine/System.lean ====
section
/-!
DEFINITION. Engine chains and waits, cache maintenance, banks, queues and launch control as instructions (R195 to R201), and
the authority instructions (R204 to R212).
-/
namespace Sys2Proof.Machine

/-! ## Engines (R195, R196) -/

/-- Address of the record an engine is working. -/
def State.recordNow (s : State) (c : Nat) (y : Eng) : Option Nat :=
  if y.running then (s.nextRecord (s.engAt c y) y).toOption else none

/-- The tail of a workgroup's engine is set; a tail that names a completed record or the one in progress, and any tail
of an engine stopped on an error, leaves the engine as it was; the workgroup's end waits for the record in progress, which it has
tailed (R262). -/
def State.setTail (s : State) (w : Wg) (e : Engine) (x : BitVec 64) : State :=
  let y := s.engFor w e
  if y.state == 3 || y.completed.contains x then s
  else if s.recordNow w.ctx y == some x.toNat then s.modEngFor w e fun z => { z with tails := z.tails ++ [(w.uid, x)] }
  else s.modEngFor w e fun z =>
    { z with tail := x, tails := z.tails ++ [(w.uid, x)], state := if z.state == 0 then 1 else z.state,
             wg := if z.state == 0 then w.uid else z.wg }

/-- Has every thread of a group completed a release (R148). -/
def State.groupReleased (s : State) (g : Group) (t : Team) (mask : BitVec 8) (scope : Nat) : Bool :=
  (g.live t).all fun l => s.released g.wg g.team l mask scope

/-- ETAIL (R195). -/
def execEtail (a : SReg) (e : Engine) (s : State) : Result :=
  s.withGroup fun g w t =>
    let x := t.sreg a.toNat
    if x.toNat % 64 != 0 then s.raiseGroup g.wg g.team g.lanes (plainTrap 0x06 0)
    else if !s.groupReleased g t 0xFF 3 then s.park g (.waiting .release)
    else ((s.publishCluster w.die (clusterOf w.core) 3).setTail w e x).goOn g

/-- Scope of the acquire of an EWAIT that succeeds. -/
def ewaitScope : Engine → Nat
  | .collective => 4 | _ => 3

/-- Has an engine wait its condition: the count is reached, or the engine stopped on an error (R196). -/
def Eng.waitOver (y : Eng) (n : Nat) : Bool := decide (n ≤ y.seq.toNat) || y.state == 3

/-- The acquire of an EWAIT whose count is reached. -/
def State.ewaitAcquire (s : State) (w : Wg) (e : Engine) (n : Nat) : State :=
  if n ≤ (s.engFor w e).seq.toNat then s.acquireHalf w.die (clusterOf w.core) (ewaitScope e) false else s

/-- EWAIT (R196): its result is pending; the wait goes on while the group does. -/
def execEwait (d a : SReg) (e : Engine) (s : State) : Result :=
  s.withGroup fun g w t =>
    let y := s.engFor w e
    let n := (t.sreg a.toNat).toNat
    if y.waitOver n || t.waitlim == 0 then (s.ewaitAcquire w e n).pendUniform g [(d.toNat, y.seq)]
    else
      let x : Waiter :=
        { id := g.id, wg := g.wg, team := g.team, lane := lowestLane g.lanes, cell := false, pc := g.pc, bytes := 8,
          home := w.die, va := 0, ia := 0, ltype := 0, threshold := n, dest := d.toNat, start := (s.ctx w.ctx).cycles.toNat,
          limit := t.waitlim.toNat, polling := false, nextPoll := 0, engine := e, abandoned := false }
      let s1 : State := { s with waiters := s.waiters ++ [x] }
      (s1.addUniformOut g false []).goOn g

/-! ## CMO and TINV (R197, R198, R263, R317) -/

/-- A span of IA on a die: die, first IA, bytes. -/
abbrev IaSpan := Nat × Nat × Nat

/-- The IA that the bytes of a span of VA have: those that ranges of the context cover. -/
def State.iaSpans (s : State) (w : Wg) (va n : Nat) : List IaSpan :=
  let c := s.ctx w.ctx
  let res := (s.record w.launch).resolution
  (upFrom 0 16).filterMap fun r =>
    let lo := max va (c.rbase r * 65536)
    let hi := min (va + n) ((c.rlim r + 1) * 65536)
    if c.rangeEnabled r && decide (lo < hi) then
      let home := if field (c.rattr r) 1 3 == 2 then listGet 31 res (field (c.rattr r) 12 5) else w.die
      some (home, c.roff r * 65536 + lo - c.rbase r * 65536, hi - lo)
    else none

/-- The memory keys behind a span of IA, where its pages are mapped: first key and bytes. -/
def State.keySpans (s : State) (x : IaSpan) : List (Nat × Nat) :=
  (s.die x.1).published.filterMap fun m =>
    let lo := max x.2.1 (m.page * 65536)
    let hi := min (x.2.1 + x.2.2) (m.page * 65536 + 65536)
    if lo < hi then
      some (spotKey (m.spot x.1) + lo % 65536, hi - lo)
    else none

/-- Does a span of keys meet one of a list; does it lie inside one. -/
def meetsAny (ks : List (Nat × Nat)) (key n : Nat) : Bool := ks.any fun k => decide (key < k.1 + k.2) && decide (k.1 < key + n)
def insideAny (ks : List (Nat × Nat)) (key n : Nat) : Bool := ks.any fun k => decide (k.1 ≤ key) && decide (key + n ≤ k.1 + k.2)

/-- The cluster's dirty words of the spans go back to L2 and the cluster owns them; the writes so performed are awaited
no longer at die scope. -/
def State.cleanSpans (s : State) (die cl : Nat) (ks : List (Nat × Nat)) : State :=
  let mine := s.cwords.filter fun c => c.die == die && c.cluster == cl && c.dirty != 0 && meetsAny ks (4 * c.word) 4
  let s1 := mine.foldl (fun acc c => acc.writeBack die cl c.word) s
  { s1 with unacked := s1.unacked.filter fun x =>
      !(x.kind == 0 && x.die == die && x.cluster == cl && insideAny ks x.key x.bytes) }

/-- Every workgroup's threads that wait for a release look again. -/
def State.wakeAllReleases (s : State) : State := s.wgs.foldl (fun acc w => acc.wakeReleases w.uid) s

/-- The cluster's copies of the spans go, dirty words being written back first; its read-only copies too, and the host data its die's
L2 holds for them (R257). -/
def State.invalidateSpans (s : State) (die cl : Nat) (ks : List (Nat × Nat)) : State :=
  let s1 := s.cleanSpans die cl ks
  let s2 := s1.dropWords fun c => c.die == die && c.cluster == cl && meetsAny ks (4 * c.word) 4
  { s2 with roLines := s2.roLines.filter fun r => !(r.of die cl && meetsAny ks (128 * r.line) 128) }

/-- L2 drops the decoded sectors of the spans. Memory here is L2 and what lies below it (DEDUCED, log 27). -/
def State.dropSectors (s : State) (xs : List IaSpan) : State :=
  xs.foldl (fun acc x => acc.modDie x.1 fun d => { d with sectors := d.sectors.filter fun f =>
    !(decide (32 * f.sector < x.2.1 + x.2.2) && decide (x.2.1 < 32 * f.sector + 32)) }) s

/-- Is a clean's release complete for a group: earlier loads have returned, and side-log entries for bytes of the range
have replayed (R263). -/
def State.cleanReady (s : State) (g : Group) (t : Team) (va n : Nat) : Bool :=
  (g.live t).all fun l => s.released g.wg g.team l 0 0
    && !s.slog.any fun e => e.wg == g.wg && e.team == g.team && inMask e.lanes l && decide (e.va < va + n) && decide (va < e.va + e.bytes)

/-- CMO: `clean` and `drop` say what it does at cluster level; at L2 only a drop shows. A clean orders whatever the thread has seen,
also what stands dirty in the cluster outside the range (R263, R248 case 2, R250). -/
def State.cmo (s : State) (a b : SReg) (level : CmoLevel) (clean drop : Bool) : Result :=
  s.withGroup fun g w t =>
    let va := (t.sreg a.toNat).toNat
    let n := (t.sreg b.toNat).toNat
    let xs := s.iaSpans w va n
    let ks := xs.flatMap s.keySpans
    let cl := clusterOf w.core
    if n == 0 then s.goOn g
    else if clean && level != .l2 && !s.cleanReady g t va n then s.park g (.waiting .release)
    else
      let s0 := if clean && level != .l2 then s.publishCluster w.die cl 3 else s
      let s1 := if level == .l2 then s else if drop then s0.invalidateSpans w.die cl ks else s0.cleanSpans w.die cl ks
      let s2 := if drop && level != .cluster then s1.dropSectors xs else s1
      (s2.goOn g).wakeAllReleases

/-- CMO clean. -/
def execCmoClean (a b : SReg) (l : CmoLevel) (s : State) : Result := s.cmo a b l true false
/-- CMO invalidate. -/
def execCmoInvalidate (a b : SReg) (l : CmoLevel) (s : State) : Result := s.cmo a b l false true
/-- CMO clean-invalidate. -/
def execCmoCleanInvalidate (a b : SReg) (l : CmoLevel) (s : State) : Result := s.cmo a b l true true

/-- Drops the translations whose code IA meets a span of bytes, and the read-only copies of its pages. -/
def State.invalidateCode (s : State) (die ia n : Nat) : State :=
  { s with
    trans := s.trans.filter fun t => !(t.die == die && decide (t.ia < ia + n) && decide (ia < t.ia + 4 * t.words.length)),
    roLines := s.roLines.filter fun r => !(r.iaDie == die && decide (ia / 65536 ≤ r.iaPage) && decide (r.iaPage ≤ (ia + n - 1) / 65536)) }

/-- TINV (R198): on every die of the partition, a range's IA being the same on each. It completes when no thread is inside a
region translated from the code (R317). -/
def execTinv (d a b : SReg) (s : State) : Result :=
  s.privileged ownerOnly d.toNat fun g w t =>
    let va := (t.sreg a.toNat).toNat
    let n := (t.sreg b.toNat).toNat
    if n == 0 then s.status g w d.toNat stOk
    else if !s.groupReleased g t 0xFF 4 then s.park g (.waiting .release)
    else
      let xs := (s.iaSpans w va n).filter fun x => x.1 == w.die
      let ds := s.diesOf (s.ctx w.ctx).part
      let s0 := s.publishCluster w.die (clusterOf w.core) 4
      let s1 := ds.foldl (fun acc die => xs.foldl (fun acc2 x => acc2.invalidateCode die x.2.1 x.2.2) acc) s0
      if ds.any fun die => xs.any fun x => s1.insideCode die x.2.1 (x.2.1 + x.2.2) then s1.park g (.waiting (.service false))
      else s1.status g w d.toNat stOk

/-! ## Banks (R199) -/

def bankModeCode : BankMode → Nat
  | .scratch => 0 | .cache => 1 | .fifo => 2 | .unnamed => 3

/-- Does a scratch span of a workgroup touch a bank. -/
def Wg.spanInBank (w : Wg) (off n bank : Nat) : Bool := (upFrom 0 n).any fun i => bankOf (off + i) w.span == bank

/-- Is a bank the source or destination of the record an engine is working. -/
def State.engineHolds (s : State) (c : Nat) (y : Eng) (w : Wg) (bank : Nat) : Bool :=
  let x := s.engAt c y
  match (if y.running then (s.nextRecord x y).toOption else none) with
  | none => false
  | some a =>
    match s.readEngRec x a with
    | .error _ => false
    | .ok (s1, r) =>
      let ix := match s1.indices x r with
        | .ok ps => (s1.readSpots x (ps.map fun p => (p, 4))).2
        | .error _ => []
      let hits (base delta n : Nat) : Bool :=
        base / 2 ^ 62 == 2 && match s.scratchTarget x.wg (BitVec.ofNat 64 base) delta n with
          | .at u off => u == w.uid && w.spanInBank off n bank
          | _ => false
      ((r.pieces ix).any fun p => hits p.src p.sd p.n || (!r.toQueue && hits p.dst p.dd p.n))
        || (y.e == .collective && (hits r.src 0 r.len || hits r.dst 0 r.len))

/-- Is a bank in use by an open queue or an engine. -/
def State.bankBusy (s : State) (w : Wg) (bank : Nat) : Bool :=
  (w.queues.any fun q => q.opened && q.bank == bank)
    || s.ctxs.any fun c => c.engines.any fun y => s.engineHolds c.uid y w bank

/-- A bank enters a mode, zeroed. -/
def Wg.setBank (w : Wg) (mode bank : Nat) : Wg :=
  { w with bankModes := spSet w.bankModes bank (BitVec.ofNat 8 mode),
           scratch := w.scratch.filter fun e => bankOf e.1 w.span != bank,
           poison := w.poison.filter fun k => bankOf (8 * k) w.span != bank }

/-- BANKMODE; no word decodes to mode 3, which the meaning answers as R199 says (DEDUCED, log 60). -/
def execBankmode (d a : SReg) (o : BankMode) (s : State) : Result :=
  s.withGroup fun g w t =>
    let x := t.sreg a.toNat
    let banks := (upFrom 0 64).filter fun b => x.getLsbD b
    let mode := bankModeCode o
    if o == .unnamed || banks.any fun b => decide (32 ≤ b) || decide (4 * w.units.length ≤ b) then s.answer g d stBadArg
    else if banks.any (s.bankBusy w) then s.answer g d stBusy
    else
      let change := banks.filter fun b => spGet w.bankModes b != BitVec.ofNat 8 mode
      let s1 := if change.any fun b => spGet w.bankModes b == 1 then s.dropCluster w.die (clusterOf w.core) else s
      (s1.modWg g.wg fun y => change.foldl (fun acc b => acc.setBank mode b) y).answer g d stOk

/-! ## Queues (R200) -/

/-- Is a role word in order: only BANK, WIDTH, PROD and CONS set, and a width there is. -/
def roleOk (x : BitVec 64) : Bool := x &&& ~~~0xF1F == 0 && field x 8 2 != 3
def roleWidth (x : BitVec 64) : Nat := 4 * 2 ^ field x 8 2
def addTeam (l : List Nat) (t : Nat) (yes : Bool) : List Nat := if yes && !l.contains t then l ++ [t] else l

/-- QOPEN (DEDUCED, log 55). -/
def execQopen (d a : SReg) (q : BitVec 4) (s : State) : Result :=
  s.withGroup fun g w t =>
    let x := t.sreg a.toNat
    let bank := field x 0 5
    let Q := w.queue q.toNat
    let ok := roleOk x && decide (bank < 4 * w.units.length) && spGet w.bankModes bank == 2
      && (if Q.opened then Q.bank == bank && Q.width == roleWidth x
          else !w.queues.any fun z => z.opened && z.bank == bank)
    if !ok then s.answer g d stBadArg
    else
      let opn : Queue := if Q.opened then Q else { Queue.init with opened := true, bank := bank, width := roleWidth x }
      let new : Queue := { opn with producers := addTeam opn.producers g.team (x.getLsbD 10),
                                    consumers := addTeam opn.consumers g.team (x.getLsbD 11) }
      (s.modWg g.wg fun y => y.modQueue q.toNat fun _ => new).answer g d stOk

/-- QCLOSE. A role word that is out of order answers BADARG: R200 gives that status to QOPEN alone and none here (DESIGN CHOICE, log 55). -/
def execQclose (d a : SReg) (q : BitVec 4) (s : State) : Result :=
  s.withGroup fun g w t =>
    let x := t.sreg a.toNat
    if !roleOk x then s.answer g d stBadArg
    else if !(w.queue q.toNat).opened then s.answer g d stNotOpen
    else
      (s.modWg g.wg fun y => y.modQueue q.toNat fun z => z.dropRoles g.team (x.getLsbD 10) (x.getLsbD 11)).answer g d
        stOk

/-- QTRY. -/
def execQtry (d : SReg) (q : BitVec 4) (s : State) : Result :=
  s.withGroup fun g w _ =>
    let Q := w.queue q.toNat
    s.answer g d
      (if !Q.opened then stNotOpen else if !Q.slots.isEmpty then stOk else if Q.producerCount == 0 then stOrphaned else stEmpty)

/-! ## Launch control (R201, R285, R293, R295) -/

/-- EVAC (R364). -/
def stEvac : BitVec 64 := statusWord 3 0
def Die.draining (d : Die) : Bool := d.dstate != 0

/-- The checks of ARM on a record and its buffer (R295). -/
def State.armOk (s : State) (c : Ctx) (die addr : Nat) : Bool :=
  addr % 64 == 0 && match s.readPlain c die addr 128 with
    | none => false
    | some x =>
      let buf := bitsOf x 512 64
      bitsOf x 0 4 == 1 && bitsOf x 8 2 == 0 && bitsOf x 320 64 == 0 && bitsOf x 448 16 == 0 && buf % 256 == 0
        && match c.hit buf 256 with
          | some h => h.kind == .plain
          | none => false

/-- ARM. -/
def execArm (d a : SReg) (i : BitVec 12) (s : State) : Result :=
  s.withGroup fun g w t =>
    let addr := (t.sreg a.toNat).toNat
    if (s.die w.die).tags.any fun x => x.tag == i.toNat then s.answer g d stBusy
    else if !s.armOk (s.ctx w.ctx) w.die addr then s.answer g d stBadArg
    else
      let u := s.nextId
      let s1 := s.accept w.ctx w.die addr .launch
      let s2 := s1.modRec u fun r => { r with tag := some i.toNat }
      (s2.modDie w.die fun x => { x with tags := x.tags ++ [{ tag := i.toNat, record := u, ctx := w.ctx }] }).answer g d stOk

/-- LAUNCH. -/
def execLaunch (d a : SReg) (s : State) : Result :=
  s.withGroup fun g w t =>
    let addr := (t.sreg a.toNat).toNat
    if !s.groupReleased g t 0xFF 3 then s.park g (.waiting .release)
    else if (s.die w.die).draining then s.answer g d stEvac
    else
      match s.doorTest (s.ctx w.ctx) w.die addr with
      | none => s.answer g d stBadArg
      | some k =>
        if 64 ≤ ((s.die w.die).deviceQueue.filter fun u => (s.record u).ctx == w.ctx).length then s.answer g d stNoSpace
        else
          let u := s.nextId
          let s1 := (s.publishCluster w.die (clusterOf w.core) 3).accept w.ctx w.die addr k
          (s1.modDie w.die fun x => { x with deviceQueue := x.deviceQueue ++ [u] }).answer g d stOk

def cancelCode : CancelLevel → Nat
  | .launch => 1 | .graph => 2 | .phase => 3 | .job => 4

/-- What CANCEL of an address at a type comes to: the record, or a status (R293); where the last workgroup's or
member's end has arrived before it, STATE (R294). -/
def State.cancelTarget (s : State) (ctx die addr ty : Nat) : Except (BitVec 64) Nat :=
  let mine := s.recs.filter fun r => r.ctx == ctx && r.die == die && r.addr == addr
  match findFirst (fun r => !r.isDone) mine with
  | some r => if kindCode r.kind != ty then .error stBadArg else if r.cancelled || r.ending then .error stState else .ok r.uid
  | none =>
    match s.readPlain (s.ctx ctx) die addr 64 with
    | none => .error stBadArg
    | some x => if !mine.isEmpty && bitsOf x 0 4 == ty && bitsOf x 8 2 == 3 then .error stState else .error stBadArg

/-- CANCEL. -/
def execCancel (d a : SReg) (l : CancelLevel) (s : State) : Result :=
  s.withGroup fun g w t =>
    match s.cancelTarget w.ctx w.die (t.sreg a.toNat).toNat (cancelCode l) with
    | .error st => s.answer g d st
    | .ok u => (s.cancelTree u).answer g d stOk

/-! ## Fault records (R204) -/

/-- Doubleword n of a record's bits. -/
def doubleword {k : Nat} (x : BitVec k) (n : Nat) : BitVec 64 := BitVec.ofNat 64 (x.toNat / 2 ^ (64 * n))

/-- A privileged instruction whose destination is pending, refused or executed (R24). -/
def State.privilegedPending (s : State) (r : Rights) (d : Nat) (f : Group → Wg → Team → State × BitVec 64 × BitVec 64) :
    Result :=
  s.withGroup fun g w t =>
    if r.allows (s.ctx w.ctx).auth then
      let x := f g w t
      (x.1.setLstat w.ctx x.2.2).pendUniform g [(d, x.2.1)]
    else ((s.countRefusal w.ctx).setLstat w.ctx stRefused).pendUniform g [(d, stRefused)]

/-- FRPT. -/
def execFrpt (d a : SReg) (c : BitVec 3) (s : State) : Result :=
  s.privilegedPending ownerOnly d.toNat fun _ w t =>
    let i := (t.sreg a.toNat).toNat
    match findFirst (fun r => r.index == i) (s.ctx w.ctx).recs with
    | none => (s, 0, stNotFound)
    | some r =>
      (s.modCtx w.ctx fun x => { x with recs := mapWhere (fun r => r.index == i) (fun r => { r with seen := true }) x.recs },
       doubleword r.bits c.toNat, stOk)

/-- FOPR. -/
def execFopr (d a : SReg) (c : BitVec 1) (s : State) : Result :=
  s.privilegedPending operatorOnly d.toNat fun _ w t =>
    let i := (t.sreg a.toNat).toNat
    match findFirst (fun r => r.index == i) (s.die w.die).opRecs with
    | none => (s, 0, stNotFound)
    | some r =>
      (s.modDie w.die fun x => { x with opRecs := mapWhere (fun r => r.index == i) (fun r => { r with seen := true }) x.opRecs },
       doubleword r.bits c.toNat, stOk)

/-! ## Contexts by handle -/

/-- The context of a partition with a handle, as an operator names it (DEDUCED, log 53). -/
def State.byHandle (s : State) (part : Nat) (h : BitVec 64) : Option Ctx :=
  findFirst (fun c => c.part == part && c.handle.toNat == h.toNat) s.ctxs
/-- The context of an owner's own world with a handle (R208, R211). -/
def State.ownHandle (s : State) (c : Ctx) (h : BitVec 64) : Option Ctx :=
  findFirst (fun x => x.part == c.part && x.world == c.world && x.handle.toNat == h.toNat) s.ctxs

/-! ## Placement (R205, R324) -/

/-- A placement descriptor as read. -/
structure Placement where
  auth : Nat
  cls : Nat
  urgent : Bool
  part : Nat
  pinq : Nat
  ring : Nat
  ringlog : Nat
  savea : Nat
  savep : Nat
  windows : List (Nat × Nat)
  deriving DecidableEq, Repr

/-- The fields of the 256 bytes. -/
def Placement.of (x : Nat) : Placement :=
  { auth := bitsOf x 0 2, cls := bitsOf x 2 2, urgent := bitsOf x 4 1 == 1, part := bitsOf x 8 5, pinq := bitsOf x 32 16,
    ring := bitsOf x 64 64, ringlog := bitsOf x 128 5, savea := bitsOf x 192 52, savep := bitsOf x 256 16,
    windows := (upFrom 0 8).map fun m => (bitsOf x (384 + 128 * m) 64, bitsOf x (448 + 128 * m) 64) }

/-- Reserved bits of the descriptor and of its window values. -/
def placementZero (x : Nat) : Bool :=
  bitsOf x 5 3 == 0 && bitsOf x 13 19 == 0 && bitsOf x 48 16 == 0 && bitsOf x 133 59 == 0 && bitsOf x 244 12 == 0
    && bitsOf x 272 112 == 0 && bitsOf x 1408 640 == 0
    && (Placement.of x).windows.all fun p =>
      (p.1 / 2) % 2 ^ 15 == 0 && p.1 / 2 ^ 52 == 0 && p.2 % 2 ^ 16 == 0 && p.2 / 2 ^ 52 == 0

/-- The checks of R324 on the fields. -/
def Placement.ok (p : Placement) : Bool :=
  p.auth != 3 && decide (p.part < 24) && decide (p.pinq ≤ 1024) && p.ring % 8 == 0 && decide (4 ≤ p.ringlog)
    && decide (p.ringlog ≤ 16)
    && (if p.auth == 1 then p.savea % 65536 == 0 && decide (48 ≤ p.savep) else p.savea == 0 && p.savep == 0)

/-- Granted windows of a descriptor. -/
def Placement.granted (p : Placement) : Nat := countWhere (fun w => w.1 % 2 == 1) p.windows
/-- Window pairs a world holds on a die of a partition (R374). -/
def State.worldPairs (s : State) (part : Nat) (world : BitVec 16) : Nat :=
  s.ctxs.foldl (fun acc c => acc + if c.part == part && c.world == world then countWhere c.windowOn (upFrom 0 8) else 0) 0

/-- World of a context by its authority (R14). -/
def State.worldFor (s : State) (auth part : Nat) : BitVec 16 :=
  if auth == 0 then worldOperator else if auth == 1 then (s.part part).world else worldAuditor

/-- Writes a placed context (R14, R324). -/
def State.placeCtx (s : State) (handle : BitVec 32) (p : Placement) : State :=
  let regs := (mapIdxFrom (fun m w => [(0x60 + 2 * m, BitVec.ofNat 64 w.1), (0x61 + 2 * m, BitVec.ofNat 64 w.2)]) 0 p.windows).flatten
  let home := ((s.part p.part).phys 0).getD 0
  let c : Ctx :=
    { Ctx.absent with uid := s.nextId, handle := handle, auth := p.auth, world := s.worldFor p.auth p.part, part := p.part,
                      cls := p.cls, urgent := p.urgent, pinq := p.pinq, ring := p.ring, ringlog := p.ringlog,
                      savea := p.savea, savep := p.savep, homeDie := home, placedDie := home,
                      regs := regs.foldl (fun m x => spSet m x.1 x.2) [] }
  { s with ctxs := s.ctxs ++ [c], nextId := s.nextId + 1 }

/-- Is a handle taken in a partition: bits [9:0] agree with a placed context's (R356). -/
def State.handleTaken (s : State) (part handle : Nat) : Bool :=
  s.ctxs.any fun c => c.part == part && c.handle.toNat % 1024 == handle % 1024

/-- The status of placing a context as a descriptor says (R205, R324, R364, R371, R374). -/
def State.placeStatus (s : State) (handle x : Nat) : BitVec 64 :=
  let p := Placement.of x
  if !p.ok || !placementZero x || !(s.part p.part).configured then stBadArg
  else if s.handleTaken p.part handle then stBadHandle
  else if (s.diesOf p.part).any fun d => (s.die d).draining then stEvac
  else if p.auth == 1 && (s.part p.part).ifstate == .error then stState
  else if 32 < s.worldPairs p.part (s.worldFor p.auth p.part) + p.granted then stNoSpace
  else stOk

/-- PLACE: the descriptor is read through the operator's own ranges. A handle above 32 bits names no context that could be placed:
BADARG, where R205 gives no status for it (DESIGN CHOICE, log 53). -/
def execPlace (d a b : SReg) (s : State) : Result :=
  s.privileged operatorOnly d.toNat fun g w t =>
    let h := t.sreg a.toNat
    let va := (t.sreg b.toNat).toNat
    match (if va % 256 == 0 && decide (h.toNat < 2 ^ 32) then s.readPlain (s.ctx w.ctx) w.die va 256 else none) with
    | none => s.status g w d.toNat stBadArg
    | some x =>
      let st := s.placeStatus h.toNat x
      (if st == stOk then s.placeCtx (h.setWidth 32) (Placement.of x) else s).status g w d.toNat st

/-! ## Pre-emption (R206, R297, R298, R339) -/

/-- Does the CORES field of a launch name a core. -/
def State.namesCore (s : State) (r : Rec) (core : Nat) : Bool :=
  match r.found, s.readPlain (s.ctx r.ctx) r.die r.addr 128 with
  | some e, _ => e.cores.contains core
  | none, some x => (s.presentCores r.die (bitsOf x 256 64)).contains core
  | none, none => false
/-- The launches of an urgent context that may start on a core, in the front end's order (R298); none of a context whose launches are
held as accepted (R371, R323; DEDUCED, log 54). -/
def State.urgentOrder (s : State) (c die core : Nat) : List Nat :=
  let ls := s.recs.filter fun r => r.ctx == c && r.die == die && r.kind == .launch && s.reached r.uid && r.urgentCore.isNone
    && s.mayRun (s.ctx c) die && s.namesCore r core
  (sortBy (fun a b => decide (a.order ≤ b.order)) ls).map Rec.uid
/-- The first of them whose examination passes; it is read under an acquire, and one that fails completes BADARG (R306). -/
def State.urgentLaunch (s : State) : List Nat → State × Option (Nat × Examined)
  | [] => (s, none)
  | u :: rest =>
    let s1 := (s.launchAcquire (s.record u).die).takeFrom u
    match s1.examined u with
    | none => (s1.finishRec u codeBadArg).urgentLaunch rest
    | some e => (s1.modRec u fun r => r.keep e, some (u, e))

/-- Is the urgent partition of a core in use. -/
def State.urgentBusy (s : State) (die core : Nat) : Bool :=
  (s.die die).preempts.any (fun p => p.core == core) || s.wgs.any fun w => w.die == die && w.core == core && w.urgent

/-- Scratch units of a cluster that pre-emptions accepted there hold for urgent workgroups still to be placed (R298). -/
def State.reserved (s : State) (die cl : Nat) : Nat :=
  (s.die die).preempts.foldl (fun acc p =>
    if clusterOf p.core == cl && (s.record p.record).placed.isEmpty then
      acc + match s.examined p.record with
        | some e => e.header.units
        | none => 0
    else acc) 0
/-- Has a cluster so many free units beside those. -/
def State.unitsLeft (s : State) (die core n : Nat) : Bool :=
  decide (n + s.reserved die (clusterOf core) ≤ (s.freeUnits die (clusterOf core)).length)

/-- PREEMPT is accepted: the victim's context is frozen when every workgroup of it lies on the core. -/
def State.acceptPreempt (s : State) (die core victim urgent u : Nat) : State :=
  let s1 := s.countEvent (s.ctx victim).part 10 1
  let s2 := s1.modRec u fun r => { r with urgentCore := some core }
  let p : Preempt := { die := die, core := core, victim := victim, urgent := urgent, record := u, frozen := false }
  let s3 := s2.modDie die fun d => { d with preempts := d.preempts ++ [p] }
  if s.soleCore victim == some (die, core) then
    s3.modCtx victim fun c => { c with state := .frozen, bound := some (die, core) }
  else s3

/-- The status of PREEMPT, with OK the urgent launch; the state after the examination of the launches it looks at. -/
def State.preemptCheck (s : State) (part die core : Nat) (ha hb : BitVec 64) : State × Except (BitVec 64) (Nat × Nat × Nat) :=
  match s.byHandle part ha, s.byHandle part hb with
  | some v, some x =>
    if s.urgentBusy die core then (s, .error stBusy)
    else if !(s.wgsOn v.uid die core).any (fun w => !w.frozen && !w.urgent) || !x.urgent then (s, .error stState)
    else
      match s.urgentLaunch (s.urgentOrder x.uid die core) with
      | (s1, none) => (s1, .error stState)
      | (s1, some (u, e)) =>
        (s1, if s1.fits die core e.header true && s1.unitsLeft die core e.header.units then .ok (v.uid, x.uid, u) else .error stNoSpace)
  | _, _ => (s, .error stBadHandle)

/-- PREEMPT. -/
def execPreempt (d a b : SReg) (c : BitVec 6) (s : State) : Result :=
  s.privileged operatorOnly d.toNat fun g w t =>
    match s.preemptCheck (s.ctx w.ctx).part w.die c.toNat (t.sreg a.toNat) (t.sreg b.toNat) with
    | (s1, .error st) => s1.status g w d.toNat st
    | (s1, .ok (v, x, u)) => (s1.acceptPreempt w.die c.toNat v x u).status g w d.toNat stOk

/-! ## Migration (R207, R340 to R343) -/

/-- The core a context has now: that of its workgroups, or the one it is bound to. -/
def State.coreNow (s : State) (c : Ctx) : Option (Nat × Nat) := if c.state == .saved then c.bound else s.soleCore c.uid

/-- Does the owner's placement policy allow a target (R340). -/
def State.policyAllows (s : State) (c : Ctx) (die core : Nat) : Bool :=
  match field (c.reg 0x071) 0 2 with
  | 0 => true
  | 1 => die == c.placedDie
  | _ =>
    match s.coreNow c with
    | some x => x == (die, core)
    | none => c.state != .saved

/-- The target that sB names: a logical core and a logical die of the partition. -/
def State.targetOf (s : State) (part : Nat) (x : BitVec 64) : Option (Nat × Nat) :=
  match (s.part part).phys (field x 8 8) with
  | some die => if s.coreExists die (field x 0 8) then some (die, field x 0 8) else none
  | none => none
/-- The physical die of the target as the policy sees it, a logical die that does not exist being no die. -/
def State.targetDie (s : State) (part : Nat) (x : BitVec 64) : Nat := ((s.part part).phys (field x 8 8)).getD 31

/-- A refusal by the placement policy: it counts (R18, R207). -/
def State.refusePolicy (s : State) (g : Group) (w : Wg) (d : Nat) : State :=
  (s.countRefusal w.ctx).status g w d stPolicy

/-- The checks that MIGRATE and RESUME share, up to the state of the context (DEDUCED, log 54). -/
def State.moveCheck (s : State) (self : Nat) (part : Nat) (h x : BitVec 64) : Except (BitVec 64) (Ctx × Nat × Nat) :=
  match s.byHandle part h with
  | none => .error stBadHandle
  | some c =>
    if field x 16 48 != 0 then .error stBadArg
    else if !s.policyAllows c (s.targetDie part x) (field x 0 8) then .error stPolicy
    else
      match s.targetOf part x with
      | none => .error stBadArg
      | some (die, core) =>
        if (s.die die).draining then .error stEvac
        else if c.uid == self then .error stState
        else .ok (c, die, core)

/-- The image a saved context has. -/
def Ctx.imageWgs (c : Ctx) : List Wg :=
  match c.image with
  | some i => i.wgs
  | none => []
def Ctx.imageLog (c : Ctx) : Nat :=
  match c.image with
  | some i => i.slog.length
  | none => 0

/-- May MIGRATE act on a context as it stands (R323, R341). -/
def State.migratable (s : State) (c : Ctx) : Bool :=
  c.auth == 1 && (c.state == .saved || ((c.state == .running || c.state == .frozen) && (s.soleCore c.uid).isSome))

/-- Has a target room for a context's workgroups and log entries (R342 step 3, R298). -/
def State.hasRoom (s : State) (die core : Nat) (ws : List Wg) (log : Nat) : Bool :=
  s.roomFor die core ws log && s.unitsLeft die core (ws.foldl (fun acc w => acc + w.units.length) 0)

/-- Does the thread that asked for a move still stand there. -/
def State.moverWaits (s : State) (m : Move) : Bool :=
  (s.wg m.wg).uid == m.wg && ((s.wg m.wg).team m.team).threads.any fun th => !th.exited && th.pc == m.pc
/-- The context that a group moves: its MIGRATE has passed the checks. -/
def State.movedBy (s : State) (g : Group) : Option (Nat × Move) :=
  s.ctxs.findSome? fun c => match c.moving with
    | some m => if m.wg == g.wg && m.team == g.team && m.pc == g.pc then some (c.uid, m) else none
    | none => none

/-- MIGRATE from its fifth step on: Percale waits until every result outstanding in the frozen context has returned, and then seals it
(R339, R342). -/
def State.migrateOn (s : State) (g : Group) (w : Wg) (d c : Nat) (m : Move) : State :=
  let s0 := s.finishAtomics c
  if s0.unfinished c then s0.park g (.waiting (.service false))
  else (((s0.countEvent (s0.ctx c).part 11 1).sealCtx c (some (m.die, m.core))).wakePercale).status g w d stOk

/-- MIGRATE (R342): one that has passed its checks goes on; another MIGRATE of the context meanwhile finds its state not to allow the
move (DEDUCED, log 54). -/
def execMigrate (d a b : SReg) (s : State) : Result :=
  s.privileged operatorOnly d.toNat fun g w t =>
    match s.movedBy g with
    | some (c, m) => s.migrateOn g w d.toNat c m
    | none =>
    match s.moveCheck w.ctx (s.ctx w.ctx).part (t.sreg a.toNat) (t.sreg b.toNat) with
    | .error st => if st == stPolicy then s.refusePolicy g w d.toNat else s.status g w d.toNat st
    | .ok (c, die, core) =>
      if c.moving.any s.moverWaits || !s.migratable c then s.status g w d.toNat stState
      else
        let saved := c.state == .saved
        let ws := if saved then c.imageWgs else s.wgs.filter fun y => y.ctx == c.uid
        let log := if saved then c.imageLog else (s.slog.filter fun e => e.ctx == c.uid).length
        if !s.hasRoom die core ws log || (!saved && !s.saveMapped c) then s.status g w d.toNat stNoSpace
        else if saved then
          ((s.countEvent c.part 11 1).modCtx c.uid fun x => { x with bound := some (die, core) }).status g w d.toNat stOk
        else
          let m : Move := { wg := g.wg, team := g.team, pc := g.pc, die := die, core := core }
          (((s.freezeCtx c.uid).freeVictim c.uid).modCtx c.uid fun x => { x with moving := some m }).migrateOn g w d.toNat c.uid m

/-- An image whose digest or generation does not match: it is scrubbed and the launches end (R343). -/
def State.badImage (s : State) (c : Nat) : State :=
  let s1 := (s.endLaunches c).scrubImage c
  (s1.ownerRecord c { code := 0x0E }).modCtx c fun x => { x with state := .idle, bound := none }

/-- RESUME. -/
def execResume (d a b : SReg) (s : State) : Result :=
  s.privileged operatorOnly d.toNat fun g w t =>
    match s.moveCheck w.ctx (s.ctx w.ctx).part (t.sreg a.toNat) (t.sreg b.toNat) with
    | .error st => if st == stPolicy then s.refusePolicy g w d.toNat else s.status g w d.toNat st
    | .ok (c, die, core) =>
      match c.state, c.image with
      | .saved, some i =>
        if !s.imageSound i then (s.badImage c.uid).status g w d.toNat stState
        else if !s.hasRoom die core i.wgs i.slog.length then s.status g w d.toNat stNoSpace
        else (s.unsealCtx c.uid die core i).status g w d.toNat stOk
      | .frozen, _ =>
        if c.moving.any s.moverWaits then s.status g w d.toNat stState
        else
        let ws := s.wgs.filter fun y => y.ctx == c.uid
        let rest : State := { s with wgs := s.wgs.filter (fun y => y.ctx != c.uid), slog := s.slog.filter fun e => e.ctx != c.uid }
        if (s.soleCore c.uid).isNone then s.status g w d.toNat stState
        else if !rest.hasRoom die core ws (s.slog.filter fun e => e.ctx == c.uid).length then s.status g w d.toNat stNoSpace
        else
          let s0 := s.finishAtomics c.uid
          if s0.unfinished c.uid then s0.park g (.waiting (.service false))
          else ((s0.moveFrozen c.uid die core).wakePercale).status g w d.toNat stOk
      | _, _ => s.status g w d.toNat stState

/-! ## CRESET and MAPSYNC (R208, R209) -/

/-- Have the cancels of a context that is reset completed (R294): none of its workgroups runs any longer, and no record's
completion is still to be written. Frozen and saved workgroups fetch nothing, and end with the reset (DEDUCED, log 52). -/
def State.resetDue (s : State) (c : Nat) : Bool :=
  !(s.wgs.any fun w => w.ctx == c && !w.frozen) && !s.recs.any fun r => r.ctx == c && r.state == 2 && r.ending
/-- A context resets itself: its records are cancelled, none starts any more, and the threads that asked for it leave (R208,
R294). -/
def State.resetSelf (s : State) (g : Group) (w : Wg) (t : Team) : State :=
  ((s.cancelCtx w.ctx).modCtx w.ctx fun x => { x with resetting := true }).withoutWord g.wg g.team (g.live t)

/-- The resets of contexts that have reset themselves follow when their cancels have completed; whoever waits on a reset looks
again (R208, R294). -/
def State.settleResets (s : State) : State :=
  let due := (s.ctxs.filter fun c => c.resetting && s.resetDue c.uid).map Ctx.uid
  (due.foldl State.resetCtx s).wakePercale

/-- CRESET: an owner names contexts of its own world only. It returns when the cancels have completed and the scrub is done; one that
names the issuing context does not return: its threads leave, and the reset follows their context's last workgroup (R208, R294)
(DEDUCED, log 52). -/
def execCreset (d a : SReg) (s : State) : Result :=
  s.privileged operatorOwner d.toNat fun g w t =>
    let me := s.ctx w.ctx
    let h := t.sreg a.toNat
    match (if me.auth == 1 then s.ownHandle me h else s.byHandle me.part h) with
    | none => s.status g w d.toNat stBadHandle
    | some c =>
      let s1 := s.cancelCtx c.uid
      if c.uid == w.ctx then s.resetSelf g w t
      else if !s1.resetDue c.uid then s1.park g (.waiting (.service false))
      else ((s1.resetCtx c.uid).wakePercale).status g w d.toNat stOk

/-- UNPLACE: CRESET, then the bindings end (R205). -/
def execUnplace (d a : SReg) (s : State) : Result :=
  s.privileged operatorOnly d.toNat fun g w t =>
    match s.byHandle (s.ctx w.ctx).part (t.sreg a.toNat) with
    | none => s.status g w d.toNat stBadHandle
    | some c =>
      if c.uid == w.ctx then s.status g w d.toNat stState
      else
        let s1 := s.cancelCtx c.uid
        if !s1.resetDue c.uid then s1.park g (.waiting (.service false))
        else
          let s2 := s1.resetCtx c.uid
          let s3 : State := { s2 with ctxs := s2.ctxs.filter fun x => x.uid != c.uid }
          (s3.wakePercale).status g w d.toNat stOk

/-- MAPSYNC. -/
def execMapsync (d a b : SReg) (s : State) : Result :=
  s.privileged operatorOnly d.toNat fun g w t =>
    let lo := (t.sreg a.toNat).toNat
    let n := (t.sreg b.toNat).toNat
    if (s.die w.die).draining then s.status g w d.toNat stEvac
    else if n == 0 then s.status g w d.toNat stOk
    else if 2 ^ 36 < lo + n then s.status g w d.toNat stBadArg
    else if s.publishWaits w.die lo (lo + n) then s.park g (.waiting (.service false))
    else
      let r := s.publish w.die lo (lo + n)
      r.1.status g w d.toNat r.2

/-! ## Counters (R210) -/

/-- The counter of an index, if there is one. -/
def Part.counter (p : Part) (i : Nat) : Option (BitVec 64) :=
  if i == 0 then some p.refcnt
  else if (1 ≤ i && i ≤ 5) || (0x010 ≤ i && i ≤ 0x01F) then some (spGet p.counters i) else none

/-- CNTRD. -/
def execCntrd (d : SReg) (i : BitVec 12) (s : State) : Result :=
  s.privileged auditorOnly d.toNat fun g w _ =>
    match (s.part (s.ctx w.ctx).part).counter i.toNat with
    | some x => ((s.modTeam g.wg g.team fun y => y.setS d.toNat x).setLstat w.ctx stOk).goOn g
    | none => s.raiseGroup g.wg g.team g.lanes (plainTrap 0x01 0)

/-- CNTCFG. -/
def execCntcfg (d a b : SReg) (s : State) : Result :=
  s.privileged auditorOnly d.toNat fun g w t =>
    let i := (t.sreg a.toNat).toNat
    let e := (t.sreg b.toNat).toNat
    if i < 0x010 || 0x01F < i || 11 < e then s.status g w d.toNat stBadArg
    else
      (s.modPart (s.ctx w.ctx).part fun p =>
        { p with counters := spSet p.counters i 0, events := spSet p.events i (BitVec.ofNat 8 e) }).status g w d.toNat stOk

/-! ## DBG (R211, R221) -/

/-- The bits of DBGSEL. -/
def dbgselBits : BitVec 64 := 0xFF01FFFF

/-- An instruction of an owner on a context of its own world. -/
def State.debug (s : State) (d a : SReg) (f : Group → Wg → Team → Ctx → State) : Result :=
  s.privileged ownerOnly d.toNat fun g w t =>
    match s.ownHandle (s.ctx w.ctx) (t.sreg a.toNat) with
    | none => s.status g w d.toNat stBadHandle
    | some c => f g w t c

/-- DBG.halt. -/
def execDbgHalt (d a _b : SReg) (s : State) : Result :=
  s.debug d a fun g w _ c => (s.modCtx c.uid fun x => { x with halted := true }).status g w d.toNat stOk
/-- DBG.cont. -/
def execDbgCont (d a _b : SReg) (s : State) : Result :=
  s.debug d a fun g w _ c =>
    ((s.modCtx c.uid fun x => { x with halted := false, steps := [] }).wakePercale).status g w d.toNat stOk
/-- DBG.rdsel. -/
def execDbgRdsel (d a _b : SReg) (s : State) : Result :=
  s.debug d a fun g w _ c =>
    ((s.modTeam g.wg g.team fun x => x.setS d.toNat (c.reg 0x006)).setLstat w.ctx stOk).goOn g

/-- The workgroup and team a selector names. -/
def State.selected (s : State) (c : Ctx) (x : BitVec 64) : Option (Wg × Nat) :=
  match findFirst (fun w => w.ctx == c.uid && w.lcore == field x 0 6 && w.ldie == field x 24 8) s.wgs with
  | some w => if field x 6 4 < w.teams.length then some (w, field x 6 4) else none
  | none => none
/-- The sub-group a selector names: by its ordinal, or the team's candidate (R221). Where no path of the team is ready R217 gives no
candidate, and R221 does not say what the default names: here the path of lowest program counter (DESIGN CHOICE, log 43). -/
def State.subGroupOf (s : State) (w : Wg) (ti : Nat) (x : BitVec 64) : Option Nat :=
  let t := w.team ti
  if x.getLsbD 16 then (t.pathPcs.drop (field x 10 6)).head?
  else match s.candidate w t with
    | some pc => some pc
    | none => t.pathPcs.head?

/-- The step request of a group that has asked for one. -/
def Ctx.askedBy (c : Ctx) (g : Group) : Option StepReq :=
  findFirst (fun r => r.askWg == g.wg && r.askTeam == g.team && r.askPc == g.pc) c.steps
/-- BUSY with reason 0x01: the stepped instruction parked. -/
def stParked : BitVec 64 := statusWord 4 1

/-- The group's request goes on, or its steps are done and it gets its status. -/
def State.stepAnswer (s : State) (g : Group) (w : Wg) (d : Nat) (c : Ctx) (r : StepReq) : State :=
  let v := s.stepView r
  if v.groups.isEmpty then
    (s.modCtx c.uid fun x => { x with steps := x.steps.filter fun y => y != r }).status g w d (if v.parked then stParked else stOk)
  else (s.modCtx c.uid fun x => { x with steps := mapWhere (fun y => y == r) (fun _ => v) x.steps }).park g (.waiting .percale)

/-- A new request: the sub-groups as they stand. -/
def State.stepAsk (s : State) (g : Group) (w : Wg) (d : Nat) (c : Ctx) (x : BitVec 64) (u : Wg) (ti : Nat)
    (pcs : List Nat) : State :=
  let r : StepReq := { askWg := g.wg, askTeam := g.team, askPc := g.pc, wg := u.uid, team := ti,
                       groups := pcs.map fun n => (BitVec.ofNat 64 n, (u.team ti).subGroup (BitVec.ofNat 64 n)),
                       issued := none, parked := false }
  let s1 := s.modCtx c.uid fun y => { y with regs := spSet y.regs 0x006 (x &&& dbgselBits), steps := y.steps ++ [r] }
  s1.stepAnswer g w d (s1.ctx c.uid) r

/-- DBG.step and DBG.stepall (DEDUCED, log 43). -/
def State.dbgSteps (s : State) (d a b : SReg) (all : Bool) : Result :=
  s.debug d a fun g w t c =>
    let x := t.sreg b.toNat
    match c.askedBy g with
    | some r => s.stepAnswer g w d.toNat c r
    | none =>
      if !c.halted then s.status g w d.toNat stState
      else
        match s.selected c x with
        | none => s.status g w d.toNat stBadArg
        | some (u, ti) =>
          if all then
            if (u.team ti).pathPcs.isEmpty then s.status g w d.toNat stBadArg
            else s.stepAsk g w d.toNat c x u ti (u.team ti).pathPcs
          else
            match s.subGroupOf u ti x with
            | none => s.status g w d.toNat stBadArg
            | some pc => s.stepAsk g w d.toNat c x u ti [pc]

/-- DBG.step. -/
def execDbgStep (d a b : SReg) (s : State) : Result := s.dbgSteps d a b false
/-- DBG.stepall. -/
def execDbgStepall (d a b : SReg) (s : State) : Result := s.dbgSteps d a b true

/-! ## LDK (R212, R318, R319) -/

/-- LDK. -/
def execLdk (d a : SReg) (p : BitVec 1) (s : State) : Result :=
  s.privileged ownerOnly d.toNat fun g w t =>
    let c := s.ctx w.ctx
    let pc := (t.sreg a.toNat).toNat
    let plan := s.plan c w.die (s.record w.launch) pc
    let n := (g.live t).length
    if pc % 4 != 0 || !c.inCode pc 4 || !callable plan.listed pc then s.status g w d.toNat stBadArg
    else if !plan.missing.isEmpty then
      (s.missRecords w g.team (lowestLane g.lanes) n plan []).park g (.waiting (.fetch g.id plan.missingPages))
    else if plan.waits then s.park g (.waiting .percale)
    else
      match plan.foreign, plan.poisoned with
      | some (i, ia), _ =>
        (s.fetchRecords w g.team (lowestLane g.lanes) 0x08 2 (plan.base + 4 * i) ia n true).status g w
          d.toNat (statusWord 6 1)
      | none, some (i, ia) =>
        (s.dataError w.ctx w.die 3 (ia / 65536) n
          (OwnerInfo.place (fetchPoison plan (lowestLane g.lanes) i ia) w g.team)).withoutWord g.wg g.team (g.live t)
      | none, none =>
        let s1 := s.translateAt w t plan pc
        if p == 0 then s1.status g w d.toNat stOk
        else
          match s1.pinFor w t plan.base 0 none with
          | some s2 => s2.status g w d.toNat stOk
          | none => s1.status g w d.toNat stNoSpace

end Sys2Proof.Machine
end

