-- ==== Sys2Proof/Machine/Arrivals.lean ====
section
/-!
DEFINITION. Further steps of the device inside a core and at the memory side: results, verdicts, commits, traps, rendezvous,
held accesses, the side log, translation, blocks, queues, waits, engines and acknowledgements. Each says when it can
happen and what it does; named where it cannot, it is refused.
-/
namespace Sys2Proof.Machine

/-- A step the device takes by itself: it needs power and its occasion. -/
def State.internal (s : State) (ok : Bool) (f : Unit → State) : Result :=
  if !s.powered then .fault .poweredOff else if ok then .next (f ()) else .refused .noOccasion

/-- A step the outside world takes: it needs power. -/
def State.outside (s : State) (f : Unit → State) : Result := if !s.powered then .fault .poweredOff else .next (f ())

/-- Is a workgroup resident and not frozen, and does it have the team. -/
def State.active (s : State) (u ti : Nat) : Bool :=
  (s.wg u).uid == u && u != 0 && !(s.wg u).frozen && decide (ti < (s.wg u).teams.length)

/-! ## Results (R28) -/

/-- Does a team hold the results of an issue, all of them formed: they return to all threads of the group together (R219). -/
def Team.hasReady (t : Team) (id : Nat) : Bool :=
  let us := t.uouts.filter fun o => o.id == id
  let ts := t.threads.flatMap fun th => th.outs.filter fun o => o.id == id
  !(us.isEmpty && ts.isEmpty) && us.all UOut.ready && ts.all Out.ready
/-- Does any team, frozen ones included, and is no part of the issue still to be performed: its results return together, but for
those of threads that are held on PAGE or have faulted (R219). -/
def State.hasReady (s : State) (id : Nat) : Bool :=
  (s.wgs.any fun w => w.teams.any fun t => t.hasReady id)
    && !s.accs.any fun a => a.id == id && !a.discarded && a.lanes.any fun x => x.verdict != .page

/-- The results of an issue return to their registers; frozen ones included (R13, R297). -/
def State.returnResult (s : State) (id : Nat) : State :=
  let back (w : Wg) : Wg := { w with teams := w.teams.map fun t => t.returnOuts id }
  let s1 : State := { s with wgs := s.wgs.map back }
  s1.wakeAllReleases

/-- RESULT_RETURN: every formed result of the issue returns. -/
def execResultReturn (id : Nat) (s : State) : Result := s.internal (s.hasReady id) fun _ => s.returnResult id

/-! ## Accesses (R125, R126, R313) -/

/-- Has the memory side an answer for a lane that waits. -/
def State.answered (s : State) (a : Access) : Bool :=
  a.lanes.any fun x => x.verdict == .waiting && s.laneVerdict (s.wg a.wg) a.kind x != .waiting
/-- An access number, or one that serves no lane. -/
def State.acc (s : State) (id : Nat) : Access :=
  (s.acc? id).getD { id := 0, wg := 0, team := 0, pc := 0, kind := .load, bytes := 0, lanes := [], dest := 0, uniform := false,
                     hint := .normal, order := .rlx, colour := 0, limit := 0, group := 0, discarded := false, again := false }

/-- VERDICT_ARRIVAL: the region goes on, or, where pre-emption has discarded it, a PAGE verdict still writes its records. -/
def execVerdictArrival (id : Nat) (s : State) : Result :=
  s.internal (s.answered (s.acc id)) fun _ =>
    (if (s.acc id).discarded then s.lateVerdicts (s.acc id) else s.verdicts (s.acc id)).wakePercale

/-- Is every verdict of an access in, and some lane to be performed. -/
def State.commits (s : State) (a : Access) : Bool :=
  !a.discarded && a.lanes.any (fun x => s.performable a x) && !a.lanes.any fun x => x.verdict == .waiting

/-- REGION_COMMIT. -/
def execRegionCommit (id : Nat) (s : State) : Result :=
  s.internal (s.commits (s.acc id)) fun _ => (s.commit (s.acc id)).wakePercale

/-! ## Traps (R203) -/

/-- The trap a thread has raised, all its results having returned, and none of the same instruction due in a lower lane
(R47). -/
def State.trapDue (s : State) (u ti l : Nat) : Option TrapInfo :=
  match (((s.wg u).team ti).thread l).status with
  | .trapping k => if ((s.wg u).team ti).receives l && s.active u ti then some k else none
  | _ => none

/-- TRAP_DELIVERY. -/
def execTrapDelivery (wg team lane : Nat) (s : State) : Result :=
  match s.trapDue wg team lane with
  | some k => s.internal true fun _ => s.deliver wg team lane k
  | none => s.internal false fun _ => s

/-! ## Rendezvous (R36, R115) -/

/-- The instruction at a program counter of a team, as its translation holds it. -/
def State.instrAt (s : State) (w : Wg) (t : Team) (pc : BitVec 64) : Option Instr :=
  match s.fetchAt w t pc with
  | some (x, 0) => (decode x).instr?
  | _ => none

/-- The operation that a member issued (R78). -/
def Meeting.op? (k : Meeting) : Option LaneOp := (decode k.word).instr?.bind (laneOpOf k.order.order)

/-- The state after the last arrival, where it has come: the members are those that the first arrival began with (R36; DEDUCED,
log 35), and each executes the instruction as it issued it. -/
def State.rendezvous (s : State) (u ti : Nat) (pc : BitVec 64) : Option State :=
  let t := (s.wg u).team ti
  match t.meetingAt pc with
  | none => none
  | some k =>
    if !s.active u ti || !t.allThere k.mask pc then none
    else
      match (decode k.word).instr?.bind collectiveOf with
      | some c => some (s.collectiveComplete u ti pc k c)
      | none => k.op?.map fun op => s.crossComplete u ti pc k fun q => q.op?.getD op

/-- A step whose occasion and effect are found together. -/
def State.found (s : State) (o : Option State) : Result :=
  match o with
  | some s1 => s.internal true fun _ => s1
  | none => s.internal false fun _ => s

/-- RENDEZVOUS_COMPLETE. -/
def execRendezvousComplete (wg team : Nat) (pc : BitVec 64) (s : State) : Result :=
  s.found ((s.rendezvous wg team pc).map State.wakePercale)

/-! ## Held accesses, fetches and scratch (R126, R135) -/

/-- Is a lane's part of an access held on a page that is published now. -/
def State.unheld (s : State) (a : Access) (x : LaneAcc) : Bool :=
  x.verdict == .page && s.laneVerdict (s.wg a.wg) a.kind x != .page

/-- The plan that a thread held on a fetch waits for: of LDK's function, or of its own. -/
def State.heldPlan (s : State) (w : Wg) (t : Team) (th : Thread) : Plan :=
  let at_ (pc : Nat) : Plan := s.plan (s.ctx w.ctx) w.die (s.record w.launch) pc
  match s.instrAt w t th.pc with
  | some (.ldk _ a _) => at_ (t.sreg a.toNat).toNat
  | _ => at_ th.pc.toNat

/-- Can a thread that waits under an issue number issue again: an LDK whose code is published, or an access whose scratch is
resident. A thread held on its own fetch goes on when Twill has translated (R126). -/
def State.waitEnds (s : State) (w : Wg) (t : Team) (id : Nat) (th : Thread) : Bool :=
  match th.status with
  | .waiting (.fetch i _) => i == id && (s.fetchAt w t th.pc).isSome && (s.heldPlan w t th).open_
  | .waiting (.scratch i g) => i == id && s.wgs.any fun y => y.launch == w.launch && y.wgid == g
  | _ => false

/-- Does a translation that a thread waits for meet PAGE on other pages than when it was tried last, one of those having been
published since (R126). -/
def Plan.moved (p : Plan) (pages : List Nat) : Bool := !p.missing.isEmpty && pages.any fun n => !p.missingPages.contains n
/-- Is a thread held so, under an issue number. -/
def State.heldOn (s : State) (w : Wg) (t : Team) (id : Nat) (th : Thread) : Bool :=
  match th.status with
  | .waiting (.fetch i ps) => i == id && (s.heldPlan w t th).moved ps
  | _ => false

/-- Is anything held under an issue number that can be tried again. -/
def State.canReissue (s : State) (id : Nat) : Bool :=
  ((s.acc id).lanes.any (s.unheld (s.acc id)))
    || s.wgs.any fun w => !w.frozen && w.teams.any fun t => t.threads.any fun th => s.waitEnds w t id th || s.heldOn w t id th

/-- A translation that threads wait for under an issue number is tried again and meets PAGE: the pages it has not met before write
their records, and the threads wait on (R126). -/
def State.refetch (s : State) (id : Nat) : State :=
  let on (w : Wg) (ti : Nat) (t : Team) : List (Wg × Nat × Nat × Thread) :=
    if w.frozen then [] else (mapIdxFrom (fun l th => (w, ti, l, th)) 0 t.threads).filter fun x => s.heldOn w t id x.2.2.2
  match (s.wgs.flatMap fun w => (mapIdxFrom (on w) 0 w.teams).flatten) with
  | [] => s
  | (w, ti, l, th) :: rest =>
    let p := s.heldPlan w (w.team ti) th
    let known := match th.status with
      | .waiting (.fetch _ ps) => ps
      | _ => []
    let back (x : Thread) : Thread :=
      match x.status with
      | .waiting (.fetch i _) => if i == id then { x with status := .waiting (.fetch i p.missingPages) } else x
      | _ => x
    let s1 := s.missRecords w ti l (1 + rest.length) p known
    { s1 with wgs := s1.wgs.map fun y => if y.frozen then y else y.mapThreads fun _ x => back x }

/-- What is held under an issue number is tried again. -/
def State.reissue (s : State) (id : Nat) : State :=
  let a := s.acc id
  let free := a.lanes.filter (s.unheld a)
  let s1 := s.modAcc id fun b =>
    { b with lanes := mapWhere (s.unheld a) (fun x => { x with verdict := .waiting }) b.lanes }
  let back (l : Nat) (th : Thread) : Thread :=
    if th.status == .held id && (a.uniform || free.any fun x => x.lane == l) then { th with status := .region id } else th
  let s2 := if free.isEmpty then s1
    else if a.again then free.foldl (fun acc x => acc.settleAgain a.wg a.team x.lane) s1
    else s1.modTeam a.wg a.team fun t => t.modLanes (BitVec.allOnes 64) back
  let go (w : Wg) (t : Team) (th : Thread) : Thread :=
    if s.waitEnds w t id th then { th with status := .running } else th
  ({ s2 with wgs := s2.wgs.map fun w => if w.frozen then w else w.mapThreads fun t th => go w t th } : State).refetch id

/-- HELD_ACCESS_REISSUE. -/
def execHeldAccessReissue (id : Nat) (s : State) : Result := s.internal (s.canReissue id) fun _ => s.reissue id

/-! ## Side log (R127, R337) -/

/-- Can an entry replay: its page is published, and reached. -/
def State.replayable (s : State) (e : SlogEntry) : Bool :=
  (s.keyOf e.home e.ia).isSome
    && s.verdict e.home e.ia (s.ctx e.ctx).world e.kind .write != .waiting
    && s.linked e.kind e.die e.home e.ia && !s.onTheWay (s.wg e.wg) e.home e.ia e.bytes

/-- The oldest entry of a core that can replay. -/
def State.nextReplay (s : State) (die core : Nat) : Option SlogEntry :=
  findFirst (fun e => e.die == die && e.core == core && s.replayable e) s.slog

/-- SIDE_LOG_REPLAY. -/
def execSideLogReplay (die core : Nat) (s : State) : Result :=
  match s.nextReplay die core with
  | some e => s.internal true fun _ => (s.replay e).wakePercale
  | none => s.internal false fun _ => s

/-! ## Translation (R126, R316, R388) -/

/-- Does a thread wait for code. -/
def Status.onFetch : Status → Bool
  | .waiting (.fetch _ _) => true
  | _ => false
/-- Threads of a team that are to execute the instruction at an address: running ones, and those held on its fetch. -/
def Team.needing (t : Team) (pc : BitVec 64) : BitVec 64 :=
  t.members (maskOf fun l => (t.thread l).pc == pc && ((t.thread l).status == .running || (t.thread l).status.onFetch))

/-- Has Twill something to do for a fetch that no translation matches: a fault to raise, records to write for threads that
meet PAGE, or words to translate. A verdict that is not in is awaited. -/
def State.twillDue (s : State) (w : Wg) (t : Team) (pc : BitVec 64) : Bool :=
  let p := s.plan (s.ctx w.ctx) w.die (s.record w.launch) pc.toNat
  !(s.ctx w.ctx).inCode pc.toNat 4 || p.open_ || (t.standing pc != 0 && !p.missing.isEmpty)
/-- Is a translation missing that threads of a team need. -/
def State.misses (s : State) (u ti : Nat) (pc : BitVec 64) : Bool :=
  s.active u ti && ((s.wg u).team ti).needing pc != 0 && (s.fetchAt (s.wg u) ((s.wg u).team ti) pc).isNone
    && s.twillDue (s.wg u) ((s.wg u).team ti) pc

/-- The issue number under which a translation of a function under an order is already held, and the pages it has met. -/
def State.heldFetch (s : State) (w : Wg) (order : JetOrder) (base : Nat) : Option (Nat × List Nat) :=
  (s.wgs.filter fun y => y.ctx == w.ctx && y.die == w.die).findSome? fun y =>
    y.teams.findSome? fun t => if t.jord != order then none else
      t.threads.findSome? fun th => match th.status with
        | .waiting (.fetch i ps) => if (s.heldPlan y t th).base == base then some (i, ps) else none
        | _ => none

/-- Threads wait for code on an unpublished page; the first that meets it writes the records. -/
def State.holdFetch (s : State) (w : Wg) (ti : Nat) (m : BitVec 64) (p : Plan) : State :=
  let wait (id : Nat) (pages : List Nat) (st : State) : State :=
    st.modLanes w.uid ti m fun _ th => { th with status := .waiting (.fetch id pages) }
  match s.heldFetch w (w.team ti).jord p.base with
  | some (id, pages) => wait id pages s
  | none => wait s.nextId p.missingPages ((s.missRecords w ti (lowestLane m) (lanesOf m).length p []).numbered)

/-- A translation is made, pinned when the header asks for it (R318), and those who wait for it go on. -/
def State.makeTranslation (s : State) (w : Wg) (ti : Nat) (m : BitVec 64) (p : Plan) (pc : Nat) : State :=
  let t := w.team ti
  let s1 := (s.translateAt w t p pc).pinLaunch w t p.base pc
  s1.modLanes w.uid ti m fun _ th => { th with status := .running }

/-- Does the cluster's cache hold the line of a function, under an order, that holds an address. -/
def State.cached (s : State) (w : Wg) (o : JetOrder) (base pc : Nat) : Bool :=
  s.trans.any fun x => x.stored && x.cached.contains (clusterOf w.core, lineOf base pc) && s.isFor w o base x

/-- What Twill does for a missing translation; a fetch of a line that the cluster's cache does not hold counts once as a miss (R316). -/
def State.twill (s : State) (u ti : Nat) (pc : BitVec 64) : State :=
  let w := s.wg u
  let t := w.team ti
  let c := s.ctx w.ctx
  let m := t.needing pc
  let p := s.plan c w.die (s.record w.launch) pc.toNat
  let s1 := if t.standing pc == 0 || s.cached w t.jord p.base pc.toNat then s else s.countEvent c.part 9 1
  if !c.inCode pc.toNat 4 then s1.raiseEach u ti (lanesOf m) (plainTrap 0x07)
  else if !p.missing.isEmpty then s1.holdFetch w ti (t.standing pc) p
  else
    match p.poisoned with
    | some (i, ia) =>
      (s1.dataError w.ctx w.die 3 (ia / 65536) (lanesOf m).length
        (OwnerInfo.place (fetchPoison p (lowestLane m) i ia) w ti)).withoutWord u ti (lanesOf m)
    | none => s1.makeTranslation w ti m p pc.toNat

/-- TWILL_TRANSLATION. -/
def execTwillTranslation (wg team : Nat) (pc : BitVec 64) (s : State) : Result :=
  s.internal (s.misses wg team pc) fun _ => (s.twill wg team pc).wakePercale

/-! ## Extended blocks (R12) -/

/-- A team that waits for a block: its turn, workgroup, team, and whether one is reserved for it. -/
def State.blockWaiters (s : State) (die core : Nat) : List (Nat × Nat × Nat × Bool) :=
  (s.wgs.filter fun w => w.die == die && w.core == core && !w.frozen).flatMap fun w =>
    (mapIdxFrom (fun ti t => (t.blockTurn, w.uid, ti, t.extReserved)) 0 w.teams).filter fun x => x.1 != 0

/-- Can a waiter have a block now: one reserved for it, or one of the pool with no earlier turn before it. -/
def State.blockFor (s : State) (ws : List (Nat × Nat × Nat × Bool)) (x : Nat × Nat × Nat × Bool) : Bool :=
  x.2.2.2 || (decide (0 < s.poolFree (s.wg x.2.1))
    && ws.all fun y => y.2.2.2 || (s.wg y.2.1).urgent != (s.wg x.2.1).urgent || decide (x.1 ≤ y.1))

/-- The waiting team of a core that receives a block. -/
def State.nextBlock (s : State) (die core : Nat) : Option (Nat × Nat) :=
  (findFirst (s.blockFor (s.blockWaiters die core)) (s.blockWaiters die core)).map fun x => (x.2.1, x.2.2.1)

/-- BLOCK_GRANT. -/
def execBlockGrant (die core : Nat) (s : State) : Result :=
  match s.nextBlock die core with
  | some (u, ti) => s.internal true fun _ => (s.modTeam u ti Team.takeBlock).wakeBlock u ti
  | none => s.internal false fun _ => s

/-! ## Queues (R144, R145) -/

/-- Does a thread wait on a queue in a way that its counts now answer. -/
def queueAnswers (q : Queue) (n : Nat) (th : Thread) : Bool :=
  match th.status with
  | .waiting (.queue k push) =>
    k == n && (!q.opened || (if push then decide (0 < q.free) else !q.slots.isEmpty || q.producerCount == 0))
  | _ => false

/-- The threads of a workgroup that a queue answers, by ascending team and lane (R220). -/
def Wg.served (w : Wg) (n : Nat) : List (Nat × Nat) :=
  ((mapIdxFrom (fun ti t => mapIdxFrom (fun l th => (ti, l, th)) 0 t.threads) 0 w.teams).flatten.filter fun x =>
    queueAnswers (w.queue n) n x.2.2).map fun x => (x.1, x.2.1)

/-- A thread that waits on a queue looks again: it pops or pushes, or waits on (R144, R145). -/
def State.serveOne (s : State) (u id : Nat) (x : Nat × Nat) : State :=
  let w := s.wg u
  let th := (w.team x.1).thread x.2
  let g : Group := { wg := u, team := x.1, lanes := 1#64 <<< x.2, pc := th.pc, id := id }
  if w.uid == 0 then s
  else
    match s.instrAt w (w.team x.1) th.pc with
    | some (.qpop d t z q) => s.popOne g w d t z q.toNat x.2
    | some (.qpush d t z q) => s.pushOne g d t z q.toNat x.2
    | _ => s.modThread u x.1 x.2 fun th => { th with status := .running }

/-- QUEUE_WAKE: the threads that the queue answers look again, by ascending team and lane (R220). Those of a halted context stay
parked (R211). -/
def execQueueWake (wg : Nat) (q : BitVec 4) (s : State) : Result :=
  let ls := (s.wg wg).served q.toNat
  s.internal (s.active wg 0 && !(s.ctx (s.wg wg).ctx).halted && !ls.isEmpty) fun _ =>
    (ls.foldl (fun acc x => acc.serveOne wg s.nextId x) s.numbered).wakePercale

/-! ## Threshold waits (R136, R137, R277) -/

/-- The cell a waiter watches, as the replica holds it; none while its page is not mapped. -/
def State.watched (s : State) (x : Waiter) : Option Nat :=
  (s.keyOf x.home x.ia).map fun k => readLE s.mem k (cellBytes x.ltype)
/-- Would a waiter pass. -/
def State.passes (s : State) (x : Waiter) : Bool :=
  match s.watched x with
  | some c => passed x.ltype c x.threshold
  | none => false

/-- A result that had not been formed is formed. -/
def Thread.formOut (th : Thread) (id : Nat) (regs : List (Nat × BitVec 32)) (p6 : Option Bool) : Thread :=
  { th with outs := mapWhere (fun o => o.id == id) (fun o => { o with ready := true, regs := regs, p6 := p6 }) th.outs }

/-- Is the cell that a waiter watches poisoned. -/
def State.cellPoisoned (s : State) (x : Waiter) : Bool :=
  match s.keyOf x.home x.ia with
  | some k => s.poisoned k (cellBytes x.ltype)
  | none => false

/-- A threshold wait ends with the cell's value and p6. -/
def State.endWait (s : State) (x : Waiter) : State :=
  let s1 : State := { s with waiters := s.waiters.filter fun y => y != x }
  let c := (s.watched x).getD 0
  (s1.modThread x.wg x.team x.lane fun th =>
    th.formOut x.id (destRegs x.dest x.bytes (thresholdValue x.ltype c)) (some (passed x.ltype c x.threshold))).wakeReleases x.wg

/-- Waiters of an issue in a running workgroup. -/
def State.waitersOf (s : State) (id : Nat) (cell : Bool) : List Waiter :=
  s.waiters.filter fun x => x.id == id && x.cell == cell && s.active x.wg x.team

/-- The record of poison in the cell that a waiter watches (R237, R333, R334). -/
def State.cellError (s : State) (here : List Waiter) : State :=
  match here with
  | [] => s
  | x :: _ =>
    s.dataError (s.wg x.wg).ctx x.home 0 (x.ia / 65536) here.length
      (OwnerInfo.place { code := 0x0E, size := sizeLog x.bytes, lane := x.lane, kind := 5, vpc := x.pc.toNat, va := x.va,
                         ia := x.ia, data := x.threshold } (s.wg x.wg) x.team)
/-- The waiters of a list by the page of their cell. -/
def waitsByPage (xs : List Waiter) : List (List Waiter) :=
  let same (x y : Waiter) : Bool := x.home == y.home && x.ia / 65536 == y.ia / 65536
  xs.foldl (fun acc x => if acc.any fun l => l.any (same x) then acc else acc ++ [xs.filter (same x)]) []
/-- Ends every wait of a list, which one issue began. A poisoned cell is not consumed: the lanes on its page count in one record, and
their threads leave (R237, R334). -/
def State.endWaits (s : State) (xs : List Waiter) : State :=
  let bad := xs.filter s.cellPoisoned
  let s1 := (xs.filter fun x => !s.cellPoisoned x).foldl State.endWait s
  let s2 := (waitsByPage bad).foldl State.cellError s1
  (bad.foldl (fun acc x => acc.withoutWord x.wg x.team [x.lane]) s2).wakePercale

/-- LDTH_CELL_CHANGE: those whose threshold is passed end; the others sleep again. -/
def execLdthCellChange (id : Nat) (s : State) : Result :=
  let xs := (s.waitersOf id true).filter fun x => !x.polling
  s.internal (!xs.isEmpty) fun _ => s.endWaits (xs.filter s.passes)

/-- Polling waiters whose time has come look again. -/
def State.poll (s : State) (xs : List Waiter) : State :=
  let at_ := xs.foldl (fun m x => max m x.nextPoll) s.time
  let s1 : State := { s with time := at_, waiters := mapWhere xs.contains (fun y => { y with nextPoll := at_ + 4000 }) s.waiters }
  s1.endWaits (s1.waiters.filter fun y => xs.any (fun x => x.id == y.id && x.lane == y.lane && x.cell == y.cell) && s1.passes y)

/-- LDTH_POLL: 4 µs after the last look. -/
def execLdthPoll (id : Nat) (s : State) : Result :=
  let xs := (s.waitersOf id true).filter fun x => x.polling
  s.internal (!xs.isEmpty) fun _ => s.poll xs

/-- Can the limit of a wait pass: it is finite and the context's counter runs. -/
def State.expires (s : State) (x : Waiter) : Bool :=
  x.limit != 2 ^ 64 - 1 && (s.ctx (s.wg x.wg).ctx).state == .running

/-- The context's cycle counter has risen by the limit of a wait. -/
def State.atLimit (s : State) (x : Waiter) : State :=
  s.modCtx (s.wg x.wg).ctx fun c => { c with cycles := if c.cycles.toNat < x.start + x.limit then BitVec.ofNat 64 (x.start + x.limit) else c.cycles }

/-- LDTH_WAIT_EXPIRY: a last look, and the wait ends; while a drain copies the cell's page there is nothing to look at. -/
def execLdthWaitExpiry (id : Nat) (s : State) : Result :=
  let xs := (s.waitersOf id true).filter fun x => s.expires x && (s.watched x).isSome
  s.internal (!xs.isEmpty) fun _ => (xs.foldl State.atLimit s).endWaits xs

/-! ## Engine waits (R196) -/

/-- An engine wait ends with the sequence count. -/
def State.endEngineWait (s : State) (x : Waiter) : State :=
  let w := s.wg x.wg
  let y := s.engFor w x.engine
  let s1 : State := { s with waiters := s.waiters.filter fun z => z != x }
  (s1.ewaitAcquire w x.engine x.threshold).readyUniform x.wg x.team x.id [(x.dest, y.seq)]

/-- EWAIT_WAKE: it ends when its condition holds, else it sleeps again. -/
def execEwaitWake (id : Nat) (s : State) : Result :=
  let xs := s.waitersOf id false
  s.internal (!xs.isEmpty) fun _ =>
    (xs.filter fun x => (s.engFor (s.wg x.wg) x.engine).waitOver x.threshold).foldl State.endEngineWait s

/-- EWAIT_WAIT_EXPIRY. -/
def execEwaitWaitExpiry (id : Nat) (s : State) : Result :=
  let xs := (s.waitersOf id false).filter s.expires
  s.internal (!xs.isEmpty) fun _ => xs.foldl (fun acc x => (acc.atLimit x).endEngineWait x) s

/-! ## Engines and acknowledgements -/

/-- ENGINE_RECORD. -/
def execEngineRecord (ctx die cluster : Nat) (e : Engine) (s : State) : Result :=
  s.found ((s.engineStep ctx e die (engineCluster e cluster)).map State.wakePercale)

/-- A write that is not performed everywhere yet, by its place. -/
def State.unackedAt (s : State) (n : Nat) : Option Unacked := (s.unacked.drop n).head?

/-- Do two writes travel in one channel: from one die to one place (R354). -/
def Unacked.alongside (x y : Unacked) : Bool := x.kind == y.kind && x.die == y.die && keyDie x.key == keyDie y.key

/-- Can the write at a place be performed at its scope now: always in the cluster; otherwise over links that carry it, and after
those sent before it in its channel (R354). -/
def State.ackable (s : State) (n : Nat) (x : Unacked) : Bool :=
  match x.kind with
  | 0 => true
  | 3 => false
  | k => !((s.unacked.take n).any fun y => y.alongside x)
    && match keyDie x.key with
      | some d => if k == 2 || d == evacDie then s.hostUp x.die else s.carries x.die d
      | none => if k == 2 then s.hostUp x.die else true

/-- A write is performed at its scope: a cluster's dirty words are written back and owned, and what travels arrives. -/
def State.acknowledge (s : State) (n : Nat) (x : Unacked) : State :=
  let s1 := if x.kind == 0 then
      (wordsOf x.key x.bytes).foldl (fun acc w =>
        if (acc.cword x.die x.cluster w).isSome then acc.writeBack x.die x.cluster w else acc) s
    else s.land x
  let s2 : State := { s1 with unacked := s1.unacked.take n ++ s1.unacked.drop (n + 1) }
  s2.wakeReleases x.wg

/-- WRITE_ACKNOWLEDGED. -/
def execWriteAcknowledged (n : Nat) (s : State) : Result :=
  match s.unackedAt n with
  | some x => s.internal (s.ackable n x) fun _ => (s.acknowledge n x).wakePercale
  | none => s.internal false fun _ => s

end Sys2Proof.Machine
end

