-- ==== Sys2Proof/Machine/Dispatching.lean ====
section
/-!
DEFINITION. Further steps of the device at the command front end and the dispatcher: ends of workgroups, completions, starts,
placements, doorbells, tagged messages, tokens and leases, priority, and the freeze of a pre-emption.
-/
namespace Sys2Proof.Machine

/-! ## Ends (R215, R262, R291) -/

/-- May a workgroup whose teams have ended go: its writes are performed at system scope, its side-log entries have
replayed and its engine records are complete (R262). -/
def State.wgOver (s : State) (u : Nat) : Bool :=
  (s.wg u).uid == u && u != 0 && (s.wg u).ended && !(s.wg u).frozen
    && !(s.unacked.any fun x => x.wg == u) && !(s.slog.any fun x => x.wg == u) && !(s.accs.any fun x => x.wg == u)
    && !((s.ctx (s.wg u).ctx).engines.any fun y => y.tails.any fun q => q.1 == u)

/-- WORKGROUP_END. -/
def execWorkgroupEnd (wg : Nat) (s : State) : Result :=
  s.internal (s.wgOver wg) fun _ =>
    let w := s.wg wg
    (((s.publishCluster w.die (clusterOf w.core) 5).wgEnded w.launch).removeWg wg).settleResets

/-- LAUNCH_COMPLETION. -/
def execLaunchCompletion (rec_ : Nat) (s : State) : Result := s.found ((s.completeDue rec_).map State.settleResets)

/-! ## Starts (R290, R292) -/

/-- What the front end does with a record that is reached: a launch, a graph or a job. With it, it takes those that reached it before
from the device queue (R285). -/
def State.startRec (s : State) (u : Nat) : Option State :=
  if !s.reached u then none
  else
    match (s.record u).kind with
    | .launch => (s.startOne u).map fun t => t.takeFrom u
    | .phase => none
    | _ => some ((s.startGroup u).takeFrom u)

/-- LAUNCH_START. -/
def execLaunchStart (rec_ : Nat) (s : State) : Result := s.found (s.startRec rec_)

/-- Can a launch's workgroup be placed on a core. -/
def State.placeable (s : State) (u core : Nat) : Bool :=
  match (s.record u).header with
  | some h => s.canPlace u core h
  | none => false

/-- Places it under the header the examination read. -/
def State.placeOn (s : State) (u core : Nat) (urgent : Bool) : State :=
  match (s.record u).header with
  | some h => s.placeWg u h core urgent
  | none => s

/-- WORKGROUP_PLACEMENT. -/
def execWorkgroupPlacement (rec_ core : Nat) (s : State) : Result :=
  s.internal (s.placeable rec_ core) fun _ => s.placeOn rec_ core false

/-- PHASE_START. -/
def execPhaseStart (rec_ : Nat) (s : State) : Result :=
  s.internal (s.reached rec_ && (s.record rec_).kind == .phase) fun _ => (s.startPhase rec_).takeFrom rec_

/-! ## Doorbells (R284, R286) -/

/-- A host entry that fails the test: CODE BADARG and STATE 3, where the front end can reach the record. -/
def State.skipEntry (s : State) (c : Ctx) (die addr : Nat) : State :=
  match s.readPlain c die addr 8 with
  | none => s
  | some x => s.writeVa c die addr 8 (x - bitsOf x 8 2 * 2 ^ 8 - bitsOf x 16 8 * 2 ^ 16 + 3 * 2 ^ 8 + codeBadArg * 2 ^ 16)

/-- The front end takes one entry of a host ring and advances the head word. -/
def State.takeEntry (s : State) (ctx die : Nat) : State :=
  let c := s.ctx ctx
  let n := 2 ^ c.ringlog
  let head := (spGet c.ringHeads die).toNat
  let s1 := match s.readPlain c die (c.ring + 8 * head) 8 with
    | none => s
    | some addr =>
      match s.doorTest c die addr with
      | some k => s.accept ctx die addr k
      | none => s.skipEntry c die addr
  let next := (head + 1) % n
  (s1.modCtx ctx fun x => { x with ringHeads := spSet x.ringHeads die (BitVec.ofNat 32 next) }).writeVa c die
    (c.ring + 8 * n) 4 next

/-- It takes the entries up to the tail. -/
def State.takeEntries (s : State) (ctx die tail fuel : Nat) : State :=
  match fuel with
  | 0 => s
  | k + 1 =>
    if (spGet (s.ctx ctx).ringHeads die).toNat == tail then s else (s.takeEntry ctx die).takeEntries ctx die tail k

/-- A doorbell write of a value to a slot. -/
def State.doorbell (s : State) (die slot value : Nat) : State :=
  match findFirst (fun c => c.handle.toNat % 1024 == slot) (s.ctxsOn die) with
  | none => s
  | some c =>
    if 2 ^ c.ringlog ≤ value then s
    else
      let s1 := s.modCtx c.uid fun x => { x with ringTails := spSet x.ringTails die (BitVec.ofNat 32 value) }
      s1.takeEntries c.uid die value (2 ^ c.ringlog)

/-- DOORBELL_WRITE. -/
def execDoorbellWrite (die : Nat) (slot : BitVec 10) (value : BitVec 32) (s : State) : Result :=
  s.outside fun _ => s.doorbell die slot.toNat value.toNat

/-! ## Tagged messages (R295, R358) -/

/-- The armed tag a message fires: bound on the die, by a context of the world it carries. -/
def State.firedTag (s : State) (m : Msg) : Option Tag :=
  findFirst (fun x => x.tag == field m.payload 0 12 && (s.ctx x.ctx).world == m.world) (s.die m.target).tags

/-- Buffer of an armed record: s1 of its SEED. -/
def State.bufferOf (s : State) (u : Nat) : Nat :=
  let r := s.record u
  ((s.readPlain (s.ctx r.ctx) r.die r.addr 128).map fun x => bitsOf x 512 64).getD 0

/-- Can the payload of a message be written, or is it to be dropped. -/
def State.deliverable (s : State) (m : Msg) : Bool :=
  match s.firedTag m with
  | none => true
  | some x =>
    match s.reach (s.ctx x.ctx) m.target [] .write (s.bufferOf x.record) 256 with
    | .ok h _ _ => h.kind == .plain
    | _ => false

/-- A message takes effect: it fires the launch its tag is bound to, or is dropped. -/
def State.fire (s : State) (m : Msg) : State :=
  match s.firedTag m with
  | none => s
  | some x =>
    let s1 := s.writeVa (s.ctx x.ctx) m.target (s.bufferOf x.record) 256 m.payload.toNat
    let s2 := s1.modDie m.target fun d => { d with tags := d.tags.filter fun y => y.tag != x.tag }
    (s2.modRec x.record fun r => { r with tag := none, fired := true, order := s.nextId }).numbered

/-- The message in flight at a place. -/
def State.msgAt (s : State) (n : Nat) : Option Msg := (s.msgs.drop n).head?
/-- Is it the first of its sender for its die. -/
def State.msgFirst (s : State) (n : Nat) (m : Msg) : Bool :=
  !((s.msgs.take n).any fun x => x.source == m.source && x.target == m.target)

/-- World of a message written to the inbox: of the link session's binding. -/
def State.sessionWorld (s : State) (die session : Nat) : BitVec 16 :=
  match findFirst (fun x => x.id == session && x.established) (s.die die).sessions with
  | some x => match x.bound with
    | some world => BitVec.ofNat 16 world
    | none => 0
  | none => 0

/-- TAGGED_MESSAGE: one in flight reaches the die, or the host agent writes one to the inbox. -/
def execTaggedMessage (die : Nat) (src : MsgSource) (s : State) : Result :=
  match src with
  | .inFlight n =>
    match s.msgAt n with
    | some m => s.internal (m.target == die && s.msgFirst n m && s.deliverable m) fun _ =>
        ({ s with msgs := s.msgs.take n ++ s.msgs.drop (n + 1) } : State).fire m
    | none => s.internal false fun _ => s
  | .inbox session payload =>
    let m : Msg := { source := 24, target := die, world := s.sessionWorld die session, payload := payload }
    s.outside fun _ =>
      if s.msgFirst s.msgs.length m && s.deliverable m then s.fire m else { s with msgs := s.msgs ++ [m] }

/-! ## Tokens and leases (R169, R299, R300) -/

/-- Nanoseconds of a number of cycles of a die's arithmetic clock. -/
def State.cyclesNs (s : State) (die n : Nat) : Nat := n * 1000 / max 1 (s.die die).mhz

/-- Does an MMA of a launch wait at a cluster for a token (R300). -/
def State.mmaWaitsAt (s : State) (u cl : Nat) : Bool :=
  s.wgs.any fun w => w.launch == u && clusterOf w.core == cl && !s.still w && s.mmaStalls w
    && w.teams.any fun t => t.pathPcs.any fun p =>
      match s.fetchAt w t (BitVec.ofNat 64 p) with
      | some (x, f) => f == 0 && isMmaWord x && t.canIssue (BitVec.ofNat 64 p) x != 0
      | none => false
/-- The next cluster of the ring, ascending and from 15 to 0, at which an MMA of a launch waits (R300). -/
def State.nextWaiting (s : State) (u cl : Nat) : Option Nat :=
  findFirst (s.mmaWaitsAt u) ((upFrom 1 15).map fun k => (cl + k) % 16)

/-- A token held at a cluster passes on, to the next cluster that waits: 2,048 cycles after capture or after 64 idle cycles.
Where the pool has shrunk, the token leaves the ring and the lease shrinks (DESIGN CHOICE, log 50). -/
def State.passToken (s : State) (u cl : Nat) (c : Nat × Nat × Nat) : State :=
  let r := s.record u
  let at_ := max s.time (min (c.2.1 + s.cyclesNs r.die 2048) (c.2.2 + s.cyclesNs r.die 64))
  let tooMany := decide ((s.die r.die).pool < s.tokensHeld r.die)
  let next : List (Nat × Nat × Nat) := if tooMany then [] else ((s.nextWaiting u cl).map fun k => (k, at_, at_)).toList
  let pass (x : Lease) : Lease :=
    { x with captured := x.captured.filter (fun y => y.1 != cl) ++ next, held := if tooMany then x.held - 1 else x.held }
  ({ s with time := at_ } : State).modRec u fun x => { x with lease := pass x.lease }

/-- TOKEN_PASS. -/
def execTokenPass (rec_ cluster : Nat) (s : State) : Result :=
  match findFirst (fun c => c.1 == cluster) (s.record rec_).lease.captured with
  | some c => s.internal ((s.record rec_).uid == rec_) fun _ => s.passToken rec_ cluster c
  | none => s.internal false fun _ => s

/-- LEASE_GRANT. -/
def execLeaseGrant (rec_ : Nat) (s : State) : Result := s.found (s.grantLease rec_)
/-- LEASE_QUANTUM_END. -/
def execLeaseQuantumEnd (rec_ : Nat) (s : State) : Result := s.found (s.endQuantum rec_)

/-! ## Priority and pre-emption (R218, R298, R339) -/

/-- Has the counter of a path reached 1,024, and is it the path its team issues next. -/
def State.topPriority (s : State) (u ti : Nat) (pc : BitVec 64) : Bool :=
  s.active u ti && decide (1024 ≤ ((s.wg u).team ti).age pc.toNat) && s.issuePc u ti == some pc.toNat

/-- AGEING_TOP_PRIORITY: the path's team issues next. -/
def execAgeingTopPriority (wg team : Nat) (pc : BitVec 64) (s : State) : Result :=
  s.internal (s.topPriority wg team pc) fun _ => { s with agenda := .issue wg team :: s.agenda }

/-- The pre-emption accepted on a core. -/
def State.preemptOn (s : State) (die core : Nat) : Option Preempt := findFirst (fun p => p.core == core) (s.die die).preempts

/-- The victim's workgroups on the core freeze, and its engines stop (DEDUCED, log 51). -/
def State.freezeVictim (s : State) (die core : Nat) (p : Preempt) : State :=
  let us := ((s.wgsOn p.victim die core).filter fun w => !w.urgent).map Wg.uid
  let s1 := (us.foldl State.freezeWg s).pauseEngines p.victim true
  s1.modDie die fun d => { d with preempts := mapWhere (fun q => q.core == core) (fun q => { q with frozen := true }) d.preempts }

/-- The urgent launch starts on the core, once it holds its lease. -/
def State.startUrgent (s : State) (core u : Nat) (e : Examined) : State :=
  if e.header.matrix && (s.record u).lease.held == 0 then
    if (s.record u).lease.waiting then s else s.askTokens u e
  else (s.startLaunch u e [core]).placeOn u core true

/-- Does an urgent launch still have to start, and can it: its context's launches may start (R371), and it asks for its lease, or its
resources are there (R298). -/
def State.urgentDue (s : State) (die core u : Nat) (e : Examined) : Bool :=
  let asks := e.header.matrix && (s.record u).lease.held == 0
  s.reached u && s.mayRun (s.ctx (s.record u).ctx) die && (if asks then !(s.record u).lease.waiting else s.fits die core e.header true)

/-- What PREEMPT_FREEZE does: it freezes the victim, and starts the urgent launch; a pre-emption whose launch has been
cancelled ends. -/
def State.freezeStep (s : State) (die core : Nat) : Option State :=
  match s.preemptOn die core with
  | none => none
  | some p =>
    let s1 := if p.frozen then s else s.freezeVictim die core p
    if !(s.record p.record).placed.isEmpty then (if p.frozen then none else some s1)
    else if !s.reached p.record then some (s1.continueVictim die core)
    else
      match s.examined p.record with
      | none => some ((s1.finishRec p.record codeBadArg).continueVictim die core)
      | some e =>
        if s1.urgentDue die core p.record e then some (s1.startUrgent core p.record e)
        else if p.frozen then none else some s1

/-- PREEMPT_FREEZE. -/
def execPreemptFreeze (die core : Nat) (s : State) : Result := s.found ((s.freezeStep die core).map State.wakePercale)

end Sys2Proof.Machine
end

