-- ==== Sys2Proof/Machine/Fabric.lean ====
section
/-!
DEFINITION. What runs between dies and under them: the lattice exchange (R272 to R275, R279), soft errors and targeted
tests (R236, R237, R361, R362), the links (R354, R360, R383), the scrub of waking units (R345), and the drain of a die
(R363, R364).
-/
namespace Sys2Proof.Machine

/-! ## Sending (R272, R275) -/

/-- The context that stands for a region in records: the first whose enabled lattice range names it (DEDUCED, log 63). -/
def State.regionCtx (s : State) (part id : Nat) : Nat :=
  match findFirst (fun c => c.part == part && c.namesRegion id) s.ctxs with
  | some c => c.uid
  | none => 0

/-- A marked line as it would be read now: its region, its memory key. -/
def State.markedLine (s : State) (die : Nat) (m : Mark) : Option (Region × Nat) :=
  match (s.die die).part with
  | none => none
  | some p =>
    match (s.part p).regionAt (m.line * 256), s.keyOf die (m.line * 256) with
    | some r, some k => some (r, k)
    | _, _ => none

/-- Poison in a line that Damask would send or join (R237): the record names no program counter (R274, R333). -/
def State.exchangeError (s : State) (die part id kind ia : Nat) : State :=
  s.dataError (s.regionCtx part id) die kind (ia / 65536) 1
    { code := 0x0E, nopc := true, kind := 8, ia := ia, ldie := ((s.part part).logicalOf die).getD 0 }

/-- The line leaves for a peer: its mark goes, and its 256 bytes as they stand now travel. A poisoned line is not read
(R237). -/
def State.sendLine (s : State) (die : Nat) (peer : Option Nat) (m : Mark) : State :=
  let s1 := s.modDie die fun d => { d with marks := d.marks.filter fun x => x != m }
  match s.markedLine die m, peer, (s.die die).part with
  | some (r, k), some e, some p =>
    if s.poisoned k 256 then s1.exchangeError die p r.id 0 (m.line * 256)
    else
      let l : Line :=
        { source := die, target := e, part := p, region := r.id, ltype := r.ltype, base := r.base, size := r.size,
          ia := m.line * 256, data := BitVec.ofNat 2048 (readLE s.mem k 256), held := false }
      { s1 with lines := s1.lines ++ [l] }
  | _, _, _ => s1

/-- The physical die an entry's value names now (R351). -/
def State.peerOf (s : State) (die : Nat) (x : BitVec 64) : Option Nat :=
  match (s.die die).part with
  | none => none
  | some p => (s.part p).phys (xPeer x)

/-- The marks of an entry whose lines can be read, oldest first. -/
def State.sendable (s : State) (die e : Nat) : List Mark :=
  (s.die die).marks.filter fun m => m.entry == e && (s.markedLine die m).isSome

/-- The next boundary of an entry: its time and the entry's value from then on (R275). -/
def State.boundary (s : State) (die e : Nat) : Option (Nat × BitVec 64) :=
  let d := s.die die
  let old := spGet d.xsched e
  let new := d.xreg e
  let p := 250 * xPeriod (if xEn old && xPeriod old != 0 then old else new)
  if d.part.isNone || d.dstate == 2 || !xEn new || p == 0 then none
  else
    let from_ := max s.time ((spGet d.xlast e).toNat + 1)
    some ((from_ + p - 1) / p * p, new)

/-- At a boundary of an enabled entry the marked lines go to its peer (DEDUCED, log 62). Where its PEER is a logical die that the
partition does not hold, the marks stay and nothing is sent: R271 does not say (DESIGN CHOICE, log 62). -/
def State.exchange (s : State) (die e : Nat) : Option State :=
  (s.boundary die e).map fun (b, x) =>
    let all := s.sendable die e
    let now := all.take 4096
    let more := all.length - now.length
    let s1 : State := { s with time := max s.time b }
    let s2 := s1.modDie die fun d =>
      { d with xsched := spSet d.xsched e x, xpending := d.xpending.filter fun y => y.1 != e,
               xlast := spSet d.xlast e (BitVec.ofNat 64 b),
               backlog := if d.backlog.toNat < more then BitVec.ofNat 16 (min 0xFFFF more) else d.backlog,
               rounds := if now.isEmpty then d.rounds else d.rounds + 1 }
    let peer := s.peerOf die x
    if peer.isNone then s1.modDie die fun _ => { s2.die die with rounds := (s.die die).rounds, backlog := (s.die die).backlog }
    else now.foldl (fun acc m => acc.sendLine die peer m) s2

/-- EXCHANGE_BOUNDARY. -/
def execExchangeBoundary (die : Nat) (entry : BitVec 3) (s : State) : Result := s.found (s.exchange die entry.toNat)

/-! ## Joining (R273, R274) -/

/-- Does the receiver's region table still hold the line's region. -/
def State.lineLives (s : State) (l : Line) : Bool :=
  (s.die l.target).part == some l.part
    && (s.part l.part).regions.any fun r => r.id == l.region && r.base == l.base && r.size == l.size && r.ltype == l.ltype

/-- The joined line is written, and marked unless nothing changed; the entry that names the sender, and is not to name another from
its next boundary on, is left out when the joined line is the line received (R273, R275). -/
def State.joinAt (s : State) (l : Line) (key : Nat) : State :=
  let old := readLE s.mem key 256
  let new := joinLine l.ltype 256 old l.data.toNat
  if new == old then s
  else
    let toSender (e : Nat) : Bool :=
      let d := s.die l.target
      new == l.data.toNat && [spGet d.xsched e, d.xreg e].all fun x => s.peerOf l.target x == some l.source
    let s1 : State := { s with mem := writeLE s.mem key 256 new }
    s1.modDie l.target fun d => d.mark (l.ia / 256) ((upFrom 0 8).filter toSender)

/-- A line meets a frame of another world: it is dropped with two records (R274). -/
def State.lineOwn (s : State) (l : Line) : State :=
  let c := s.regionCtx l.part l.region
  (s.ownerRecord c { code := 0x08, nopc := true, kind := 8, ia := l.ia }).operatorRecord l.target c 1 2 1 (l.ia / 65536)

/-- What becomes of line n on arrival, or when it is tried again. A page of host memory, whose frame has no owner entry (R328), drops
it as a frame of another world does: R274 does not name that case (DESIGN CHOICE, log 46). -/
def State.lineArrives (s : State) (n : Nat) (l : Line) : State :=
  let gone : State := { s with lines := dropAt s.lines n }
  if !s.lineLives l then gone
  else
    match s.walk l.target l.ia with
    | .unmapped => { s with lines := listModify (fun x => { x with held := true }) s.lines n }
    | .waits => { s with lines := listModify (fun x => { x with held := true }) s.lines n }
    | .host _ => gone.lineOwn l
    | .local d f =>
      let key := devKey d (f * 65536 + l.ia % 65536)
      if (s.frameOf d f).owner != (s.part l.part).world then gone.lineOwn l
      else if s.poisoned key 256 then gone.exchangeError l.target l.part l.region 1 l.ia
      else gone.joinAt l key

/-- LINE_JOIN. -/
def execLineJoin (n : Nat) (s : State) : Result :=
  match s.lines[n]? with
  | none => s.internal false fun _ => s
  | some l => s.internal (!l.held && s.carries l.source l.target) fun _ => s.lineArrives n l
/-- HELD_LINE_JOIN: MAPSYNC has published the page. -/
def execHeldLineJoin (n : Nat) (s : State) : Result :=
  match s.lines[n]? with
  | none => s.internal false fun _ => s
  | some l => s.internal (l.held && s.walk l.target l.ia != .unmapped && s.walk l.target l.ia != .waits) fun _ => s.lineArrives n l

/-! ## Soft errors (R236, R237) -/

/-- Adds to the soft-error counter of the die's partition. -/
def State.countSoft (s : State) (die : Nat) : State :=
  match (s.die die).part with
  | some p => s.addCounter p 5 1
  | none => s
/-- Drops translations: their next fetch is translated afresh; their pins stay (R321, R318). -/
def State.dropLowered (s : State) (p : Translation → Bool) : State :=
  { s with trans := s.trans.map fun t => if p t then { t with cached := [], stored := false } else t }

/-- An error makes a die's part suspect: its test is due (R361). -/
def State.suspect (s : State) (die : Nat) (x : Suspect) : State := s.modDie die fun d => { d with suspects := d.suspects ++ [x] }
/-- The same of the cluster or the core of a workgroup. -/
def State.suspectWg (s : State) (u : Nat) (file : Bool) : State :=
  let w := s.wg u
  s.suspect w.die (if file then .core w.core else .cluster (clusterOf w.core))

/-- A soft error. A clean line of the cluster's caches, or a clean sector that L2 has decoded, is dropped (R236). -/
def State.softErr (s : State) (e : SoftError) : State :=
  match e with
  | .corrected d => (s.countSoft d).suspect d .anywhere
  | .refetched d cl a =>
    let line (c : CWord) : Bool := c.die == d && c.cluster == cl && c.word / 32 == a / 128 && c.dirty == 0
    let ro (r : RoLine) : Bool := r.of d cl && r.line == a / 128
    let sector (f : FmtSector) : Bool := (s.keyOf d (32 * f.sector)).map (fun k => k / 128) == some (a / 128)
    let s1 : State := { s with cwords := s.cwords.filter fun c => !line c, roLines := s.roLines.filter fun r => !ro r }
    ((s1.modDie d fun x => { x with sectors := x.sectors.filter fun f => !sector f }).countSoft d).suspect d (.cluster cl)
  | .poisonMemory a =>
    let s1 : State := { s with poison := addOnce s.poison (a / 8) }
    match keyDie a with
    | some d => s1.suspect d .anywhere
    | none => s1
  | .poisonRegister u t l r => (s.modThread u t l fun th => { th with poison := addOnce th.poison r.toNat }).suspectWg u true
  | .poisonUniform u t r =>
    if r == 0 then s else (s.modTeam u t fun x => { x with poison := addOnce x.poison r.toNat }).suspectWg u true
  | .poisonShared u r => (s.modWg u fun w => { w with gpoison := addOnce w.gpoison r.toNat }).suspectWg u true
  | .poisonScratch u k => (s.modWg u fun w => { w with poison := addOnce w.poison k }).suspectWg u false
  | .poisonSlot u q n => (s.modWg u fun w => w.modQueue q.toNat fun x =>
      if n < x.slots.length then { x with poison := addOnce x.poison n } else x).suspectWg u false
  | .translation n =>
    let s1 := s.dropLowered fun t => s.trans[n]? == some t
    match s.trans[n]? with
    | some t => (t.cached.map Prod.fst).eraseDups.foldl (fun acc cl => acc.suspect t.die (.cluster cl)) (s1.countSoft t.die)
    | none => s1

/-- SOFT_ERROR (DESIGN CHOICE, log 19). -/
def execSoftError (err : SoftError) (s : State) : Result := s.outside fun _ => s.softErr err

/-! ## Retirement (R361, R362) -/

/-- A retired part enters the map, and the translations that used it are lowered again (R321) (DESIGN CHOICE, log 65). -/
def State.retire (s : State) (die : Nat) (r : Retired) : State :=
  let s1 := s.modDie die fun d => { d with retired := d.retired ++ [r] }
  match r with
  | .row => s1
  | .slice n =>
    let s2 := s1.modDie die fun d => { d with sectors := d.sectors.filter fun f => sliceOf (32 * f.sector) != n }
    let s3 : State := { s2 with roLines := s2.roLines.filter fun r =>
      !(r.die == die && r.cluster == 16 && sliceOf (128 * r.line) == n) }
    s3.dropLowered fun t => t.die == die
  | .link _ => s1.dropLowered fun _ => true
  | .lane _ _ => s1.dropLowered fun _ => true
  | _ => s1.dropLowered fun t => t.die == die

/-- A failing row moves to a spare row of its part, of `most`; with none left, the part retires. -/
def State.spareRow (s : State) (die key most : Nat) (fail : State → State) : State :=
  let n := (spGet (s.die die).spareRows key).toNat
  if n < most then
    (s.modDie die fun d => { d with spareRows := spSet d.spareRows key (BitVec.ofNat 8 (n + 1)) }).retire die .row
  else fail s

/-- A core retires: its contexts are frozen and sealed, bound to no core. -/
def State.retireCore (s : State) (die core : Nat) : State :=
  let cs := (s.ctxs.filter fun c => s.wgs.any fun w => w.ctx == c.uid && w.die == die && w.core == core).map Ctx.uid
  let s1 := s.modDie die fun d => { d with preempts := d.preempts.filter fun p => p.core != core }
  (cs.foldl (fun acc c => acc.sealNow c none) s1).retire die (.core core)

/-- Writes the two bits STATE and the two bits WIDTH of a port. -/
def State.setPort (s : State) (die port state width : Nat) : State :=
  s.modDie die fun d => { d with links := listModify (fun x => (x &&& ~~~15) ||| BitVec.ofNat 64 (state % 4 + width % 4 * 4)) d.links port }
/-- The same at both ends of a link. -/
def State.setLink (s : State) (die port state width : Nat) : State :=
  let s1 := s.setPort die port state width
  match neighbour die port with
  | some e => s1.setPort e (opposite port) state width
  | none => s1

/-- Eighths of a port's lanes that have retired. -/
def Die.deadLanes (d : Die) (port : Nat) : List Nat :=
  (upFrom 0 8).filter fun l => d.retired.contains (.lane port l)
/-- The widest width that excludes every retired lane: 0 full, 1 half, 2 quarter, 3 eighth; an aligned part of the
port's lanes. -/
def widestOf (dead : List Nat) : Option Nat :=
  findFirst (fun w => (upFrom 0 (2 ^ w)).any fun k => !dead.any fun l => l / 2 ^ (3 - w) == k) (upFrom 0 4)

/-- The margin test of a port: its failing lanes retire and it trains again at a width that both ends have, or
the link retires (DESIGN CHOICE, log 64). -/
def State.portTested (s : State) (die port : Nat) (failed : BitVec 8) : State :=
  let new := (upFrom 0 8).filter fun l => failed.getLsbD l && !((s.die die).deadLanes port).contains l
  if new.isEmpty then s
  else
    let s1 := new.foldl (fun acc l => acc.retire die (.lane port l)) s
    match widestOf ((s1.die die).deadLanes port) with
    | some w =>
      let other := match neighbour die port with
        | some e => (widestOf ((s1.die e).deadLanes (opposite port))).getD 0
        | none => 0
      s1.setLink die port 2 (max w other)
    | none =>
      let s2 := (s1.setLink die port 3 3).retire die (.link port)
      match neighbour die port with
      | some e => s2.retire e (.link (opposite port))
      | none => s2

/-- What a targeted test leaves. -/
def State.tested (s : State) (t : TestedPart) : State :=
  match t with
  | .bankRow d cl b ok =>
    if ok then s else s.spareRow d (64 * cl + b) 8 fun x => (x.dropCluster d cl).retire d (.bank cl b)
  | .sliceRow d n ok => if ok then s else s.spareRow d (0x1000 + n) 8 fun x => x.retire d (.slice n)
  | .port d p lanes => s.portTested d p.toNat lanes
  | .registerFile d k ok => if ok then s else s.spareRow d (0x2000 + k) 4 fun x => x.retireCore d k
  | .readOnlyRow d cl ok => if ok then s else s.spareRow d (0x3000 + cl) 8 fun x => (x.dropRo d cl).retire d (.bank cl readOnlyBank)
  | .translationRow d cl ok =>
    if ok then s else s.spareRow d (0x4000 + cl) 8 fun x => x.retire d (.bank cl translationBank)

/-- The die a test is of. -/
def testedDie : TestedPart → Nat
  | .bankRow d _ _ _ => d
  | .sliceRow d _ _ => d
  | .port d _ _ => d
  | .registerFile d _ _ => d
  | .readOnlyRow d _ _ => d
  | .translationRow d _ _ => d
/-- Does an error call for a test: an error in SRAM for the march of rows, a replay for a port's margin test, an error in a
register file for its row test (R361). -/
def Suspect.calls (x : Suspect) (t : TestedPart) : Bool :=
  match x, t with
  | .port p, .port _ q _ => p == q.toNat
  | _, .port _ _ _ => false
  | .core n, .registerFile _ k _ => n == k
  | .anywhere, _ => true
  | .cluster n, .bankRow _ cl _ _ => n == cl
  | .cluster n, .readOnlyRow _ cl _ => n == cl
  | .cluster n, .translationRow _ cl _ => n == cl
  | .cluster _, .sliceRow _ _ _ => true
  | _, _ => false
/-- The error that a test answers is not suspect any longer. -/
def State.answerSuspect (s : State) (t : TestedPart) : State :=
  s.modDie (testedDie t) fun d =>
    match findFirst (fun x => x.calls t) d.suspects with
    | some x => { d with suspects := d.suspects.erase x }
    | none => d

/-- Is a core at a context swap: no workgroup runs on it, and what a retirement would seal can be sealed (R361, R362). -/
def State.atSwap (s : State) (die core : Nat) : Bool :=
  (s.wgs.filter fun w => w.die == die && w.core == core).all fun w => w.frozen && !(s.finishAtomics w.ctx).unfinished w.ctx

/-- A part that can be tested: it exists and has not retired. -/
def State.testable (s : State) (t : TestedPart) : Bool :=
  ((s.die (testedDie t)).suspects.any fun x => x.calls t) &&
  match t with
  | .bankRow d cl b _ => decide (d < 24) && decide (cl < 16) && decide (b < if cl == 15 then 28 else 32)
      && !(s.die d).retired.contains (.bank cl b)
  | .sliceRow d n _ => decide (d < 24) && decide (n < 80) && !(s.die d).retired.contains (.slice n)
  | .port d p _ => decide (d < 24) && s.linkState d p.toNat == 2
  | .registerFile d k _ => decide (d < 24) && s.coreExists d k && s.atSwap d k
  | .readOnlyRow d cl _ => decide (d < 24) && decide (cl < 16) && !(s.die d).retired.contains (.bank cl readOnlyBank)
  | .translationRow d cl _ => decide (d < 24) && decide (cl < 16) && !(s.die d).retired.contains (.bank cl translationBank)

/-- TARGETED_TEST: after an error, of a part where it may have struck (R361). -/
def execTargetedTest (test : TestedPart) (s : State) : Result :=
  s.internal (s.testable test) fun _ => (s.answerSuspect test).tested test

/-! ## Links (R354, R360, R383) -/

/-- Adds to a saturating 16-bit field of a register. -/
def addField (x : BitVec 64) (lo n : Nat) : BitVec 64 :=
  let y := min 0xFFFF (field x lo 16 + n)
  mergeBits (onesAt 64 lo 16) x (BitVec.ofNat 64 (y * 2 ^ lo))

/-- LINK_REPLAY: a flit that FEC could not correct is sent again, and the port's margin test falls due (R361); FEC has corrected
a free number since the last. -/
def execLinkReplay (die : Nat) (port : BitVec 2) (s : State) : Result :=
  s.internal (decide (die < 24) && s.linkState die port.toNat == 2) fun _ =>
    let count (x : BitVec 64) : BitVec 64 := addField (addField (addField x 16 1) 48 1) 32 (Config.free s.draws)
    ((s.modDie die fun d => { d with links := listModify count d.links port.toNat }).suspect die (.port port.toNat)).drawn

/-- The WIDTH a port trains at. -/
def State.portWidth (s : State) (die port : Nat) : Nat := (widestOf ((s.die die).deadLanes port)).getD 3

/-- Does a port that is down have somebody to train with: its neighbour has booted, or the host. -/
def State.canTrain (s : State) (die port : Nat) : Bool :=
  match neighbour die port with
  | some e => (s.die e).boot == 6 && s.linkState e (opposite port) != 3
  | none => port == 0

/-- A link comes up after its die is ready: it carries no traffic until a CONFIGURE includes both dies. -/
def State.linkUp (s : State) (die port : Nat) : State :=
  let w := s.portWidth die port
  let idle (d p : Nat) (x : State) : State := x.modDie d fun y => { y with idlePorts := y.idlePorts ||| BitVec.ofNat 4 (2 ^ p) }
  match neighbour die port with
  | some e => idle e (opposite port) (idle die port (s.setLink die port 2 (max w (s.portWidth e (opposite port)))))
  | none => s.setLink die port 2 w

/-- LINK_TRAIN_RETRY: every 100 ms. -/
def execLinkTrainRetry (die : Nat) (port : BitVec 2) (trained : Bool) (s : State) : Result :=
  let p := port.toNat
  s.internal (decide (die < 24) && (s.die die).boot == 6 && decide (s.linkState die p < 2) && (!trained || s.canTrain die p)) fun _ =>
    let s1 : State := { s with time := (s.time / 100000000 + 1) * 100000000 }
    if trained then s1.linkUp die p else s1

/-- LINK_DOWN. -/
def execLinkDown (die : Nat) (port : BitVec 2) (s : State) : Result :=
  s.internal (decide (die < 24) && s.linkState die port.toNat == 2) fun _ =>
    s.setLink die port.toNat 0 (s.portWidth die port.toNat)

/-! ## Scrub of waking units (R345) -/

/-- Does a core or a cluster of the cluster wait for its scrub. -/
def State.scrubDue (s : State) (die cl : Nat) : Bool :=
  (s.die die).scrubPending.contains cl || (s.die die).touched.any fun t => clusterOf t.1 == cl

/-- UNIT_WAKE_SCRUB: the cluster's caches and the marks of its cores are cleared; nothing runs there meanwhile. -/
def execUnitWakeScrub (die cluster : Nat) (s : State) : Result :=
  s.internal (s.scrubDue die cluster) fun _ =>
    s.scrubCluster die cluster

/-! ## The drain of a die (R279, R364) -/

/-- Keeps the first of the pages that name one place. -/
def onePerSpot (seen : List (Option Nat × Nat)) : List (Nat × Mapping) → List (Nat × Mapping)
  | [] => []
  | p :: rest =>
    if seen.contains (p.2.spot p.1) then onePerSpot seen rest else p :: onePerSpot (p.2.spot p.1 :: seen) rest

/-- Frames homed on a die that a world owns and that a drain still has to move, each by a page that names it on some die,
ascending by IA; a page that another drain has moved here is among them. -/
def State.framesLeft (s : State) (die : Nat) : List (Nat × Mapping) :=
  let mine (p : Nat × Mapping) : Bool :=
    match p.2.spot p.1 with
    | (some d, f) => d == die && (s.frameOf d f).owner != 0
    | (none, _) => false
  let named := ((upFrom 0 24).flatMap fun d => (s.die d).published.map fun m => (d, m)).filter mine
  onePerSpot [] (sortBy (fun a b => decide (a.2.page ≤ b.2.page)) named)

/-- Replica pages of a die. -/
def State.replicaPages (s : State) (die : Nat) : List Mapping :=
  (s.die die).published.filter fun m => (s.regionOn die m.page).isSome

/-- Damask sends every marked line to every enabled peer and releases the replica frames (R279); the marks for a peer that the
partition does not hold are lost, of which the rules say nothing (DESIGN CHOICE, log 62). -/
def State.flushReplicas (s : State) (die : Nat) : State :=
  let s1 := (upFrom 0 8).foldl (fun acc e =>
    let x := spGet (acc.die die).xsched e
    if xEn x then (acc.sendable die e).foldl (fun a m => a.sendLine die (a.peerOf die x) m) acc else acc) s
  let ms := s1.replicaPages die
  let s2 := s1.modDie die fun d => { d with marks := [], published := d.published.filter fun m => !ms.contains m }
  ms.foldl (fun acc m =>
    match m.spot die with
    | (some h, f) => acc.modFrameOf h f FrameEntry.release
    | (none, _) => acc) s2

/-- Frames of HBM and of the LP tier of a die: 128 GiB, then 192 GiB (R238) (PRESUMED, log 49). -/
def hbmFrames : Nat := 2 ^ 21
def lpFrames : Nat := 3 * 2 ^ 20

/-- A free frame of a die among `n` from `base`, in memory that serves (R382). -/
def Die.freeFrame (d : Die) (base n : Nat) : Option Nat :=
  let part (b m : Nat) : Option Nat :=
    if d.absentFrame b then none else findFirst (fun f => (d.frame f).owner == 0) (upFrom b (min m (d.frames.length + 1)))
  if base == 0 then (part 0 (n / 2)).or (part (n / 2) (n / 2)) else part base n

/-- The other dies of the partition that may take frames: fewest hops first, then ascending logical number. -/
def State.takers (s : State) (die : Nat) : List Nat :=
  match (s.die die).part with
  | none => []
  | some p =>
    let ds := (s.diesOf p).filter fun d => d != die && (s.die d).dstate == 0 && (s.hops die d).isSome
    let before (a b : Nat) : Bool :=
      let ha := (s.hops die a).getD 0
      let hb := (s.hops die b).getD 0
      decide (ha < hb) || (ha == hb && decide (((s.part p).logicalOf a).getD 31 ≤ ((s.part p).logicalOf b).getD 31))
    sortBy before ds

/-- Where the next frame goes: HBM of the other dies, their LP tiers, the granted host pages, which stand as frames of their
own number (R364). -/
def State.drainTarget (s : State) (die : Nat) : Option (Option Nat × Nat) :=
  let ts := s.takers die
  let from_ (base n : Nat) : Option (Option Nat × Nat) := ts.findSome? fun d => ((s.die d).freeFrame base n).map fun f => (some d, f)
  match from_ 0 hbmFrames with
  | some x => some x
  | none =>
    match from_ hbmFrames lpFrames with
    | some x => some x
    | none =>
      let d := s.die die
      if d.evacUsed < field d.evachn 0 32 then some (some evacDie, field d.evachb 16 36 + d.evacUsed) else none

/-- Changes every page of every die that names one place. -/
def State.modSpot (s : State) (spot : Option Nat × Nat) (f : Mapping → Mapping) : State :=
  let at_ (n : Nat) (d : Die) : Die := { d with published := mapWhere (fun m => m.spot n == spot) f d.published }
  { s with dies := mapIdxFrom at_ 0 s.dies }

/-- Contexts of the worlds with frames left that a pause still has to freeze; operator contexts go on, since an operator
alone grants host pages or ends the drain. -/
def State.toPause (s : State) (left : List (Nat × Mapping)) : List Nat :=
  let owner (p : Nat × Mapping) : BitVec 16 :=
    match p.2.spot p.1 with
    | (some d, f) => (s.frameOf d f).owner
    | (none, _) => 0
  (s.ctxs.filter fun c => c.auth != 0 && (c.state == .running || c.state == .idle)
    && left.any fun p => owner p == c.world).map Ctx.uid

/-- No room: SHORT and PAUSED are set, and every context of the worlds with frames left freezes on every die. -/
def State.drainPause (s : State) (die : Nat) (left : List (Nat × Mapping)) : State :=
  let s1 := left.foldl (fun acc p => acc.modSpot (p.2.spot p.1) fun m => { m with copying := false })
    (s.modDie die fun d => { d with short := BitVec.ofNat 32 left.length, paused := true })
  (s.toPause left).foldl State.freezeCtx s1

/-- What caches and translations hold of every page that names a place is dropped. -/
def State.dropSpot (s : State) (spot : Option Nat × Nat) : State :=
  (upFrom 0 24).foldl (fun acc d =>
    ((s.die d).published.filter fun m => m.spot d == spot).foldl (fun a m => a.dropPages d m.page (m.page + 1) [m]) acc) s

/-- A host page that evacuation has filled shows the host ciphertext, which the spec does not give (DESIGN CHOICE, log 10). -/
def State.cipherPage (s : State) (p : Nat) : State :=
  let m := spClear s.mem (p * 65536) (p * 65536 + 65536)
  ({ s with mem := spFill m (p * 65536) 65536 (Config.cipherByte s.draws) } : State).drawn

/-- The 64 KiB at one key move to another, with their poison. -/
def State.moveBytes (s : State) (k k' : Nat) : State :=
  let here (a : Nat) : Bool := decide (k ≤ a) && decide (a < k + 65536)
  let mem1 := (s.mem.filter fun b => here b.1).foldl (fun a b => spSet a (b.1 - k + k') b.2) (spClear s.mem k' (k' + 65536))
  { s with mem := spClear mem1 k (k + 65536), poison := (s.poison.filter fun w => !here (8 * w)) ++
      (s.poison.filter fun w => here (8 * w)).map fun w => w - k / 8 + k' / 8 }

/-- The bytes of a frame move to their new place, with their ownership and key, and every page that names it is re-homed as
MAPSYNC does. -/
def State.moveFrame (s : State) (die f : Nat) (spot : Option Nat × Nat) : State :=
  let s1 := s.dropSpot (some die, f)
  let e := (s1.die die).frame f
  let s2 := s1.moveBytes (devKey die (f * 65536)) (spotKey spot)
  let s3 := match spot with
    | (some d, g) =>
      let own := s2.modFrameOf d g fun y => { e with frame := y.frame }
      if d == evacDie then (own.modDie die fun x => { x with evacUsed := x.evacUsed + 1 }).cipherPage g else own
    | (none, _) => s2
  let s4 := s3.modDie die fun x => x.modFrame f FrameEntry.release
  s4.modSpot (some die, f) fun y => { y with moved := some spot, copying := false }

/-- The drain is over: the die is offline and every frozen context continues. -/
def State.drainDone (s : State) (die : Nat) : State :=
  let s1 := s.modDie die fun d => { d with dstate := 2, paused := false, short := 0 }
  if s1.dies.any Die.paused then s1 else s1.continuePaused

/-- One step of a drain: what could not be sealed yet, the replicas, then a frame at a time, first held and then copied, ascending
by IA. -/
def State.drainStep (s : State) (die : Nat) : State :=
  if !(s.toSeal die).isEmpty then (s.toSeal die).foldl (fun acc c => acc.sealNow c none) s
  else if !(s.die die).marks.isEmpty || !(s.replicaPages die).isEmpty then s.flushReplicas die
  else
    let left := s.framesLeft die
    match left with
    | [] => s.drainDone die
    | (d, m) :: _ =>
      match s.drainTarget die with
      | none => s.drainPause die left
      | some spot =>
        if m.copying then s.moveFrame die (m.spot d).2 spot
        else s.modSpot (m.spot d) fun y => { y with copying := true }

/-- Has a stalled drain nothing to do: what it has to seal waits for results, or it is paused, there is still no room, and
SHORT and the frozen contexts stand as they should. -/
def State.drainStalled (s : State) (die : Nat) : Bool :=
  let left := s.framesLeft die
  let seals := s.toSeal die
  if !seals.isEmpty then
    seals.all fun c => (s.finishAtomics c).unfinished c && (s.wgs.filter fun w => w.ctx == c).all Wg.frozen
  else (s.die die).paused && (s.drainTarget die).isNone && (s.die die).short.toNat == left.length && (s.toPause left).isEmpty

/-- DRAIN_FRAME_COPY. -/
def execDrainFrameCopy (die : Nat) (s : State) : Result :=
  s.internal ((s.die die).dstate == 1 && (!s.drainStalled die || ((s.framesLeft die).isEmpty && (s.toSeal die).isEmpty))) fun _ => s.drainStep die

/-- HBM_OR_FABRIC_TEST_FAILURE: Percale sets REQ itself (R363). -/
def execHbmOrFabricTestFailure (die : Nat) (s : State) : Result :=
  s.internal (decide (die < 24) && (s.die die).dstate != 2) fun _ =>
    if (s.die die).dstate == 0 then s.beginDrain die else s.modDie die fun d => { d with req := true }

/-! ## A die is lost (R279) -/

/-- What was on a die is gone: its memory, its waits and what it had to send; its ports are down (DEDUCED, log 66). -/
def State.loseDie (s : State) (die : Nat) : State :=
  let on (w : Wg) : Bool := w.die == die
  let us := (s.wgs.filter on).map Wg.uid
  let k := devKey die 0
  let lost : State :=
    { s with
      mem := spClear s.mem k (k + 2 ^ 64),
      poison := s.poison.filter fun w => !(decide (k ≤ 8 * w) && decide (8 * w < k + 2 ^ 64)),
      wgs := s.wgs.filter fun w => !on w,
      recs := s.recs.filter fun r => r.die != die,
      accs := s.accs.filter fun a => !us.contains a.wg,
      waiters := s.waiters.filter fun w => !us.contains w.wg,
      unacked := (s.unacked.filter fun u => u.die != die).map fun u => if keyDie u.key == some die then { u with kind := 3 } else u,
      cwords := s.cwords.filter fun c => c.die != die && keyDie (4 * c.word) != some die,
      roLines := s.roLines.filter fun r => r.die != die && r.iaDie != die,
      slog := s.slog.filter fun e => e.die != die,
      trans := s.trans.filter fun t => t.die != die,
      lines := s.lines.filter fun l => l.target != die,
      msgs := s.msgs.filter fun m => m.target != die,
      ctxs := s.ctxs.map fun c => { c with engines := c.engines.filter fun e => e.die != die } }
  let down := [0, 1, 2, 3].foldl (fun acc p => if acc.linkState die p == 3 then acc else acc.setLink die p 0 (acc.portWidth die p)) lost
  down.modDie die fun d =>
    { d with dstate := 2, boot := 0, marks := [], published := [], frames := [], sectors := [], deviceQueue := [], tags := [],
             preempts := [], scrubPending := [], touched := [], keys := [], suspects := [] }

/-- DIE_LOST_WITHOUT_EVACUATION. -/
def execDieLostWithoutEvacuation (die : Nat) (s : State) : Result :=
  s.internal (decide (die < 24) && (s.die die).boot == 6) fun _ => (s.loseDie die).settleResets

end Sys2Proof.Machine
end

