-- ==== Sys2Proof/Machine/Hash.lean ====
section
/-!
DEFINITION. The hash functions that R366, R377 and R384 name: SHA-256 and SHA-384 (FIPS 180-4) and HMAC-SHA-256 (RFC 2104), over lists
of bytes. The spec names them and does not write them out (PRESUMED, log 11).
-/
namespace Sys2Proof.Machine

/-! ## The constants -/

def shaK0 : List (BitVec 64) :=
  [0x428a2f98d728ae22, 0x7137449123ef65cd, 0xb5c0fbcfec4d3b2f, 0xe9b5dba58189dbbc,
   0x3956c25bf348b538, 0x59f111f1b605d019, 0x923f82a4af194f9b, 0xab1c5ed5da6d8118]
def shaK1 : List (BitVec 64) :=
  [0xd807aa98a3030242, 0x12835b0145706fbe, 0x243185be4ee4b28c, 0x550c7dc3d5ffb4e2,
   0x72be5d74f27b896f, 0x80deb1fe3b1696b1, 0x9bdc06a725c71235, 0xc19bf174cf692694]
def shaK2 : List (BitVec 64) :=
  [0xe49b69c19ef14ad2, 0xefbe4786384f25e3, 0x0fc19dc68b8cd5b5, 0x240ca1cc77ac9c65,
   0x2de92c6f592b0275, 0x4a7484aa6ea6e483, 0x5cb0a9dcbd41fbd4, 0x76f988da831153b5]
def shaK3 : List (BitVec 64) :=
  [0x983e5152ee66dfab, 0xa831c66d2db43210, 0xb00327c898fb213f, 0xbf597fc7beef0ee4,
   0xc6e00bf33da88fc2, 0xd5a79147930aa725, 0x06ca6351e003826f, 0x142929670a0e6e70]
def shaK4 : List (BitVec 64) :=
  [0x27b70a8546d22ffc, 0x2e1b21385c26c926, 0x4d2c6dfc5ac42aed, 0x53380d139d95b3df,
   0x650a73548baf63de, 0x766a0abb3c77b2a8, 0x81c2c92e47edaee6, 0x92722c851482353b]
def shaK5 : List (BitVec 64) :=
  [0xa2bfe8a14cf10364, 0xa81a664bbc423001, 0xc24b8b70d0f89791, 0xc76c51a30654be30,
   0xd192e819d6ef5218, 0xd69906245565a910, 0xf40e35855771202a, 0x106aa07032bbd1b8]
def shaK6 : List (BitVec 64) :=
  [0x19a4c116b8d2d0c8, 0x1e376c085141ab53, 0x2748774cdf8eeb99, 0x34b0bcb5e19b48a8,
   0x391c0cb3c5c95a63, 0x4ed8aa4ae3418acb, 0x5b9cca4f7763e373, 0x682e6ff3d6b2b8a3]
def shaK7 : List (BitVec 64) :=
  [0x748f82ee5defb2fc, 0x78a5636f43172f60, 0x84c87814a1f0ab72, 0x8cc702081a6439ec,
   0x90befffa23631e28, 0xa4506cebde82bde9, 0xbef9a3f7b2c67915, 0xc67178f2e372532b]
def shaK8 : List (BitVec 64) :=
  [0xca273eceea26619c, 0xd186b8c721c0c207, 0xeada7dd6cde0eb1e, 0xf57d4f7fee6ed178,
   0x06f067aa72176fba, 0x0a637dc5a2c898a6, 0x113f9804bef90dae, 0x1b710b35131c471b]
def shaK9 : List (BitVec 64) :=
  [0x28db77f523047d84, 0x32caab7b40c72493, 0x3c9ebe0a15c9bebc, 0x431d67c49c100d4c,
   0x4cc5d4becb3e42b6, 0x597f299cfc657e2a, 0x5fcb6fab3ad6faec, 0x6c44198c4a475817]
/-- The round constants of SHA-384. -/
def shaK : List (BitVec 64) := shaK0 ++ shaK1 ++ shaK2 ++ shaK3 ++ shaK4 ++ shaK5 ++ shaK6 ++ shaK7 ++ shaK8 ++ shaK9
/-- Those of SHA-256: the upper halves of the first 64. -/
def shaK32 : List (BitVec 32) := (shaK.take 64).map fun (k : BitVec 64) => (k >>> 32).setWidth 32
/-- The initial values of SHA-256. -/
def shaH32 : List (BitVec 32) := [0x6a09e667, 0xbb67ae85, 0x3c6ef372, 0xa54ff53a, 0x510e527f, 0x9b05688c, 0x1f83d9ab, 0x5be0cd19]
/-- The initial values of SHA-384. -/
def shaH64 : List (BitVec 64) :=
  [0xcbbb9d5dc1059ed8, 0x629a292a367cd507, 0x9159015a3070dd17, 0x152fecd8f70e5939,
   0x67332667ffc00b31, 0x8eb44a8768581511, 0xdb0c2e0d64f98fa7, 0x47b5481dbefa4fa4]

/-! ## Compression, for words of 32 and of 64 bits -/

/-- The rotations of a member of the family: of a, of e, and of the two schedule functions, whose third is a shift. -/
structure Sha where
  a : Nat × Nat × Nat
  e : Nat × Nat × Nat
  low : Nat × Nat × Nat
  high : Nat × Nat × Nat
  deriving DecidableEq, Repr

def sha32 : Sha := { a := (2, 13, 22), e := (6, 11, 25), low := (7, 18, 3), high := (17, 19, 10) }
def sha64 : Sha := { a := (28, 34, 39), e := (14, 18, 41), low := (1, 8, 7), high := (19, 61, 6) }

/-- Three rotations together. -/
def turned {w : Nat} (r : Nat × Nat × Nat) (x : BitVec w) : BitVec w :=
  x.rotateRight r.1 ^^^ x.rotateRight r.2.1 ^^^ x.rotateRight r.2.2
/-- Two rotations and a shift. -/
def shifted {w : Nat} (r : Nat × Nat × Nat) (x : BitVec w) : BitVec w :=
  x.rotateRight r.1 ^^^ x.rotateRight r.2.1 ^^^ (x >>> r.2.2)

/-- One round: the working values a to h and the next sixteen words of the schedule. -/
def Sha.round {w : Nat} (p : Sha) (st : List (BitVec w) × List (BitVec w)) (k : BitVec w) : List (BitVec w) × List (BitVec w) :=
  match st with
  | ([a, b, c, d, e, f, g, h], ws) =>
    let x (i : Nat) : BitVec w := listGet 0 ws i
    let t1 := h + turned p.e e + ((e &&& f) ^^^ (~~~e &&& g)) + k + x 0
    let t2 := turned p.a a + ((a &&& b) ^^^ (a &&& c) ^^^ (b &&& c))
    ([t1 + t2, a, b, c, d + t1, e, f, g], ws.drop 1 ++ [shifted p.high (x 14) + x 9 + shifted p.low (x 1) + x 0])
  | st => st

/-- One block of sixteen words. -/
def Sha.block {w : Nat} (p : Sha) (ks hs ws : List (BitVec w)) : List (BitVec w) :=
  let r := (ks.foldl p.round (hs, ws)).1
  (List.zip hs r).map fun x => x.1 + x.2

/-! ## Bytes -/

/-- The most significant byte first. -/
def bigEndian {w : Nat} (bs : List (BitVec 8)) : BitVec w := bs.foldl (fun x b => (x <<< 8) ||| b.setWidth w) 0
def bytesOf {w : Nat} (x : BitVec w) : List (BitVec 8) := (upFrom 0 (w / 8)).map fun i => (x >>> (w - 8 - 8 * i)).setWidth 8
/-- The `n` words of a list of bytes. -/
def wordsIn (w : Nat) (n : Nat) (bs : List (BitVec 8)) : List (BitVec w) :=
  (upFrom 0 n).map fun i => bigEndian ((bs.drop (i * (w / 8))).take (w / 8))

/-- The padding of a message of `n` bytes for blocks of `b`: 0x80, zeros, and the length in bits. -/
def shaPad (b n : Nat) : List (BitVec 8) :=
  let len := b / 8
  let zeros := (2 * b - 1 - len - n % b) % b
  [0x80#8] ++ List.replicate (zeros + len - 8) 0 ++ bytesOf (BitVec.ofNat 64 (8 * n))

/-- The hash of a message by blocks of sixteen words. -/
def Sha.hash {w : Nat} (p : Sha) (ks hs : List (BitVec w)) (bs : List (BitVec 8)) : List (BitVec w) :=
  let b := 2 * w
  let m := bs ++ shaPad b bs.length
  (upFrom 0 (m.length / b)).foldl (fun h i => p.block ks h (wordsIn w 16 ((m.drop (i * b)).take b))) hs

/-- SHA-256 (R377). -/
def sha256 (bs : List (BitVec 8)) : List (BitVec 8) := (sha32.hash shaK32 shaH32 bs).flatMap bytesOf
/-- SHA-384 (R366). -/
def sha384 (bs : List (BitVec 8)) : List (BitVec 8) := ((sha64.hash shaK shaH64 bs).take 6).flatMap bytesOf

/-- HMAC-SHA-256 under a key of at most 64 bytes (R377, R384). -/
def hmacSha256 (key bs : List (BitVec 8)) : List (BitVec 8) :=
  let k := key ++ List.replicate (64 - key.length) 0
  sha256 (k.map (fun x => x ^^^ 0x5C) ++ sha256 (k.map (fun x => x ^^^ 0x36) ++ bs))

end Sys2Proof.Machine
end

