-- ==== Sys2Proof/Machine/Module.lean ====
section
/-!
DEFINITION. The module as a whole: bring-up and the end of power (R2, R382, R383), cap frames (R377, R378), protection
(R380), and the configuration service (R384 to R387).
-/
namespace Sys2Proof.Machine

/-! ## Bring-up (R382) -/

/-- The two bits WIDTH and the bit for a trained port in what bring-up found for a die. -/
def BootOutcomeTrained (b : BootOutcome) (die port : Nat) : Bool := (listGet 0 b.ports die).getLsbD (3 * port)
def BootOutcomeWidth (b : BootOutcome) (die port : Nat) : Nat := field (listGet 0 b.ports die) (3 * port + 1) 2

/-- A port as bring-up leaves it: up when both ends trained, else down; a missing port stays as it is. -/
def bootPort (b : BootOutcome) (die port : Nat) : BitVec 64 :=
  let up (w : Nat) : BitVec 64 := BitVec.ofNat 64 (2 + 4 * w)
  if portMissing die port then 3
  else if !b.verified.getLsbD die || !BootOutcomeTrained b die port then 0
  else
    match neighbour die port with
    | none => up (BootOutcomeWidth b die port)
    | some e =>
      if b.verified.getLsbD e && BootOutcomeTrained b e (opposite port) then
        up (max (BootOutcomeWidth b die port) (BootOutcomeWidth b e (opposite port)))
      else 0

/-- A die after its bring-up: ready, or halted where its firmware did not verify, and then not online. A failed core or bank
has retired, a failed stack's memory is absent. -/
def bootDie (b : BootOutcome) (n : Nat) : Die :=
  let d := Die.init n
  let cores := (b.failedCores.filter fun c => c.1 == n).map fun c => Retired.core c.2
  let banks := (b.failedBanks.filter fun c => c.1 == n).map fun c => Retired.bank c.2.1 c.2.2
  let memory := (b.failedMemory.filter fun c => c.1 == n).map fun c => Retired.stack c.2
  let ok := b.verified.getLsbD n
  { d with boot := if ok then 6 else 2, dstate := if ok then 0 else 2, links := (upFrom 0 4).map (bootPort b n),
           retired := cores ++ banks ++ memory }

/-- Bytes of host memory: they are not the module's. -/
def hostBytes (m : Sparse 8) : Sparse 8 := m.filter fun e => decide (e.1 < 2 ^ 64)

/-- The module with its dies brought up, budgeted as dies of no partition (DESIGN CHOICE, log 18) (DEDUCED, log 69). -/
def State.bootModule (s : State) (b : BootOutcome) : State :=
  let fresh : State :=
    { State.reset with agenda := s.agenda, draws := s.draws, nextId := s.nextId, mem := hostBytes s.mem,
                       poison := s.poison.filter fun w => decide (8 * w < 2 ^ 64),
                       dies := (upFrom 0 24).map (bootDie b) }
  fresh.rebudget

/-- MODULE_RESET_RELEASE: every die brings itself up. -/
def execModuleResetRelease (boot : BootOutcome) (s : State) : Result := .next (s.bootModule boot)

/-- MODULE_POWER_OFF: everything of the power-on span ends (R2). -/
def execModulePowerOff (s : State) : Result :=
  s.outside fun _ =>
    { State.reset with powered := false, agenda := s.agenda, draws := s.draws, nextId := s.nextId, mem := hostBytes s.mem,
                       poison := s.poison.filter fun w => decide (8 * w < 2 ^ 64) }

/-! ## Bytes and keyed hashes -/

/-- The lowest `n` bytes of a number, least significant first. -/
def leBytes (n x : Nat) : List (BitVec 8) := (upFrom 0 n).map fun i => BitVec.ofNat 8 (x / 256 ^ i)
/-- Bytes as a number, least significant first. -/
def leNum (w : Nat) (bs : List (BitVec 8)) : BitVec w := BitVec.ofNat w (fromUnits 1 (bs.map BitVec.toNat))
/-- The first 16 bytes of an HMAC-SHA-256 (R377, R384). -/
def mac16 (key : BitVec 256) (bs : List (BitVec 8)) : BitVec 128 := leNum 128 ((hmacSha256 (leBytes 32 key.toNat) bs).take 16)

/-! ## Cap frames (R377, R378) -/

/-- Are the fields of a frame valid. -/
def frameValid (f : BitVec 512) : Bool :=
  field f 0 32 == 0x4C4C4148 && field f 32 16 == 1 && decide (field f 48 8 ≤ 15) && field f 56 8 == 0 && field f 176 208 == 0
/-- Does the module accept a frame. -/
def State.frameAccepted (s : State) (f : BitVec 512) : Bool :=
  frameValid f && (BitVec.ofNat 32 (field f 128 32)).getLsbD s.hallgrp.toNat && decide (s.hallseq.toNat < field f 64 64)
    && BitVec.ofNat 128 (field f 384 128) == mac16 s.hallkey (leBytes 48 f.toNat)

/-- An accepted frame replaces the hall cap; budgets, pools and clocks follow. -/
def State.takeFrameCap (s : State) (f : BitVec 512) : State :=
  let s1 : State :=
    { s.seeCauses with hallCap := some (BitVec.ofNat 16 (field f 160 16), BitVec.ofNat 4 (field f 48 8)),
                       hallseq := BitVec.ofNat 64 (field f 64 64) }
  s1.rebudget.seeCauses

/-- CAP_FRAME: any other frame is dropped without effect. -/
def execCapFrame (frame : BitVec 512) (s : State) : Result :=
  s.outside fun _ => if (s.die s.mgmtDie).boot == 6 && s.frameAccepted frame then s.takeFrameCap frame else s

/-! ## Protection (R380) -/

/-- The clock that protection lowers a die to: a free value not above the clock it had (DESIGN CHOICE, log 70). -/
def lowered (draw mhz : Nat) : Nat := Config.free draw % (mhz + 1)
/-- The clock of a die by its budget. -/
def Die.budgetClock (d : Die) : Nat := clockOf d.budget

/-- THERMAL_PROTECTION: while the die is at its junction limit its clock is lowered. -/
def execThermalProtection (die : Nat) (reached : Bool) (s : State) : Result :=
  s.internal (decide (die < 24)) fun _ =>
    let set (d : Die) : Die :=
      { d with therm := reached,
               mhz := if reached then lowered s.draws d.mhz else if s.elec then d.mhz else d.budgetClock }
    (s.seeCauses.modDie die set).drawn.seeCauses

/-- ELECTRICAL_PROTECTION: while the module's input is at 9,000 W clocks are lowered. -/
def execElectricalProtection (reached : Bool) (s : State) : Result :=
  s.internal true fun _ =>
    let set (n : Nat) (d : Die) : Die :=
      { d with mhz := if reached then lowered (s.draws + n) d.mhz else if d.therm then d.mhz else d.budgetClock }
    let s0 := s.seeCauses
    ({ s0 with elec := reached, dies := mapIdxFrom set 0 s0.dies, draws := s.draws + 24 } : State).seeCauses

/-! ## The configuration service (R384, R385) -/

/-- The bytes a request's MAC covers: code, sequence number, operands. -/
def cfgBytes (code : Nat) (h : CfgHeader) (ops : List (BitVec 8)) : List (BitVec 8) :=
  leBytes 1 code ++ leBytes 8 h.seq.toNat ++ ops

/-- Does the service accept a request: only SET_HALL_KEY while HALLKEY is zero. -/
def State.cfgAccepted (s : State) (code : Nat) (h : CfgHeader) (ops : List (BitVec 8)) : Bool :=
  (code == 1 || s.hallkey != 0) && decide (s.cfgseq.toNat < h.seq.toNat) && h.mac == mac16 s.hallkey (cfgBytes code h ops)

/-- An answer: sequence number, status, body, and a MAC under the key now in force. -/
def State.cfgAnswer (s : State) (h : CfgHeader) (st : Nat) (body : List Nat) : State :=
  let bs := leBytes 8 h.seq.toNat ++ leBytes 1 st ++ (body.map (leBytes 8)).flatten
  { s with answers := s.answers ++ [.config h.seq (BitVec.ofNat 8 st) (mac16 s.hallkey bs) body] }

/-- What a request does when it is accepted: state, status, body. -/
abbrev CfgEffect := State → State × Nat × List Nat

/-- Has the die that terminates the management port an established session of that port. -/
def State.managed (s : State) (id : Nat) : Bool :=
  (s.die s.mgmtDie).sessions.any fun x => x.id == id && x.transport == .management && x.established

/-- A request reaches the service on the die that terminates the management port; one outside a session there does not (R384)
(DEDUCED, log 61). -/
def State.service (s : State) (code : Nat) (h : CfgHeader) (ops : List (BitVec 8)) (f : CfgEffect) : Result :=
  s.outside fun _ =>
    if (s.die s.mgmtDie).boot != 6 || !s.managed h.session then s
    else if !s.cfgAccepted code h ops then s.cfgAnswer h 1 []
    else
      let r := f { s with cfgseq := h.seq }
      r.1.cfgAnswer h r.2.1 r.2.2

def cfgOk : Nat := 0
def cfgBadArg : Nat := 6
def cfgNoSpace : Nat := 7
def cfgUnsupported : Nat := 0x0F

/-- SET_HALL_KEY. -/
def execSetHallKey (h : CfgHeader) (key : BitVec 256) (s : State) : Result :=
  s.service 1 h (leBytes 32 key.toNat) fun a => ({ a with hallkey := key, hallseq := 0, cfgseq := 0 }, cfgOk, [])

/-- SET_MGMT. -/
def execSetMgmt (h : CfgHeader) (group : BitVec 128) (hall : BitVec 5) (s : State) : Result :=
  s.service 5 h (leBytes 16 group.toNat ++ leBytes 1 hall.toNat) fun a => ({ a with mcast := group, hallgrp := hall }, cfgOk, [])

/-- Any other request: UNSUPPORTED, and nothing changes. -/
def execConfigUnsupported (h : CfgHeader) (code : BitVec 8) (s : State) : Result :=
  s.service code.toNat h [] fun _ => (s, cfgUnsupported, [])

/-- What QUERY returns: for each die its state and its partition, 31 where it has none; for each partition its die mask,
world, interface state and key generation. -/
def State.queryBody (s : State) : List Nat :=
  let die (d : Die) : List Nat := [d.dstate, d.part.getD 31]
  let part (p : Nat) : List Nat :=
    let x := s.part p
    let mask := (s.diesOf p).foldl (fun acc d => acc + 2 ^ d) 0
    [mask, x.world.toNat, x.ifst.toNat, x.keygen.toNat]
  (s.dies.map die).flatten ++ ((upFrom 0 24).map part).flatten

/-- QUERY. -/
def execQuery (h : CfgHeader) (s : State) : Result := s.service 4 h [] fun a => (a, cfgOk, a.queryBody)

/-! ## CONFIGURE (R386) -/

/-- Dies of a mask. -/
def maskDies (m : BitVec 24) : List Nat := (upFrom 0 24).filter fun d => m.getLsbD d

/-- The default exchange schedule of a die (R271): an entry for each edge neighbour inside the partition, ascending. -/
def defaultSched (ds : List Nat) (die : Nat) : Sparse 64 :=
  let near := (upFrom 0 ds.length).filter fun l =>
    [1, 2, 3].any fun p => neighbour die p == some (listGet 31 ds l)
  let on := mapIdxFrom (fun n l => (n, BitVec.ofNat 64 (l + 0x80 + 8 * 2 ^ 16))) 0 near
  let off := (upFrom near.length (8 - near.length)).map fun n => (n, BitVec.ofNat 64 (8 * 2 ^ 16))
  (on ++ off).foldl (fun m e => spSet m e.1 e.2) []

/-- XBOUND at its reset values for a partition of `n` dies (R269). -/
def defaultBound (n : Nat) : BitVec 64 := BitVec.ofNat 64 (4 + 8 * 2 ^ 16 + (2 ^ n - 1) * 2 ^ 32)

/-- Steps 1 to 3: the dies join, the key is drawn, schedules and registers take their values. -/
def State.joinPart (s : State) (r : ConfigureReq) (slot : Nat) : State :=
  let ds := maskDies r.mask
  let map := (mapIdxFrom (fun n d => (n, BitVec.ofNat 64 (d + 32))) 0 ds).foldl (fun m e => spSet m e.1 e.2) []
  let s1 := s.modPart r.part fun p =>
    { Part.init with configured := true, world := r.world, diemap := map, prank := r.rank,
                     pcap := BitVec.ofNat 64 (r.cap.toNat + r.quant.toNat * 2 ^ 16),
                     counters := p.counters, events := p.events, generations := p.generations }
  let join (a : State) (d : Nat) : State := a.modDie d fun x =>
    { x with part := some r.part, xsched := defaultSched ds d, xpending := [], xlast := [], xbound := defaultBound ds.length,
             backlog := 0, rounds := 0, marks := [],
             idlePorts := x.idlePorts &&& ~~~ BitVec.ofNat 4 (([1, 2, 3].filter fun p =>
               (neighbour d p).any fun e => ds.contains e).foldl (fun acc p => acc + 2 ^ p) 0) }
  (ds.foldl join s1).drawKey r.part slot

/-- An entry of a table. -/
def State.putEntry (s : State) (die table i v : Nat) : State :=
  { s with mem := writeLE s.mem (devKey die (table * 65536 + 8 * i)) 8 v }

/-- The next level's table behind an entry, taken from the free frames when there is none yet. -/
def State.nextTable (s : State) (free : List Nat) (die table i : Nat) : Option (State × List Nat × Nat) :=
  let x := readLE s.mem (devKey die (table * 65536 + 8 * i)) 8
  if x % 2 == 1 then some (s, free, bitsOf x 16 36)
  else
    match free with
    | f :: t => some (s.putEntry die table i (1 + f * 65536), t, f)
    | [] => none

/-- Enters an initial mapping into the tables under a root. -/
def enterMapping (die root : Nat) (st : Option (State × List Nat)) (m : CfgMapping) : Option (State × List Nat) :=
  st.bind fun (s, free) =>
    let page := m.iaPage.toNat
    (s.nextTable free die root (page / 2 ^ 24)).bind fun (s1, free1, t2) =>
      (s1.nextTable free1 die t2 (page / 2 ^ 12 % 2 ^ 12)).map fun (s2, free2, t3) =>
        (s2.putEntry die t3 (page % 2 ^ 12) (1 + 2 * bit1 m.host + m.frame.toNat * 65536), free2)

/-- The frame behind an IA page of the page-table span: what an initial mapping of the page gives; any other page is the frame of its own
number, as before there are tables (R386; DEDUCED, log 69). -/
def spanFrame (r : CfgDie) (page : Nat) : Option Nat :=
  match findFirst (fun m => m.iaPage.toNat == page) r.mappings with
  | some m => if m.host then none else some m.frame.toNat
  | none => some page

/-- Step 4 on one die: the span is scrubbed and given to world 0xFFF0, tables with the initial mappings are written in it,
and PTROOT publishes them; with EN 0 every page stays unmapped. -/
def State.configureTables (s : State) (die : Nat) (r : CfgDie) : Option State :=
  let pages := (upFrom r.tableBase.toNat r.tablePages).map (spanFrame r)
  let span := pages.filterMap id
  let root := field r.ptroot 16 36
  let on := r.ptroot.getLsbD 0
  let maps := if span.contains root then r.mappings else []
  if 64 < r.mappings.length || pages.contains none || (on && !span.contains root)
      || r.ptroot &&& ~~~0xFFFFFFFFF0001 != 0 || span.any (fun f => ((s.die die).frame f).owner != 0) then none
  else
    let s1 := span.foldl (fun acc f => (acc.zeroFrame die f).modDie die fun d =>
      d.modFrame f fun e => { e with owner := worldOperator, key := 1, scrubp := false }) s
    match maps.foldl (enterMapping die root) (some (s1, span.filter fun f => f != root)) with
    | none => none
    | some (s2, _) =>
      let s3 := s2.modDie die fun d => { d with ptroot := r.ptroot }
      let x := s3.publish die 0 (2 ^ 36)
      if x.2 == stOk then some x.1 else none

/-- A range image is entered and enabled (R326). -/
def enterRange (uid : Nat) (st : Option State) (x : Nat × BitVec 256) : Option State :=
  let reg (k : Nat) : BitVec 64 := BitVec.ofNat 64 (field x.2 (64 * k) 64)
  let step (w : State → CtlWrite) (o : Option State) : Option State := o.bind fun s =>
    match w s with
    | .done s1 st1 => if st1 == stOk then some s1 else none
    | _ => none
  step (fun s => s.writeRattr (s.ctx uid) x.1 (reg 3))
    (step (fun s => s.writeRange (s.ctx uid) x.1 2 (reg 2))
      (step (fun s => s.writeRange (s.ctx uid) x.1 1 (reg 1))
        (step (fun s => s.writeRange (s.ctx uid) x.1 0 (reg 0)) st)))

/-- Step 5 on one die: its initial operator context, placed as PLACE does, and its ranges. -/
def State.configureCtx (s : State) (part : Nat) (c : CfgContext) : Option State :=
  let x := c.descriptor.toNat
  let p := Placement.of x
  if p.auth != 0 || p.part != part || 16 < c.ranges.length || s.placeStatus c.handle.toNat x != stOk then none
  else
    (mapIdxFrom (fun n r => (n, r)) 0 c.ranges).foldl (enterRange s.nextId) (some (s.placeCtx c.handle p))

/-- The checks of CONFIGURE that need no step. -/
def State.configureOk (s : State) (r : ConfigureReq) : Bool :=
  let ds := maskDies r.mask
  decide (r.part < 24) && !(s.part r.part).configured && !ds.isEmpty && r.dies.length == ds.length
    && ds.all (fun d => (s.die d).dstate == 0 && (s.die d).boot == 6 && (s.die d).part.isNone)
    && decide (1 ≤ r.world.toNat) && decide (r.world.toNat ≤ 0xFFEF)
    && !s.parts.any (fun p => p.configured && p.world == r.world)
    && decide (8 ≤ r.quant.toNat) && decide (r.quant.toNat ≤ 1024)

/-- Steps 1 to 5 of R386 with a key slot; none where a table span, a descriptor or a range image fails its check. -/
def State.configureSteps (s : State) (r : ConfigureReq) (slot : Nat) : Option State :=
  let each := List.zip (maskDies r.mask) r.dies
  let tables := each.foldl (fun acc x => acc.bind fun a => a.configureTables x.1 x.2) (some (s.joinPart r slot))
  each.foldl (fun acc x => acc.bind fun a =>
    match x.2.context with
    | none => some a
    | some c => a.configureCtx r.part c) tables

/-- CONFIGURE's effect: BADARG comes before NOSPACE. -/
def State.configure (s : State) (r : ConfigureReq) : State × Nat × List Nat :=
  let slot := freeKeySlot ((maskDies r.mask).map s.die)
  if !s.configureOk r then (s, cfgBadArg, [])
  else
    match s.configureSteps r (slot.getD 3), slot with
    | none, _ => (s, cfgBadArg, [])
    | some _, none => (s, cfgNoSpace, [])
    | some a, some _ => (a.seeCauses.rebudget.seeCauses, cfgOk, [])

/-- Operand bytes of a CONFIGURE request. -/
def configureBytes (r : ConfigureReq) : List (BitVec 8) :=
  let mapping (m : CfgMapping) : List (BitVec 8) := leBytes 5 m.iaPage.toNat ++ leBytes 5 m.frame.toNat ++ leBytes 1 (bit1 m.host)
  let context (c : CfgContext) : List (BitVec 8) :=
    leBytes 4 c.handle.toNat ++ leBytes 256 c.descriptor.toNat ++ (c.ranges.map fun x => leBytes 32 x.toNat).flatten
  let die (d : CfgDie) : List (BitVec 8) :=
    leBytes 8 d.ptroot.toNat ++ leBytes 5 d.tableBase.toNat ++ leBytes 5 d.tablePages ++ (d.mappings.map mapping).flatten
      ++ (d.context.map context).getD []
  leBytes 1 r.part ++ leBytes 3 r.mask.toNat ++ leBytes 2 r.world.toNat ++ leBytes 1 r.rank.toNat ++ leBytes 2 r.cap.toNat
    ++ leBytes 2 r.quant.toNat ++ (r.dies.map die).flatten

/-- CONFIGURE. -/
def execConfigure (h : CfgHeader) (req : ConfigureReq) (s : State) : Result :=
  s.service 2 h (configureBytes req) fun a => a.configure req

/-! ## DISSOLVE (R387) -/

/-- Every context of a partition is unplaced. -/
def State.unplaceAll (s : State) (p : Nat) : State :=
  let cs := (s.ctxs.filter fun c => c.part == p).map Ctx.uid
  let s1 := cs.foldl (fun acc c => acc.resetCtx c) s
  { s1 with ctxs := s1.ctxs.filter fun c => c.part != p }

/-- A die returned to no partition: its frames released, its tables and views gone. -/
def Die.leavePart (d : Die) : Die :=
  { d with part := none, ptroot := 0, published := [], frames := mapWhere (fun e => e.owner != 0) FrameEntry.release d.frames,
           fmt := [], fmtPages := [], sectors := [], xsched := xschedReset, xpending := [], xlast := [], xbound := xboundReset, backlog := 0,
           rounds := 0, marks := [], measured := none }

/-- Host pages of evacuation that a partition's dies name. -/
def State.evacuatedOf (s : State) (p : Nat) : List Nat :=
  (s.diesOf p).flatMap fun d => (s.die d).published.filterMap fun m => match m.spot d with
    | (some h, f) => if h == evacDie then some f else none
    | (none, _) => none

/-- DISSOLVE's effect: no data of the partition's world survives, its tagged messages on their way among it. -/
def State.dissolve (s : State) (p : Nat) : State × Nat × List Nat :=
  if !(decide (p < 24) && (s.part p).configured) then (s, cfgBadArg, [])
  else
    let s1 := (s.enterError p).unplaceAll p
    let s2' := (s1.diesOf p).foldl (fun acc d => acc.dropPages d 0 (2 ^ 36) (acc.die d).published) s1
    let s2 := s2'.eraseKey p
    let hosts := s2.evacuatedOf p
    let s3 : State := { s2 with dies := s2.dies.map fun d => if d.part == some p then d.leavePart else d,
                                lines := s2.lines.filter fun l => l.part != p,
                                msgs := s2.msgs.filter fun m => m.world != (s.part p).world,
                                hostFrames := mapWhere (fun e => hosts.contains e.frame) FrameEntry.release s2.hostFrames }
    let s4 := s3.modPart p fun x =>
      { Part.init with counters := x.counters, events := x.events, generations := x.generations }
    (s4.seeCauses.rebudget.seeCauses, cfgOk, [])

/-- DISSOLVE. -/
def execDissolve (h : CfgHeader) (part : Nat) (s : State) : Result :=
  s.service 3 h (leBytes 1 part) fun a => a.dissolve part

end Sys2Proof.Machine
end

