-- ==== Sys2Proof/Machine/Trust.lean ====
section
/-!
DEFINITION. Attestation and the partition interface: SPDM (R365 to R369) and TDISP (R371 to R375). Response and error
codes are those of the SPDM and TDISP standards that R365 and R371 name.
-/
namespace Sys2Proof.Machine

/-! ## Measurements (R366) -/

/-- Values that measurement index 8 covers: partition, DIEMAP, windows, XBOUND, FMTV and FMTH, the interface lock word. -/
def State.configBytes (s : State) (die : Nat) : List (BitVec 8) :=
  let d := s.die die
  let fmt := ((upFrom 0 16).map fun n => leBytes 8 (spGet d.fmt (0x100 + n)).toNat).flatten
  match d.part with
  | none => leBytes 1 31 ++ leBytes 8 d.xbound.toNat ++ fmt
  | some p =>
    let x := s.part p
    let map := ((upFrom 0 24).map fun n => leBytes 8 (spGet x.diemap n).toNat).flatten
    let cs := s.ctxsOn die
    let wins := (cs.map fun c => ((upFrom 0x60 16).map fun i => leBytes 8 (c.reg i).toNat).flatten).flatten
    leBytes 1 p ++ map ++ wins ++ leBytes 8 d.xbound.toNat ++ fmt ++ leBytes 4 (bit1 x.locked) ++ leBytes 4 x.locks.toNat

/-- The retirement map as bytes. -/
def retiredBytes (r : Retired) : List (BitVec 8) :=
  match r with
  | .row => [1]
  | .bank c b => [2] ++ leBytes 1 c ++ leBytes 1 b
  | .slice n => [3] ++ leBytes 1 n
  | .core n => [4] ++ leBytes 1 n
  | .lane p l => [5] ++ leBytes 1 p ++ leBytes 1 l
  | .link p => [6] ++ leBytes 1 p
  | .stack _ => []

/-- Measurement block i of a die, 48 bytes. -/
def State.measurement (s : State) (die i : Nat) : BitVec 384 :=
  if i == 8 then (s.die die).measured.getD (leNum 384 (sha384 (s.configBytes die)))
  else if i == 9 then s.debugWord.setWidth 384
  else if i == 10 then leNum 384 (sha384 (((s.die die).retired.map retiredBytes).flatten))
  else Config.measurement die i
/-- A block as bytes: index 9 is raw and of 8 bytes. -/
def State.measurementBytes (s : State) (die i : Nat) : List (BitVec 8) :=
  leBytes (if i == 9 then 8 else 48) (s.measurement die i).toNat

/-! ## SPDM (R365, R367, R368) -/

def spdmError : BitVec 8 := 0x7F
def errInvalid : BitVec 8 := 0x01
def errBusy : BitVec 8 := 0x03
def errUnexpected : BitVec 8 := 0x04
def errUnsupported : BitVec 8 := 0x07

/-- A response: its code and its bytes. -/
abbrev Reply := BitVec 8 × List (BitVec 8)
def refused (e : BitVec 8) : Reply := (spdmError, [e])

/-- Does a request of a transport reach Percale: the die has booted, its link is up, and the window's response buffer is
free (R368). -/
def State.spdmHears (s : State) (die : Nat) (t : Transport) : Bool :=
  (s.die die).boot == 6 &&
    match t with
    | .window => s.hostUp die && (s.die die).response.isEmpty
    | .message => s.hostUp die
    | .management => true

/-- Signed responses that were awaited may have gone out by now, and rewrites may have ended; which have is free
(DEDUCED, log 71). -/
def State.settleSlots (s : State) (die : Nat) : State :=
  let free (n : Nat) : Bool := Config.free (s.draws + n) % 2 == 0
  (s.modDie die fun d =>
    { d with certs := d.certs.map fun c => { c with awaited := c.awaited && free c.slot, rewriting := c.rewriting && free (8 + c.slot) } }).drawn

/-- Bytes of the window's request and response buffers (R368). -/
def windowBytes : Nat := 0x7F0
/-- A response as a transport carries it: over the window, what its buffer holds (DEDUCED, log 71). -/
def Reply.carried (r : Reply) (t : Transport) : Reply := if t == .window then (r.1, r.2.take (windowBytes - 1)) else r
/-- A response leaves; over the window it fills the response buffer. -/
def State.respond (s : State) (die : Nat) (t : Transport) (r : Reply) : State :=
  if t == .window then s.modDie die fun d => { d with response := r.1 :: r.2 } else s

/-- Does a request reach Percale whole: over the window it fills the request buffer, and a longer one cannot be submitted (R368). -/
def State.takes (s : State) (die : Nat) (t : Transport) (req : List (BitVec 8)) : Bool :=
  s.spdmHears die t && (t != .window || decide (req.length ≤ windowBytes))
/-- The request buffer after it. -/
def State.submit (s : State) (die : Nat) (t : Transport) (req : List (BitVec 8)) : State :=
  if t == .window then s.modDie die fun d => { d with request := req } else s

/-- A request of SPDM, its bytes being its code and what it carries (R365): what it changes, and its response. -/
def State.spdm (s : State) (die : Nat) (t : Transport) (req : List (BitVec 8)) (f : State → State × Reply) : Result :=
  s.outside fun _ =>
    if !s.takes die t req then s
    else
      let r := f ((s.submit die t req).settleSlots die)
      let y := r.2.carried t
      let s1 := r.1.respond die t y
      { s1 with answers := s1.answers ++ [.spdm die t y.1 y.2] }

/-- A response whose content the standard gives. -/
def standard (die k : Nat) (code : BitVec 8) (s : State) : State × Reply := (s, code, Config.standardBody die k)

/-- GET_VERSION. -/
def execGetVersion (die : Nat) (t : Transport) (s : State) : Result := s.spdm die t [0x84] (standard die 0 0x04)
/-- GET_CAPABILITIES. -/
def execGetCapabilities (die : Nat) (t : Transport) (s : State) : Result := s.spdm die t [0xE1] (standard die 1 0x61)
/-- NEGOTIATE_ALGORITHMS. -/
def execNegotiateAlgorithms (die : Nat) (t : Transport) (s : State) : Result := s.spdm die t [0xE3] (standard die 2 0x63)

/-- A certificate slot. -/
def Die.cert (d : Die) (n : Nat) : Option CertSlot := findFirst (fun c => c.slot == n) d.certs
/-- The chain of a slot: slot 0 holds the identity chain (R367). -/
def State.chain (s : State) (die n : Nat) : Option (List (BitVec 8)) :=
  if n == 0 then some (Config.identityChain die) else ((s.die die).cert n).bind fun c => if c.chain.isEmpty then none else some c.chain
/-- Changes a slot. -/
def Die.modCert (d : Die) (n : Nat) (f : CertSlot → CertSlot) : Die :=
  let c := (d.cert n).getD { slot := n, chain := [], rewriting := false, awaited := false }
  { d with certs := f c :: d.certs.filter fun x => x.slot != n }
/-- Is a rewrite of a slot in progress. -/
def State.rewriting (s : State) (die n : Nat) : Bool := ((s.die die).cert n).any CertSlot.rewriting
/-- Does a signed response that names a slot stand out. -/
def State.awaiting (s : State) (die n : Nat) : Bool := ((s.die die).cert n).any CertSlot.awaited

/-- GET_DIGESTS: the digest of every filled slot. -/
def execGetDigests (die : Nat) (t : Transport) (s : State) : Result :=
  s.spdm die t ([0x81]) fun a =>
    let one (n : Nat) : List (BitVec 8) :=
      match a.chain die n with
      | none => []
      | some c => sha384 c
    (a, 0x01, ((upFrom 0 8).map one).flatten)

/-- GET_CERTIFICATE: a portion of a chain. -/
def execGetCertificate (die : Nat) (t : Transport) (slot : BitVec 3) (off len : Nat) (s : State) : Result :=
  s.spdm die t (0x82 :: leBytes 1 slot.toNat ++ leBytes 2 off ++ leBytes 2 len) fun a =>
    match a.chain die slot.toNat with
    | none => (a, refused errInvalid)
    | some c => if c.length ≤ off then (a, refused errInvalid) else (a, 0x02, (c.drop off).take len)

/-- A signed response that covers the requester's nonce; until it has gone out the slot may not be rewritten (R367). -/
def State.signedReply (s : State) (die slot : Nat) (code : BitVec 8) (body : List (BitVec 8)) (nonce : BitVec 256) :
    State × Reply :=
  if s.rewriting die slot then (s, refused errBusy)
  else if (s.chain die slot).isNone then (s, refused errInvalid)
  else
    let text := body ++ leBytes 32 nonce.toNat
    (s.modDie die fun d => d.modCert slot fun c => { c with awaited := true }, code, text ++ Config.signature die text)

/-- CHALLENGE. -/
def execChallenge (die : Nat) (t : Transport) (slot : BitVec 3) (nonce : BitVec 256) (s : State) : Result :=
  s.spdm die t (0x83 :: leBytes 1 slot.toNat ++ leBytes 32 nonce.toNat) fun a =>
    a.signedReply die slot.toNat 0x03 (((a.chain die slot.toNat).map sha384).getD []) nonce

/-- The body of GET_MEASUREMENTS: index 0 gives the number of blocks, 0xFF all of them, else one block; 11 to 15 and every
other index are invalid (R366). -/
def State.measurementBody (s : State) (die i : Nat) : Option (List (BitVec 8)) :=
  if i == 0 then some (leBytes 1 10)
  else if i == 0xFF then some (((upFrom 1 10).map (s.measurementBytes die)).flatten)
  else if i ≤ 10 then some (s.measurementBytes die i)
  else none

/-- GET_MEASUREMENTS: one snapshot, at acceptance. -/
def execGetMeasurements (die : Nat) (t : Transport) (sign : Option (BitVec 3 × BitVec 256)) (index : BitVec 8) (s : State) :
    Result :=
  s.spdm die t (0xE0 :: index :: (sign.map fun x => leBytes 1 x.1.toNat ++ leBytes 32 x.2.toNat).getD []) fun a =>
    match a.measurementBody die index.toNat, sign with
    | none, _ => (a, refused errInvalid)
    | some b, none => (a, 0x60, b)
    | some b, some (slot, nonce) => a.signedReply die slot.toNat 0x60 b nonce

/-- KEY_EXCHANGE: a session opens, not yet established. The response carries the session, the die's exchange data, and a
signature over both sides' data and the requester's nonce (R365). -/
def execKeyExchange (die : Nat) (t : Transport) (req : KeyExchangeReq) (s : State) : Result :=
  s.spdm die t (0xE4 :: leBytes 1 req.slot.toNat ++ leBytes 32 req.nonce.toNat ++ req.exchange) fun a =>
    if (a.chain die req.slot.toNat).isNone then (a, refused errInvalid)
    else
      let x : Session := { id := a.nextId, transport := t, established := false, bound := none }
      let own := leBytes 4 a.nextId ++ Config.standardBody die 3 ++ leBytes 32 (Config.random a.draws).toNat
      let text := req.exchange ++ leBytes 32 req.nonce.toNat ++ own
      ((a.modDie die fun d => { d with sessions := d.sessions ++ [x] }).numbered.drawn, 0x64, own ++ Config.signature die text)

/-- Has a die a session of a transport. -/
def State.hasSession (s : State) (die : Nat) (t : Transport) (id : Nat) (done : Bool) : Bool :=
  (s.die die).sessions.any fun x => x.id == id && x.transport == t && x.established == done

/-- FINISH: the session is established. -/
def execFinish (die : Nat) (t : Transport) (session : Nat) (s : State) : Result :=
  s.spdm die t (0xE5 :: leBytes 4 session) fun a =>
    if !a.hasSession die t session false then (a, refused errUnexpected)
    else
      (a.modDie die fun d => { d with sessions := mapWhere (fun x => x.id == session) (fun x => { x with established := true }) d.sessions },
        0x65, [])

/-- END_SESSION. -/
def execEndSession (die : Nat) (t : Transport) (session : Nat) (s : State) : Result :=
  s.spdm die t (0xEC :: leBytes 4 session) fun a =>
    if !a.hasSession die t session true then (a, refused errUnexpected)
    else (a.modDie die fun d => { d with sessions := d.sessions.filter fun x => x.id != session }, 0x6C, [])

/-- SET_CERTIFICATE, inside a secure session, to slots 1 to 7 (R367). -/
def execSetCertificate (die : Nat) (t : Transport) (session : Nat) (slot : BitVec 3) (chain : List (BitVec 8)) (s : State) :
    Result :=
  s.spdm die t (0xEE :: leBytes 4 session ++ leBytes 1 slot.toNat ++ chain) fun a =>
    let n := slot.toNat
    if !a.hasSession die t session true then (a, refused errUnexpected)
    else if n == 0 then (a, refused errInvalid)
    else if a.awaiting die n then (a, refused errBusy)
    else (a.modDie die fun d => d.modCert n fun c => { c with chain := chain, rewriting := true }, 0x6E, leBytes 1 n)

/-- Any other request. -/
def execSpdmUnsupportedRequest (die : Nat) (t : Transport) (code : BitVec 8) (s : State) : Result :=
  s.spdm die t ([code]) fun a => (a, spdmError, [errUnsupported, code])

/-- SPDM_RESPONSE_RELEASE: the host frees the response buffer; the response in it had gone out. -/
def execSpdmResponseRelease (die : Nat) (s : State) : Result :=
  s.outside fun _ =>
    if (s.die die).boot == 6 && s.hostUp die then
      s.modDie die fun d =>
        { d with response := [], certs := d.certs.map fun c => if d.response.isEmpty then c else { c with awaited := false } }
    else s

/-! ## TDISP (R371 to R375) -/

/-- A TDISP message inside an established session of a die, over the session's transport (R368). -/
def State.tdisp (s : State) (die session : Nat) (req : List (BitVec 8)) (f : State → State × Reply) : Result :=
  s.outside fun _ =>
    match findFirst (fun x => x.id == session && x.established) (s.die die).sessions with
    | none => s
    | some x =>
      if !s.takes die x.transport req then s
      else
        let r := f (s.submit die x.transport req)
        let y := r.2.carried x.transport
        let s1 := r.1.respond die x.transport y
        { s1 with answers := s1.answers ++ [.tdisp die session y.1 y.2] }

def tdispError : BitVec 8 := 0x7F
/-- Error codes: invalid interface state, invalid nonce, unsupported request, invalid request. -/
def tdispState : BitVec 8 := 0x04
def tdispNonce : BitVec 8 := 0x02
def tdispUnsupported : BitVec 8 := 0x07
def tdispInvalid : BitVec 8 := 0x01
def tdispRefused (e : BitVec 8) : Reply := (tdispError, [e])

/-- A message to the interface of a configured partition. -/
def State.tdispPart (s : State) (die session part : Nat) (req : List (BitVec 8)) (f : State → State × Reply) : Result :=
  s.tdisp die session (req ++ leBytes 1 part) fun a =>
    if !(a.part part).configured then (a, tdispRefused tdispInvalid) else f a

/-- GET_TDISP_VERSION. -/
def execGetTdispVersion (die session : Nat) (s : State) : Result := s.tdisp die session [0x81] (standard die 4 0x01)
/-- GET_TDISP_CAPABILITIES. -/
def execGetTdispCapabilities (die session : Nat) (s : State) : Result := s.tdisp die session [0x82] (standard die 5 0x02)

/-- The lock: the nonce is drawn, the session is bound to the world, and index 8 is fixed (R371, R369, R366). -/
def State.lockInterface (s : State) (die session part : Nat) : State × Reply :=
  let p := s.part part
  if p.ifstate != .unlocked || !(s.diesOf part).all (fun d => (s.die d).dstate == 0) then (s, tdispRefused tdispState)
  else
    let nonce := Config.random s.draws
    let s1 := s.modPart part fun x =>
      { x with ifstate := .locked, locks := x.locks + 1, nonce := nonce, boundSession := some session }
    let s2 := s1.modDie die fun d =>
      { d with sessions := mapWhere (fun y => y.id == session) (fun y => { y with bound := some p.world.toNat }) d.sessions }
    let s3 := (s2.diesOf part).foldl (fun acc e => acc.modDie e fun d => { d with measured := some (s2.measurement e 8) }) s2
    (s3.drawn, 0x03, leBytes 32 nonce.toNat)

/-- LOCK_INTERFACE_REQUEST. -/
def execLockInterfaceRequest (die session part : Nat) (s : State) : Result :=
  s.tdispPart die session part ([0x83]) fun a => a.lockInterface die session part

/-- START_INTERFACE_REQUEST: it carries the lock response's nonce. -/
def execStartInterfaceRequest (die session part : Nat) (nonce : BitVec 256) (s : State) : Result :=
  s.tdispPart die session part (0x86 :: leBytes 32 nonce.toNat) fun a =>
    if (a.part part).ifstate != .locked then (a, tdispRefused tdispState)
    else if (a.part part).nonce != nonce then (a, tdispRefused tdispNonce)
    else (a.modPart part fun x => { x with ifstate := .run }, 0x06, [])

/-- The slot of a partition's world: the one it held, or the lowest free one. -/
def State.worldSlot (s : State) (part : Nat) : Nat :=
  match findFirst (fun k => k.world == (s.part part).world) ((s.die (((s.part part).phys 0).getD 0)).keys) with
  | some k => k.slot
  | none => (freeKeySlot ((s.diesOf part).map s.die)).getD 3

/-- The interface returns to CONFIG_UNLOCKED and a new key is drawn (R370, R371). -/
def State.unlockInterface (s : State) (part slot : Nat) : State :=
  let s1 := s.modPart part fun x => { x with ifstate := .unlocked, boundSession := none }
  ((s1.diesOf part).foldl (fun acc d => acc.modDie d fun x => { x with measured := none }) s1).drawKey part slot

/-- STOP_INTERFACE_REQUEST. -/
def execStopInterfaceRequest (die session part : Nat) (s : State) : Result :=
  s.tdispPart die session part ([0x87]) fun a =>
    if (a.part part).ifstate == .unlocked then (a, tdispRefused tdispState)
    else
      let slot := a.worldSlot part
      ((a.enterError part).unlockInterface part slot, 0x07, [])

/-- GET_DEVICE_INTERFACE_STATE. -/
def execGetDeviceInterfaceState (die session part : Nat) (s : State) : Result :=
  s.tdispPart die session part ([0x85]) fun a => (a, 0x05, leBytes 1 ((a.part part).ifst.toNat % 4))

/-- Window pairs of a world on a die, in ascending IAB, at most 32 (R374). -/
def State.windowPairs (s : State) (die : Nat) (world : BitVec 16) : List (BitVec 64 × BitVec 64) :=
  let of (c : Ctx) : List (BitVec 64 × BitVec 64) :=
    ((upFrom 0 8).filter c.windowOn).map fun m => (c.reg (0x60 + 2 * m), c.reg (0x61 + 2 * m))
  let all := (((s.ctxsOn die).filter fun c => c.world == world).map of).flatten
  (sortBy (fun a b => decide (field a.1 16 36 ≤ field b.1 16 36)) all).take 32

/-- The block of a die in the report. -/
def State.reportBlock (s : State) (part die : Nat) : List (BitVec 8) :=
  let d := s.die die
  let ws := s.windowPairs die (s.part part).world
  let pairs := (ws.map fun w => leBytes 8 w.1.toNat ++ leBytes 8 w.2.toNat).flatten
  leBytes 16 die ++ leBytes 16 d.xbound.toNat
    ++ ((upFrom 0 16).map fun n => leBytes 8 (spGet d.fmt (0x100 + n)).toNat).flatten
    ++ leBytes 16 ws.length ++ pairs ++ List.replicate (512 - pairs.length) 0
    ++ ((upFrom 1 10).map fun i => leBytes 48 (s.measurement die i).toNat).flatten
    ++ List.replicate 112 0

/-- The device-specific area of the interface report (R374). -/
def State.report (s : State) (part : Nat) : List (BitVec 8) :=
  let p := s.part part
  leBytes 4 0x31524649 ++ leBytes 2 1 ++ leBytes 1 part ++ leBytes 1 p.ndie ++ leBytes 8 p.locks.toNat
    ++ leBytes 8 p.keygen.toNat ++ leBytes 8 0
    ++ (p.resolve.map fun d => s.reportBlock part d).flatten

/-- GET_DEVICE_INTERFACE_REPORT: a portion, by offset and length. -/
def execGetDeviceInterfaceReport (die session part off len : Nat) (s : State) : Result :=
  s.tdispPart die session part (0x84 :: leBytes 2 off ++ leBytes 2 len) fun a =>
    let r := a.report part
    if r.length ≤ off then (a, tdispRefused tdispInvalid) else (a, 0x04, (r.drop off).take len)

/-- Any other TDISP request. -/
def execTdispUnsupportedRequest (die session : Nat) (code : BitVec 8) (s : State) : Result :=
  s.tdisp die session [code] fun a => (a, tdispError, [tdispUnsupported, code])

end Sys2Proof.Machine
end

