-- ==== Sys2Proof/Machine/Dispatch.lean ====
section
/-! DEFINITION. What each instruction does: one arm per constructor of `Instr`, each one call of its meaning. -/
namespace Sys2Proof.Machine

def exec (i : Instr) (s : State) : Host.Outcome State Fault Refusal :=
  match i with
  | .iadd d a b => Sys2Proof.Machine.execIadd d a b s
  | .isub d a b => Sys2Proof.Machine.execIsub d a b s
  | .iminS d a b => Sys2Proof.Machine.execIminS d a b s
  | .imaxS d a b => Sys2Proof.Machine.execImaxS d a b s
  | .iminN d a b => Sys2Proof.Machine.execIminN d a b s
  | .imaxN d a b => Sys2Proof.Machine.execImaxN d a b s
  | .iabsd d a b => Sys2Proof.Machine.execIabsd d a b s
  | .ipopc d a => Sys2Proof.Machine.execIpopc d a s
  | .iand d a b => Sys2Proof.Machine.execIand d a b s
  | .ior d a b => Sys2Proof.Machine.execIor d a b s
  | .ixor d a b => Sys2Proof.Machine.execIxor d a b s
  | .iandn d a b => Sys2Proof.Machine.execIandn d a b s
  | .ishl d a b => Sys2Proof.Machine.execIshl d a b s
  | .ishr d a b => Sys2Proof.Machine.execIshr d a b s
  | .isar d a b => Sys2Proof.Machine.execIsar d a b s
  | .irot d a b => Sys2Proof.Machine.execIrot d a b s
  | .imul d a b => Sys2Proof.Machine.execImul d a b s
  | .imulhiS d a b => Sys2Proof.Machine.execImulhiS d a b s
  | .imulhiN d a b => Sys2Proof.Machine.execImulhiN d a b s
  | .imad d a b => Sys2Proof.Machine.execImad d a b s
  | .iclz d a => Sys2Proof.Machine.execIclz d a s
  | .ibrev d a => Sys2Proof.Machine.execIbrev d a s
  | .ibfx d a b => Sys2Proof.Machine.execIbfx d a b s
  | .ibfi d a b => Sys2Proof.Machine.execIbfi d a b s
  | .icmpSEq p a b => Sys2Proof.Machine.execIcmpSEq p a b s
  | .icmpSNe p a b => Sys2Proof.Machine.execIcmpSNe p a b s
  | .icmpSLt p a b => Sys2Proof.Machine.execIcmpSLt p a b s
  | .icmpSLe p a b => Sys2Proof.Machine.execIcmpSLe p a b s
  | .icmpNEq p a b => Sys2Proof.Machine.execIcmpNEq p a b s
  | .icmpNNe p a b => Sys2Proof.Machine.execIcmpNNe p a b s
  | .icmpNLt p a b => Sys2Proof.Machine.execIcmpNLt p a b s
  | .icmpNLe p a b => Sys2Proof.Machine.execIcmpNLe p a b s
  | .psub d a b g => Sys2Proof.Machine.execPsub d a b g s
  | .padd d a b g => Sys2Proof.Machine.execPadd d a b g s
  | .pmov d a b g => Sys2Proof.Machine.execPmov d a b g s
  | .pand d a b => Sys2Proof.Machine.execPand d a b s
  | .por d a b => Sys2Proof.Machine.execPor d a b s
  | .pxor d a b => Sys2Proof.Machine.execPxor d a b s
  | .pandn d a b => Sys2Proof.Machine.execPandn d a b s
  | .iaddi d a i_ => Sys2Proof.Machine.execIaddi d a i_ s
  | .iandi d a i_ => Sys2Proof.Machine.execIandi d a i_ s
  | .ishli d a n => Sys2Proof.Machine.execIshli d a n s
  | .ishri d a n => Sys2Proof.Machine.execIshri d a n s
  | .isari d a n => Sys2Proof.Machine.execIsari d a n s
  | .iroti d a n => Sys2Proof.Machine.execIroti d a n s
  | .icmpi c p a i_ => Sys2Proof.Machine.execIcmpi c p a i_ s
  | .movi d i_ => Sys2Proof.Machine.execMovi d i_ s
  | .movhi d i_ => Sys2Proof.Machine.execMovhi d i_ s
  | .srd d i_ => Sys2Proof.Machine.execSrd d i_ s
  | .tidx d a b => Sys2Proof.Machine.execTidx d a b s
  | .fadd d a b => Sys2Proof.Machine.execFadd d a b s
  | .fsub d a b => Sys2Proof.Machine.execFsub d a b s
  | .fmul d a b => Sys2Proof.Machine.execFmul d a b s
  | .ffma d a b => Sys2Proof.Machine.execFfma d a b s
  | .fmin d a b => Sys2Proof.Machine.execFmin d a b s
  | .fmax d a b => Sys2Proof.Machine.execFmax d a b s
  | .ffmsub d a b => Sys2Proof.Machine.execFfmsub d a b s
  | .ffnma d a b => Sys2Proof.Machine.execFfnma d a b s
  | .fabs d a => Sys2Proof.Machine.execFabs d a s
  | .fneg d a => Sys2Proof.Machine.execFneg d a s
  | .fcpsgn d a b => Sys2Proof.Machine.execFcpsgn d a b s
  | .fnabs d a => Sys2Proof.Machine.execFnabs d a s
  | .fcmpEq p a b => Sys2Proof.Machine.execFcmpEq p a b s
  | .fcmpLt p a b => Sys2Proof.Machine.execFcmpLt p a b s
  | .fcmpLe p a b => Sys2Proof.Machine.execFcmpLe p a b s
  | .fcmpUnord p a b => Sys2Proof.Machine.execFcmpUnord p a b s
  | .fdiv d a b => Sys2Proof.Machine.execFdiv d a b s
  | .fsqrt d a => Sys2Proof.Machine.execFsqrt d a s
  | .frcp d a => Sys2Proof.Machine.execFrcp d a s
  | .frsq d a => Sys2Proof.Machine.execFrsq d a s
  | .fexp2 d a => Sys2Proof.Machine.execFexp2 d a s
  | .flog2 d a => Sys2Proof.Machine.execFlog2 d a s
  | .ftanh d a => Sys2Proof.Machine.execFtanh d a s
  | .fsigm d a => Sys2Proof.Machine.execFsigm d a s
  | .fsin d a => Sys2Proof.Machine.execFsin d a s
  | .fcos d a => Sys2Proof.Machine.execFcos d a s
  | .fsint d a => Sys2Proof.Machine.execFsint d a s
  | .fcost d a => Sys2Proof.Machine.execFcost d a s
  | .frndRne d a => Sys2Proof.Machine.execFrndRne d a s
  | .frndRtz d a => Sys2Proof.Machine.execFrndRtz d a s
  | .frndFloor d a => Sys2Proof.Machine.execFrndFloor d a s
  | .frndCeil d a => Sys2Proof.Machine.execFrndCeil d a s
  | .cvtF32I32 d a => Sys2Proof.Machine.execCvtF32I32 d a s
  | .cvtF32N32 d a => Sys2Proof.Machine.execCvtF32N32 d a s
  | .cvtI32F32 d a => Sys2Proof.Machine.execCvtI32F32 d a s
  | .cvtN32F32 d a => Sys2Proof.Machine.execCvtN32F32 d a s
  | .unpkBf16lo d a => Sys2Proof.Machine.execUnpkBf16lo d a s
  | .unpkBf16hi d a => Sys2Proof.Machine.execUnpkBf16hi d a s
  | .packBf16 d a b => Sys2Proof.Machine.execPackBf16 d a b s
  | .packF16 d a b => Sys2Proof.Machine.execPackF16 d a b s
  | .unpkE4m3 d a => Sys2Proof.Machine.execUnpkE4m3 d a s
  | .unpkE5m2 d a => Sys2Proof.Machine.execUnpkE5m2 d a s
  | .pkE4m3 d a => Sys2Proof.Machine.execPkE4m3 d a s
  | .pkE5m2 d a => Sys2Proof.Machine.execPkE5m2 d a s
  | .jseedSeed d a b => Sys2Proof.Machine.execJseedSeed d a b s
  | .jseedConst d a => Sys2Proof.Machine.execJseedConst d a s
  | .jseedCopy d a => Sys2Proof.Machine.execJseedCopy d a s
  | .jget d a c => Sys2Proof.Machine.execJget d a c s
  | .jput d a c => Sys2Proof.Machine.execJput d a c s
  | .jflgRd d c => Sys2Proof.Machine.execJflgRd d c s
  | .jflgRc d c => Sys2Proof.Machine.execJflgRc d c s
  | .jflgClr d c => Sys2Proof.Machine.execJflgClr d c s
  | .ballot d p => Sys2Proof.Machine.execBallot d p s
  | .any d p => Sys2Proof.Machine.execAny d p s
  | .all d p => Sys2Proof.Machine.execAll d p s
  | .count d p => Sys2Proof.Machine.execCount d p s
  | .reduxIadd d a => Sys2Proof.Machine.execReduxIadd d a s
  | .reduxIminS d a => Sys2Proof.Machine.execReduxIminS d a s
  | .reduxImaxS d a => Sys2Proof.Machine.execReduxImaxS d a s
  | .reduxOr d a => Sys2Proof.Machine.execReduxOr d a s
  | .scanIadd d a => Sys2Proof.Machine.execScanIadd d a s
  | .scanFadd d a => Sys2Proof.Machine.execScanFadd d a s
  | .scanImaxS d a => Sys2Proof.Machine.execScanImaxS d a s
  | .scanIaddExcl d a => Sys2Proof.Machine.execScanIaddExcl d a s
  | .ldG d x b c z => Sys2Proof.Machine.execLdG d x b c z s
  | .stG d x b c z => Sys2Proof.Machine.execStG d x b c z s
  | .ldS d x b z => Sys2Proof.Machine.execLdS d x b z s
  | .stS d x b c z => Sys2Proof.Machine.execStS d x b c z s
  | .ldth d x b z => Sys2Proof.Machine.execLdth d x b z s
  | .ljoin d x b c z => Sys2Proof.Machine.execLjoin d x b c z s
  | .atomAdd d x b o w => Sys2Proof.Machine.execAtomAdd d x b o w s
  | .atomMinS d x b o w => Sys2Proof.Machine.execAtomMinS d x b o w s
  | .atomMaxS d x b o w => Sys2Proof.Machine.execAtomMaxS d x b o w s
  | .atomMinN d x b o w => Sys2Proof.Machine.execAtomMinN d x b o w s
  | .atomMaxN d x b o w => Sys2Proof.Machine.execAtomMaxN d x b o w s
  | .atomAnd d x b o w => Sys2Proof.Machine.execAtomAnd d x b o w s
  | .atomOr d x b o w => Sys2Proof.Machine.execAtomOr d x b o w s
  | .atomXor d x b o w => Sys2Proof.Machine.execAtomXor d x b o w s
  | .atomExch d x b o w => Sys2Proof.Machine.execAtomExch d x b o w s
  | .atomCas d x b o w => Sys2Proof.Machine.execAtomCas d x b o w s
  | .atomFadd d x b o => Sys2Proof.Machine.execAtomFadd d x b o s
  | .atomFmax d x b o => Sys2Proof.Machine.execAtomFmax d x b o s
  | .qpop d t s_ q => Sys2Proof.Machine.execQpop d t s_ q s
  | .qpush d t s_ q => Sys2Proof.Machine.execQpush d t s_ q s
  | .br p n i_ => Sys2Proof.Machine.execBr p n i_ s
  | .call i_ => Sys2Proof.Machine.execCall i_ s
  | .jmpi a => Sys2Proof.Machine.execJmpi a s
  | .calli a => Sys2Proof.Machine.execCalli a s
  | .loop a c i_ => Sys2Proof.Machine.execLoop a c i_ s
  | .trap i_ => Sys2Proof.Machine.execTrap i_ s
  | .barArrive b => Sys2Proof.Machine.execBarArrive b s
  | .barWait b => Sys2Proof.Machine.execBarWait b s
  | .barSync b => Sys2Proof.Machine.execBarSync b s
  | .fence c s_ k r => Sys2Proof.Machine.execFence c s_ k r s
  | .mmaRr d a b t z => Sys2Proof.Machine.execMmaRr d a b t z s
  | .mmaRs d a b t z => Sys2Proof.Machine.execMmaRs d a b t z s
  | .mmaSs d a b t z => Sys2Proof.Machine.execMmaSs d a b t z s
  | .maccZero d => Sys2Proof.Machine.execMaccZero d s
  | .maccBf16 d a => Sys2Proof.Machine.execMaccBf16 d a s
  | .maccE4m3 d a => Sys2Proof.Machine.execMaccE4m3 d a s
  | .maccScale d b => Sys2Proof.Machine.execMaccScale d b s
  | .sadd d a b => Sys2Proof.Machine.execSadd d a b s
  | .ssub d a b => Sys2Proof.Machine.execSsub d a b s
  | .smul d a b => Sys2Proof.Machine.execSmul d a b s
  | .smulhiS d a b => Sys2Proof.Machine.execSmulhiS d a b s
  | .smulhiN d a b => Sys2Proof.Machine.execSmulhiN d a b s
  | .sand d a b => Sys2Proof.Machine.execSand d a b s
  | .sor d a b => Sys2Proof.Machine.execSor d a b s
  | .sxor d a b => Sys2Proof.Machine.execSxor d a b s
  | .sandn d a b => Sys2Proof.Machine.execSandn d a b s
  | .sshlv d a b => Sys2Proof.Machine.execSshlv d a b s
  | .sshrv d a b => Sys2Proof.Machine.execSshrv d a b s
  | .ssarv d a b => Sys2Proof.Machine.execSsarv d a b s
  | .sminS d a b => Sys2Proof.Machine.execSminS d a b s
  | .smaxS d a b => Sys2Proof.Machine.execSmaxS d a b s
  | .sminN d a b => Sys2Proof.Machine.execSminN d a b s
  | .smaxN d a b => Sys2Proof.Machine.execSmaxN d a b s
  | .sclz d a => Sys2Proof.Machine.execSclz d a s
  | .spopc d a => Sys2Proof.Machine.execSpopc d a s
  | .srotv d a b => Sys2Proof.Machine.execSrotv d a b s
  | .sctz d a => Sys2Proof.Machine.execSctz d a s
  | .sbrev d a => Sys2Proof.Machine.execSbrev d a s
  | .smov d a => Sys2Proof.Machine.execSmov d a s
  | .scmp d a b c => Sys2Proof.Machine.execScmp d a b c s
  | .saddi d a i_ => Sys2Proof.Machine.execSaddi d a i_ s
  | .sandi d a i_ => Sys2Proof.Machine.execSandi d a i_ s
  | .sori d a i_ => Sys2Proof.Machine.execSori d a i_ s
  | .sshli d a n => Sys2Proof.Machine.execSshli d a n s
  | .sshri d a n => Sys2Proof.Machine.execSshri d a n s
  | .ssari d a n => Sys2Proof.Machine.execSsari d a n s
  | .sroti d a n => Sys2Proof.Machine.execSroti d a n s
  | .smovi d i_ => Sys2Proof.Machine.execSmovi d i_ s
  | .slitA d i_ => Sys2Proof.Machine.execSlitA d i_ s
  | .slitB d i_ => Sys2Proof.Machine.execSlitB d i_ s
  | .slitC d i_ => Sys2Proof.Machine.execSlitC d i_ s
  | .srds d i_ => Sys2Proof.Machine.execSrds d i_ s
  | .swrs d a i_ => Sys2Proof.Machine.execSwrs d a i_ s
  | .ubr a c i_ => Sys2Proof.Machine.execUbr a c i_ s
  | .sld d a i_ => Sys2Proof.Machine.execSld d a i_ s
  | .sst a b o c => Sys2Proof.Machine.execSst a b o c s
  | .satomAdd d a o => Sys2Proof.Machine.execSatomAdd d a o s
  | .satomMinS d a o => Sys2Proof.Machine.execSatomMinS d a o s
  | .satomMaxS d a o => Sys2Proof.Machine.execSatomMaxS d a o s
  | .satomMinN d a o => Sys2Proof.Machine.execSatomMinN d a o s
  | .satomMaxN d a o => Sys2Proof.Machine.execSatomMaxN d a o s
  | .satomAnd d a o => Sys2Proof.Machine.execSatomAnd d a o s
  | .satomOr d a o => Sys2Proof.Machine.execSatomOr d a o s
  | .satomXor d a o => Sys2Proof.Machine.execSatomXor d a o s
  | .satomExch d a o => Sys2Proof.Machine.execSatomExch d a o s
  | .satomCas d a b o => Sys2Proof.Machine.execSatomCas d a b o s
  | .xpat a => Sys2Proof.Machine.execXpat a s
  | .jord j => Sys2Proof.Machine.execJord j s
  | .tfetch d => Sys2Proof.Machine.execTfetch d s
  | .tfetchB d a => Sys2Proof.Machine.execTfetchB d a s
  | .tfetchR d => Sys2Proof.Machine.execTfetchR d s
  | .shpset a e => Sys2Proof.Machine.execShpset a e s
  | .xgive a => Sys2Proof.Machine.execXgive a s
  | .xtake d => Sys2Proof.Machine.execXtake d s
  | .barset a i_ => Sys2Proof.Machine.execBarset a i_ s
  | .etail a e => Sys2Proof.Machine.execEtail a e s
  | .ewait d a e => Sys2Proof.Machine.execEwait d a e s
  | .cmoClean a b l => Sys2Proof.Machine.execCmoClean a b l s
  | .cmoInvalidate a b l => Sys2Proof.Machine.execCmoInvalidate a b l s
  | .cmoCleanInvalidate a b l => Sys2Proof.Machine.execCmoCleanInvalidate a b l s
  | .tinv d a b => Sys2Proof.Machine.execTinv d a b s
  | .bankmode d a o => Sys2Proof.Machine.execBankmode d a o s
  | .qopen d a q => Sys2Proof.Machine.execQopen d a q s
  | .qclose d a q => Sys2Proof.Machine.execQclose d a q s
  | .qtry d q => Sys2Proof.Machine.execQtry d q s
  | .arm d a i_ => Sys2Proof.Machine.execArm d a i_ s
  | .launch d a => Sys2Proof.Machine.execLaunch d a s
  | .cancel d a l => Sys2Proof.Machine.execCancel d a l s
  | .frpt d a c => Sys2Proof.Machine.execFrpt d a c s
  | .fopr d a c => Sys2Proof.Machine.execFopr d a c s
  | .place d a b => Sys2Proof.Machine.execPlace d a b s
  | .unplace d a => Sys2Proof.Machine.execUnplace d a s
  | .preempt d a b c => Sys2Proof.Machine.execPreempt d a b c s
  | .migrate d a b => Sys2Proof.Machine.execMigrate d a b s
  | .resume d a b => Sys2Proof.Machine.execResume d a b s
  | .creset d a => Sys2Proof.Machine.execCreset d a s
  | .mapsync d a b => Sys2Proof.Machine.execMapsync d a b s
  | .cntrd d i_ => Sys2Proof.Machine.execCntrd d i_ s
  | .cntcfg d a b => Sys2Proof.Machine.execCntcfg d a b s
  | .strap a c => Sys2Proof.Machine.execStrap a c s
  | .dbgHalt d a b => Sys2Proof.Machine.execDbgHalt d a b s
  | .dbgStep d a b => Sys2Proof.Machine.execDbgStep d a b s
  | .dbgStepall d a b => Sys2Proof.Machine.execDbgStepall d a b s
  | .dbgCont d a b => Sys2Proof.Machine.execDbgCont d a b s
  | .dbgRdsel d a b => Sys2Proof.Machine.execDbgRdsel d a b s
  | .grd d g => Sys2Proof.Machine.execGrd d g s
  | .gwr d a g => Sys2Proof.Machine.execGwr d a g s
  | .gadd d a g => Sys2Proof.Machine.execGadd d a g s
  | .gxch d a g => Sys2Proof.Machine.execGxch d a g s
  | .ldk d a p => Sys2Proof.Machine.execLdk d a p s
  | .ret => Sys2Proof.Machine.execRet s
  | .exit => Sys2Proof.Machine.execExit s
  | .brk => Sys2Proof.Machine.execBrk s
  | .yield => Sys2Proof.Machine.execYield s
  | .nop => Sys2Proof.Machine.execNop s
  | .xacq => Sys2Proof.Machine.execXacq s
  | .xrel => Sys2Proof.Machine.execXrel s
  | .tret => Sys2Proof.Machine.execTret s
  | .resultReturn id => Sys2Proof.Machine.execResultReturn id s
  | .verdictArrival id => Sys2Proof.Machine.execVerdictArrival id s
  | .regionCommit id => Sys2Proof.Machine.execRegionCommit id s
  | .trapDelivery wg team lane => Sys2Proof.Machine.execTrapDelivery wg team lane s
  | .rendezvousComplete wg team pc => Sys2Proof.Machine.execRendezvousComplete wg team pc s
  | .heldAccessReissue id => Sys2Proof.Machine.execHeldAccessReissue id s
  | .sideLogReplay die core => Sys2Proof.Machine.execSideLogReplay die core s
  | .twillTranslation wg team pc => Sys2Proof.Machine.execTwillTranslation wg team pc s
  | .blockGrant die core => Sys2Proof.Machine.execBlockGrant die core s
  | .workgroupEnd wg => Sys2Proof.Machine.execWorkgroupEnd wg s
  | .launchCompletion rec_ => Sys2Proof.Machine.execLaunchCompletion rec_ s
  | .launchStart rec_ => Sys2Proof.Machine.execLaunchStart rec_ s
  | .workgroupPlacement rec_ core => Sys2Proof.Machine.execWorkgroupPlacement rec_ core s
  | .phaseStart rec_ => Sys2Proof.Machine.execPhaseStart rec_ s
  | .doorbellWrite die slot value => Sys2Proof.Machine.execDoorbellWrite die slot value s
  | .taggedMessage die src => Sys2Proof.Machine.execTaggedMessage die src s
  | .engineRecord ctx die cluster e => Sys2Proof.Machine.execEngineRecord ctx die cluster e s
  | .queueWake wg q => Sys2Proof.Machine.execQueueWake wg q s
  | .ldthCellChange id => Sys2Proof.Machine.execLdthCellChange id s
  | .ldthPoll id => Sys2Proof.Machine.execLdthPoll id s
  | .ldthWaitExpiry id => Sys2Proof.Machine.execLdthWaitExpiry id s
  | .ewaitWake id => Sys2Proof.Machine.execEwaitWake id s
  | .ewaitWaitExpiry id => Sys2Proof.Machine.execEwaitWaitExpiry id s
  | .tokenPass rec_ cluster => Sys2Proof.Machine.execTokenPass rec_ cluster s
  | .leaseGrant rec_ => Sys2Proof.Machine.execLeaseGrant rec_ s
  | .leaseQuantumEnd rec_ => Sys2Proof.Machine.execLeaseQuantumEnd rec_ s
  | .ageingTopPriority wg team pc => Sys2Proof.Machine.execAgeingTopPriority wg team pc s
  | .preemptFreeze die core => Sys2Proof.Machine.execPreemptFreeze die core s
  | .exchangeBoundary die entry => Sys2Proof.Machine.execExchangeBoundary die entry s
  | .lineJoin n => Sys2Proof.Machine.execLineJoin n s
  | .heldLineJoin n => Sys2Proof.Machine.execHeldLineJoin n s
  | .softError err => Sys2Proof.Machine.execSoftError err s
  | .targetedTest test => Sys2Proof.Machine.execTargetedTest test s
  | .linkReplay die port => Sys2Proof.Machine.execLinkReplay die port s
  | .linkTrainRetry die port trained => Sys2Proof.Machine.execLinkTrainRetry die port trained s
  | .moduleResetRelease boot => Sys2Proof.Machine.execModuleResetRelease boot s
  | .modulePowerOff => Sys2Proof.Machine.execModulePowerOff s
  | .unitWakeScrub die cluster => Sys2Proof.Machine.execUnitWakeScrub die cluster s
  | .drainFrameCopy die => Sys2Proof.Machine.execDrainFrameCopy die s
  | .capFrame frame => Sys2Proof.Machine.execCapFrame frame s
  | .getVersion die t => Sys2Proof.Machine.execGetVersion die t s
  | .getCapabilities die t => Sys2Proof.Machine.execGetCapabilities die t s
  | .negotiateAlgorithms die t => Sys2Proof.Machine.execNegotiateAlgorithms die t s
  | .getDigests die t => Sys2Proof.Machine.execGetDigests die t s
  | .getCertificate die t slot off len => Sys2Proof.Machine.execGetCertificate die t slot off len s
  | .challenge die t slot nonce => Sys2Proof.Machine.execChallenge die t slot nonce s
  | .getMeasurements die t sign index => Sys2Proof.Machine.execGetMeasurements die t sign index s
  | .keyExchange die t req => Sys2Proof.Machine.execKeyExchange die t req s
  | .finish die t session => Sys2Proof.Machine.execFinish die t session s
  | .endSession die t session => Sys2Proof.Machine.execEndSession die t session s
  | .setCertificate die t session slot chain => Sys2Proof.Machine.execSetCertificate die t session slot chain s
  | .spdmUnsupportedRequest die t code => Sys2Proof.Machine.execSpdmUnsupportedRequest die t code s
  | .spdmResponseRelease die => Sys2Proof.Machine.execSpdmResponseRelease die s
  | .getTdispVersion die session => Sys2Proof.Machine.execGetTdispVersion die session s
  | .getTdispCapabilities die session => Sys2Proof.Machine.execGetTdispCapabilities die session s
  | .lockInterfaceRequest die session part => Sys2Proof.Machine.execLockInterfaceRequest die session part s
  | .getDeviceInterfaceReport die session part off len => Sys2Proof.Machine.execGetDeviceInterfaceReport die session part off len s
  | .getDeviceInterfaceState die session part => Sys2Proof.Machine.execGetDeviceInterfaceState die session part s
  | .startInterfaceRequest die session part nonce => Sys2Proof.Machine.execStartInterfaceRequest die session part nonce s
  | .stopInterfaceRequest die session part => Sys2Proof.Machine.execStopInterfaceRequest die session part s
  | .tdispUnsupportedRequest die session code => Sys2Proof.Machine.execTdispUnsupportedRequest die session code s
  | .setHallKey h key => Sys2Proof.Machine.execSetHallKey h key s
  | .configure h req => Sys2Proof.Machine.execConfigure h req s
  | .dissolve h part => Sys2Proof.Machine.execDissolve h part s
  | .query h => Sys2Proof.Machine.execQuery h s
  | .setMgmt h group hall => Sys2Proof.Machine.execSetMgmt h group hall s
  | .configUnsupported h code => Sys2Proof.Machine.execConfigUnsupported h code s
  | .fmtvWrite d a n => Sys2Proof.Machine.execFmtvWrite d a n s
  | .fmthWrite d a n => Sys2Proof.Machine.execFmthWrite d a n s
  | .rattrWrite d a n => Sys2Proof.Machine.execRattrWrite d a n s
  | .rangeBoundWrite d a n w => Sys2Proof.Machine.execRangeBoundWrite d a n w s
  | .windowWrite d a n => Sys2Proof.Machine.execWindowWrite d a n s
  | .engheadWrite d a e => Sys2Proof.Machine.execEngheadWrite d a e s
  | .engseqaWrite d a e => Sys2Proof.Machine.execEngseqaWrite d a e s
  | .xschedWrite d a n => Sys2Proof.Machine.execXschedWrite d a n s
  | .xboundWrite d a => Sys2Proof.Machine.execXboundWrite d a s
  | .xstatRead d => Sys2Proof.Machine.execXstatRead d s
  | .diemapWrite d a n => Sys2Proof.Machine.execDiemapWrite d a n s
  | .expbWrite d a n => Sys2Proof.Machine.execExpbWrite d a n s
  | .ptrootWrite d a => Sys2Proof.Machine.execPtrootWrite d a s
  | .plpolWrite d a => Sys2Proof.Machine.execPlpolWrite d a s
  | .hallkeyWrite d a n => Sys2Proof.Machine.execHallkeyWrite d a n s
  | .pcapWrite d a => Sys2Proof.Machine.execPcapWrite d a s
  | .dstateWrite d a => Sys2Proof.Machine.execDstateWrite d a s
  | .evachnWrite d a => Sys2Proof.Machine.execEvachnWrite d a s
  | .capcauseRead d => Sys2Proof.Machine.execCapcauseRead d s
  | .writeAcknowledged n => Sys2Proof.Machine.execWriteAcknowledged n s
  | .linkDown die port => Sys2Proof.Machine.execLinkDown die port s
  | .dieLostWithoutEvacuation die => Sys2Proof.Machine.execDieLostWithoutEvacuation die s
  | .hbmOrFabricTestFailure die => Sys2Proof.Machine.execHbmOrFabricTestFailure die s
  | .thermalProtection die reached => Sys2Proof.Machine.execThermalProtection die reached s
  | .electricalProtection reached => Sys2Proof.Machine.execElectricalProtection reached s

end Sys2Proof.Machine
end

