-- ==== Sys2Proof/Machine/Turns.lean ====
section
/-!
DEFINITION. The turns of the machine: the issue of a group (R217), a step an outside party or the agenda names, and, when
the agenda is empty, the fixed order in which the model lets the device's own steps happen (DESIGN CHOICE, log 20).
-/
namespace Sys2Proof.Machine

/-- Goes on with the next state, when there is one. -/
def onNext (r : Result) (f : State → State) : Result :=
  match r with
  | .next s => .next (f s)
  | .fault e => .fault e
  | .refused e => .refused e

/-! ## Issue -/

/-- The group that executes meets its word: a fault code of Twill's, a poisoned uniform operand, or an instruction. -/
def State.runWord (s : State) (u ti : Nat) (x : BitVec 32) (f : Nat) : Result :=
  if f != 0 then s.faultWord x f
  else
    match decode x with
    | .nonInstr _ => s.faultWord x 1
    | .instr i => if s.consumesUniform u ti i then s.poisonIssue else exec i s

/-- A team issues: its candidate's word is fetched, decoded and executed by the issue group (R216, R217). -/
def State.issue (s : State) (u ti : Nat) : Result :=
  match s.issuePc u ti with
  | none => .refused .notReady
  | some p =>
    let pc := BitVec.ofNat 64 p
    match s.fetchAt (s.wg u) ((s.wg u).team ti) pc with
    | none => .refused .notReady
    | some (x, f) =>
      if s.outranked u ti then .refused .notReady
      else if s.stallsMma u x f then .next (s.askLease (s.wg u)).pass
      else onNext ((s.beginIssue u ti pc x).runWord u ti x f) fun a => a.endIssue u ti pc (s.issueLanes u ti pc) s.nextId x

/-! ## The order of the model's own choice (DESIGN CHOICE, log 20) -/

/-- The first of some tries that answers a next state. -/
def firstNext : List (Unit → Result) → Option State
  | [] => none
  | f :: rest =>
    match f () with
    | .next s => some s
    | _ => firstNext rest

/-- Every team of every workgroup. -/
def State.allTeams (s : State) : List (Nat × Nat × Team) :=
  s.wgs.flatMap fun w => mapIdxFrom (fun ti t => (w.uid, ti, t)) 0 w.teams

/-- Issue numbers under which a team has results or waits. -/
def Team.ids (t : Team) : List Nat :=
  let of (th : Thread) : List Nat :=
    (th.outs.map Out.id) ++ match th.status with
      | .held id => [id]
      | .waiting (.fetch id _) => [id]
      | .waiting (.scratch id _) => [id]
      | _ => []
  (t.uouts.map UOut.id) ++ (t.threads.map of).flatten

/-- The issue numbers of a state, without repeats. -/
def State.ids (s : State) : List Nat :=
  ((s.allTeams.map fun x => x.2.2.ids).flatten ++ s.accs.map Access.id ++ s.waiters.map Waiter.id).foldl addOnce []

/-- Steps of single accesses, results and waits. -/
def State.accessTurns (s : State) : List (Unit → Result) :=
  s.ids.flatMap fun id =>
    let moved := (s.waitersOf id true).any fun x => !x.polling && s.passes x
    let ended := (s.waitersOf id false).any fun x => (s.engFor (s.wg x.wg) x.engine).waitOver x.threshold
    [fun _ => execResultReturn id s, fun _ => execVerdictArrival id s, fun _ => execRegionCommit id s,
     fun _ => execHeldAccessReissue id s,
     fun _ => if moved then execLdthCellChange id s else .refused .noOccasion,
     fun _ => if ended then execEwaitWake id s else .refused .noOccasion]

/-- Steps of single teams. -/
def State.teamTurns (s : State) : List (Unit → Result) :=
  s.allTeams.flatMap fun x =>
    let pcs := x.2.2.pathPcs.map (BitVec.ofNat 64)
    (mapIdxFrom (fun l (_ : Thread) => fun (_ : Unit) => execTrapDelivery x.1 x.2.1 l s) 0 x.2.2.threads)
      ++ (pcs.map fun pc => fun (_ : Unit) => execTwillTranslation x.1 x.2.1 pc s)
      ++ (pcs.map fun pc => fun (_ : Unit) => execRendezvousComplete x.1 x.2.1 pc s)

/-- Steps of workgroups, cores and engines. -/
def State.coreTurns (s : State) : List (Unit → Result) :=
  (s.wgs.flatMap fun w =>
    [fun _ => execBlockGrant w.die w.core s, fun _ => execPreemptFreeze w.die w.core s, fun _ => execWorkgroupEnd w.uid s]
      ++ (upFrom 0 16).map fun q => fun (_ : Unit) => execQueueWake w.uid (BitVec.ofNat 4 q) s)
    ++ (s.slog.map fun e => fun (_ : Unit) => execSideLogReplay e.die e.core s)
    ++ (s.ctxs.flatMap fun c => c.engines.map fun y => fun (_ : Unit) => execEngineRecord c.uid y.die y.cluster y.e s)
    ++ (mapIdxFrom (fun n (_ : Unacked) => fun (_ : Unit) => execWriteAcknowledged n s) 0 s.unacked)

/-- Steps of front ends and dispatchers. -/
def State.recordTurns (s : State) : List (Unit → Result) :=
  s.recs.flatMap fun r =>
    [fun _ => execLaunchCompletion r.uid s, fun _ => execLaunchStart r.uid s, fun _ => execPhaseStart r.uid s,
     fun _ => execLeaseGrant r.uid s]
      ++ r.cores.map fun k => fun (_ : Unit) => execWorkgroupPlacement r.uid k s

/-- Is a boundary of an exchange entry past, or would it send something. -/
def State.boundaryDue (s : State) (die e : Nat) (past : Bool) : Bool :=
  match s.boundary die e with
  | none => false
  | some b => if past then decide (b.1 ≤ s.time) else !(s.sendable die e).isEmpty

/-- Steps of dies and between them; `past` for the boundaries that have fallen, else those that would send. -/
def State.dieTurns (s : State) (past : Bool) : List (Unit → Result) :=
  (upFrom 0 24).flatMap fun d =>
    (upFrom 0 8).map fun e => fun (_ : Unit) =>
      if s.boundaryDue d e past then execExchangeBoundary d (BitVec.ofNat 3 e) s else .refused .noOccasion

/-- Steps of lines, messages, scrubs and drains. -/
def State.fabricTurns (s : State) : List (Unit → Result) :=
  (mapIdxFrom (fun n (_ : Line) => fun (_ : Unit) => execLineJoin n s) 0 s.lines)
    ++ (mapIdxFrom (fun n (_ : Line) => fun (_ : Unit) => execHeldLineJoin n s) 0 s.lines)
    ++ (mapIdxFrom (fun n (m : Msg) => fun (_ : Unit) => execTaggedMessage m.target (.inFlight n) s) 0 s.msgs)
    ++ (upFrom 0 24).flatMap fun d =>
      (fun _ => execDrainFrameCopy d s) :: (s.die d).touched.map fun t => fun (_ : Unit) => execUnitWakeScrub d (clusterOf t.1) s

/-- Steps that only the passing of time brings. -/
def State.timedTurns (s : State) : List (Unit → Result) :=
  (s.ids.flatMap fun id =>
    [fun _ => execLdthPoll id s, fun _ => execLdthWaitExpiry id s, fun _ => execEwaitWaitExpiry id s])
    ++ (s.recs.flatMap fun r => (fun _ => execLeaseQuantumEnd r.uid s) ::
        r.lease.captured.map fun c => fun (_ : Unit) => execTokenPass r.uid c.1 s)

/-- The issues that are ready; a team that a path at top priority outranks is passed over (R218). -/
def State.issueTurns (s : State) : List (Unit → Result) := s.allTeams.map fun x => fun (_ : Unit) => s.issue x.1 x.2.1

/-- What happens when the agenda names nothing: the first step of the order that has its occasion; else time passes. -/
def State.autoTurn (s : State) : Result :=
  match firstNext (s.accessTurns ++ s.teamTurns ++ s.coreTurns ++ s.recordTurns ++ s.fabricTurns ++ s.dieTurns true
      ++ s.issueTurns ++ s.dieTurns false ++ s.timedTurns) with
  | some a => .next (a.follow s)
  | none => .next s.pass

/-- One turn of the agenda. -/
def State.turn (s : State) (t : Turn) : Result :=
  match t with
  | .issue u ti => if s.powered then s.issue u ti else .fault .poweredOff
  | .event i => onNext (exec i s) fun a => (a.follow s).pass

end Sys2Proof.Machine
end

