-- ==== Sys2Proof/Machine/Step.lean ====
section
/-!
DEFINITION. One step of the machine: the head of the agenda, or the next step of the model's own order (DESIGN CHOICE, log 2, DESIGN CHOICE, log 20).
`withFetchWord` places an instruction where the next step fetches it (DESIGN CHOICE, log 1).
-/
namespace Sys2Proof.Machine

/-- One step. -/
def step (s : State) : Host.Outcome State Fault Refusal :=
  match s.agenda with
  | t :: rest => State.turn { s with agenda := rest } t
  | [] => if s.powered then s.autoTurn else .fault .poweredOff

/-- Where `withFetchWord` places the instruction: a program counter in a code range, whose IA and frame address are the
same number. -/
def fetchBase : Nat := 16 * 65536
/-- World of the context that `withFetchWord` places. -/
def fetchWorld : BitVec 16 := 1

/-- A running owner context with one code range, for `withFetchWord`. -/
def fetchCtx (uid : Nat) : Ctx :=
  { Ctx.absent with
    uid := uid, handle := 1, auth := 1, world := fetchWorld, part := 0, pinq := 64, state := .running,
    regs := [(0x20, BitVec.ofNat 64 fetchBase), (0x21, BitVec.ofNat 64 fetchBase), (0x22, BitVec.ofNat 64 fetchBase),
             (0x23, 0xB), (0x60, BitVec.ofNat 64 (fetchBase + 1)), (0x61, BitVec.ofNat 64 fetchBase)] }

/-- A running launch of one workgroup, which has met the function that the word is; for an MMA it holds a power token (R168). -/
def fetchRec (uid ctx : Nat) (x : BitVec 32) : Rec :=
  let token : Lease := { Lease.init with asked := 1, held := 1, quantumEnd := 64000 }
  { Rec.absent with uid := uid, ctx := ctx, kind := .launch, state := 2, resolution := [0], cores := [0], placed := [0], units := 1,
                    lease := if isMmaWord x then token else Lease.init,
                    fns := [{ base := fetchBase, words := 1, level := 0 }] }

/-- A workgroup of one team of one thread that stands at the instruction. -/
def fetchWg (uid ctx launch : Nat) : Wg :=
  { Wg.absent with
    uid := uid, ctx := ctx, launch := launch, nwg := 1, ndie := 1, nlive := 1, span := 0, units := [0],
    queues := (upFrom 0 16).map fun _ => Queue.init, barriers := (upFrom 0 16).map fun _ => ⟨1, 0, 0⟩,
    teams := [{ Team.absent with threads := [{ Thread.init with pc := BitVec.ofNat 64 fetchBase }] }] }

/-- The translation through which the team fetches the word. -/
def fetchTrans (x : BitVec 32) : Translation :=
  { die := 0, world := fetchWorld, order := Team.absent.jord, base := fetchBase, words := [x],
    faults := [match decode x with
      | .instr _ => 0
      | .nonInstr _ => 1],
    reached := [true], seeds := [(0, Team.absent.jord)], bodies := [], ia := fetchBase, level := 0, stored := true,
    cached := [(0, 0)], pins := [] }

/-- Die 0 booted, in partition 0, with the code page published. -/
def fetchDie (d : Die) : Die :=
  { d with boot := 6, dstate := 0, part := some 0, ptroot := d.ptroot,
           published := { page := 16, frame := 16, host := false, copying := false, moved := none } :: d.published.filter fun m => m.page != 16,
           frames := { FrameEntry.init 16 with owner := fetchWorld, key := 3, scrubp := false } :: d.frames.filter fun e => e.frame != 16 }

/-- Partition 0 configured over die 0, its interface in RUN. -/
def fetchPart (p : Part) : Part :=
  { p with configured := true, world := fetchWorld, diemap := [(0, 32)], ifstate := .run }

/-- The state with an instruction stored where the next step fetches it: a program is loaded from outside the machine, by
a host agent that writes a code object and rings a doorbell; this stands for that load (DESIGN CHOICE, log 1). -/
def State.withFetchWord (s : State) (nbits w : Nat) : State :=
  let x := BitVec.ofNat 32 (w % 2 ^ nbits)
  let c := s.nextId
  let s1 := (s.modDie 0 fetchDie).modPart 0 fetchPart
  { s1 with
    powered := true, nextId := s.nextId + 3, agenda := [.issue (c + 2) 0], cur := none,
    mem := writeLE s.mem (devKey 0 fetchBase) 4 x.toNat,
    ctxs := fetchCtx c :: s.ctxs, recs := fetchRec (c + 1) c x :: s.recs, wgs := fetchWg (c + 2) c (c + 1) :: s.wgs,
    trans := fetchTrans x :: s.trans }

end Sys2Proof.Machine
end

