-- ==== Sys2Proof/Safety.lean ====
section
/-!
DEFINITION. What counts as a safe run: the states a run passes through, and the invariant of the machine's data that
every step keeps. A run is safe when no step of it ends in a fault; the one fault is a step asked of a module without
power (R2), so a run of a powered module in which nobody takes the power away is safe.
-/
namespace Sys2Proof

open Machine

/-- The states that steps reach from a state. -/
inductive Reaches : State → State → Prop where
  | refl (s : State) : Reaches s s
  | next {s t u : State} (h : step s = .next t) (r : Reaches t u) : Reaches s u

/-- No step from any state that is reached ends in a fault. -/
def Safe (s : State) : Prop := ∀ t, Reaches s t → ∀ f, step t ≠ .fault f

/-- The invariant of the machine's data: memory is in its canonical form, so that equal memories are equal data. -/
def Machine.State.Inv (s : State) : Prop := Memory.wf s.mem = true

/-- A group executes: it is the issue group of the state, and its workgroup and team exist. -/
def Machine.State.Issues (s : State) (g : Group) : Prop :=
  s.cur = some g ∧ (s.wg g.wg).uid = g.wg ∧ g.wg ≠ 0 ∧ g.team < (s.wg g.wg).teams.length

end Sys2Proof
end

