-- ==== Sys2Proof/Certificates/Slice0/Obligations.lean ====
section
/-!
DEFINITION. The statements for the provers: what the numbered rules of the spec say of the machine, instruction by
instruction and for every step.
-/
namespace Sys2Proof.Claims

open Machine

/-! ## Lane instructions -/

/-- The team a group belongs to. -/
abbrev teamOf (s : State) (g : Group) : Team := (s.wg g.wg).team g.team
/-- What the thread of a lane sees when it reads only its own registers and uniform ones. -/
abbrev envOf (s : State) (g : Group) (l : Nat) (th : Thread) : LaneEnv :=
  ownEnv (s.wg g.wg) g.team (teamOf s g) (s.ctx (s.wg g.wg).ctx).cycles l th
/-- Every thread of the group changes; nothing else does. -/
abbrev eachThread (s : State) (g : Group) (f : Nat → Thread → Thread) : State := s.modLanes g.wg g.team g.lanes f

/-- A source field that names no other lane (R34, R36). -/
def ownSource (a : Src) : Prop := a.sel = .own ∨ a.sel = .uni

/-- A group executes an instruction that names some lane registers: the extended block is held where one of v32 to v63 is
named (R10), and no register read is poisoned (R237). -/
structure Ready (s : State) (g : Group) (reads writes : List Nat) : Prop where
  issues : s.Issues g
  held : (∀ r ∈ reads ++ writes, r < 32) ∨ (teamOf s g).ext = true
  whole : ∀ l ∈ g.live (teamOf s g), ∀ r ∈ ((teamOf s g).thread l).poison, r ∉ reads

/-- An instruction that writes lane registers: its source fields, the lane registers it reads and writes, and what is
written to each register, from what the thread sees. -/
structure RegForm where
  srcs : List Src
  reads : List Nat
  writes : List Nat
  regs : LaneEnv → List (Nat × BitVec 32)

/-- One register from two 32-bit sources. -/
def two (d : VReg) (a b : Src) (f : BitVec 32 → BitVec 32 → BitVec 32) : RegForm :=
  ⟨[a, b], srcRegs a 1 ++ srcRegs b 1, [d.toNat],
      fun e => [(d.toNat, f (e.src a) (e.src b))]⟩
/-- One register from one 32-bit source. -/
def one (d : VReg) (a : Src) (f : BitVec 32 → BitVec 32) : RegForm :=
  ⟨[a], srcRegs a 1, [d.toNat],
      fun e => [(d.toNat, f (e.src a))]⟩
/-- One register from two 32-bit sources and the register written. -/
def three (d : VReg) (a b : Src) (f : BitVec 32 → BitVec 32 → BitVec 32 → BitVec 32) : RegForm :=
  ⟨[a, b], srcRegs a 1 ++ srcRegs b 1 ++ [d.toNat], [d.toNat],
      fun e => [(d.toNat, f (e.src a) (e.src b) (e.own.v32 d.toNat))]⟩

/-- The field of IBFX and IBFI: its place, its clipped width, and a number's bits in it (R93). -/
def bfPos (b : BitVec 32) : Nat := b.toNat % 32
def bfWidth (b : BitVec 32) : Nat := min (min (b.toNat / 2 ^ 8 % 2 ^ 6) 32) (32 - bfPos b)
/-- IBFX: the field as a number, read as signed when b[16] is one and the field is not empty. -/
def bfExtract (a b : BitVec 32) : BitVec 32 :=
  let f := a.toNat / 2 ^ bfPos b % 2 ^ bfWidth b
  if b.getLsbD 16 = true ∧ 0 < bfWidth b ∧ 2 ^ (bfWidth b - 1) ≤ f then BitVec.ofInt 32 ((f : Int) - 2 ^ bfWidth b)
  else BitVec.ofNat 32 f
/-- IBFI: above the field d, in it the low bits of a, below it d. -/
def bfInsert (a b d : BitVec 32) : BitVec 32 :=
  BitVec.ofNat 32 (d.toNat / 2 ^ (bfPos b + bfWidth b) * 2 ^ (bfPos b + bfWidth b)
    + a.toNat % 2 ^ bfWidth b * 2 ^ bfPos b + d.toNat % 2 ^ bfPos b)

/-- The integer register operations of R92 and R93, over numbers. -/
def integerForm (i : Instr) : Option RegForm :=
  match i with
  | .iadd d a b => some (two d a b fun x y => BitVec.ofNat 32 (x.toNat + y.toNat))
  | .isub d a b => some (two d a b fun x y => BitVec.ofInt 32 (x.toInt - y.toInt))
  | .iminS d a b => some (two d a b fun x y => if x.toInt ≤ y.toInt then x else y)
  | .imaxS d a b => some (two d a b fun x y => if x.toInt ≤ y.toInt then y else x)
  | .iminN d a b => some (two d a b fun x y => BitVec.ofNat 32 (min x.toNat y.toNat))
  | .imaxN d a b => some (two d a b fun x y => BitVec.ofNat 32 (max x.toNat y.toNat))
  | .iabsd d a b => some (two d a b fun x y => BitVec.ofNat 32 (max x.toNat y.toNat - min x.toNat y.toNat))
  | .ipopc d a => some (one d a fun x => BitVec.ofNat 32 ((List.range 32).countP x.getLsbD))
  | .iand d a b => some (two d a b fun x y => BitVec.ofNat 32 (x.toNat &&& y.toNat))
  | .ior d a b => some (two d a b fun x y => BitVec.ofNat 32 (x.toNat ||| y.toNat))
  | .ixor d a b => some (two d a b fun x y => BitVec.ofNat 32 (x.toNat ^^^ y.toNat))
  | .iandn d a b => some (two d a b fun x y => BitVec.ofNat 32 (x.toNat &&& (2 ^ 32 - 1 - y.toNat)))
  | .ishl d a b => some (two d a b fun x y => BitVec.ofNat 32 (x.toNat * 2 ^ (y.toNat % 32)))
  | .ishr d a b => some (two d a b fun x y => BitVec.ofNat 32 (x.toNat / 2 ^ (y.toNat % 32)))
  | .isar d a b => some (two d a b fun x y => BitVec.ofInt 32 (x.toInt / 2 ^ (y.toNat % 32)))
  | .irot d a b => some (two d a b fun x y => x <<< (y.toNat % 32) ||| x >>> (32 - y.toNat % 32))
  | .imul d a b => some (two d a b fun x y => BitVec.ofNat 32 (x.toNat * y.toNat))
  | .imulhiS d a b => some (two d a b fun x y => BitVec.ofInt 32 (x.toInt * y.toInt / 2 ^ 32))
  | .imulhiN d a b => some (two d a b fun x y => BitVec.ofNat 32 (x.toNat * y.toNat / 2 ^ 32))
  | .imad d a b => some (three d a b fun x y z => BitVec.ofNat 32 (x.toNat * y.toNat + z.toNat))
  | .iclz d a => some (one d a fun x => if x = 0 then 32 else BitVec.ofNat 32 (31 - Nat.log2 x.toNat))
  | .ibrev d a => some (one d a BitVec.reverse)
  | .ibfx d a b => some (two d a b bfExtract)
  | .ibfi d a b => some (three d a b bfInsert)
  | _ => none

/-- The guarded forms (R96) and the immediates (R98). -/
def guardedForm (i : Instr) : Option RegForm :=
  match i with
  | .psub d a b g => some ⟨[a, b], srcRegs a 1 ++ srcRegs b 1, [d.toNat],
      fun e => [(d.toNat, if e.own.pred g.toNat then BitVec.ofInt 32 ((e.src a).toInt - (e.src b).toInt) else e.src a)]⟩
  | .padd d a b g => some ⟨[a, b], srcRegs a 1 ++ srcRegs b 1, [d.toNat],
      fun e => [(d.toNat, if e.own.pred g.toNat then BitVec.ofNat 32 ((e.src a).toNat + (e.src b).toNat) else e.src a)]⟩
  | .pmov d a b g => some ⟨[a, b], srcRegs a 1 ++ srcRegs b 1, [d.toNat],
      fun e => [(d.toNat, if e.own.pred g.toNat then e.src a else e.src b)]⟩
  | .iaddi d a i => some (one d a fun x => BitVec.ofInt 32 (x.toInt + i.toInt))
  | .iandi d a i => some (one d a fun x => BitVec.ofNat 32 (x.toNat &&& i.toNat))
  | .ishli d a n => some (one d a fun x => BitVec.ofNat 32 (x.toNat * 2 ^ n.toNat))
  | .ishri d a n => some (one d a fun x => BitVec.ofNat 32 (x.toNat / 2 ^ n.toNat))
  | .isari d a n => some (one d a fun x => BitVec.ofInt 32 (x.toInt / 2 ^ n.toNat))
  | .iroti d a n => some (one d a fun x => x <<< n.toNat ||| x >>> (32 - n.toNat))
  | .movi d i => some ⟨[], [], [d.toNat],
      fun _ => [(d.toNat, BitVec.ofInt 32 i.toInt)]⟩
  | .movhi d i => some ⟨[], [d.toNat], [d.toNat],
      fun e => [(d.toNat, BitVec.ofNat 32 (i.toNat * 2 ^ 14 + (e.own.v32 d.toNat).toNat % 2 ^ 14))]⟩
  | _ => none

/-- An instruction that writes one predicate: its sources, the lane registers it reads, and the outcome. -/
structure PredForm where
  srcs : List Src
  dest : PReg
  holds : LaneEnv → Bool
def PredForm.reads (f : PredForm) : List Nat := f.srcs.flatMap fun a => srcRegs a 1

/-- A relation of two 32-bit sources. -/
def relation (p : PReg) (a b : Src) (r : BitVec 32 → BitVec 32 → Bool) : PredForm :=
  { srcs := [a, b], dest := p, holds := fun e => r (e.src a) (e.src b) }
/-- Predicate logic on the thread's own predicates. -/
def logic (p a b : PReg) (r : Bool → Bool → Bool) : PredForm :=
  { srcs := [], dest := p, holds := fun e => r (e.own.pred a.toNat) (e.own.pred b.toNat) }

/-- An FP32 pattern as a number that orders as its value does, both zeros being 0; none for a NaN. -/
def fpOrder (x : BitVec 32) : Option Int :=
  let m : Int := ((x.toNat % 2 ^ 31 : Nat) : Int)
  if 0x7F800000 < m then none else some (if x.getLsbD 31 then -m else m)
/-- A relation that holds of two numbers, and of no NaN. -/
def fpRelation (r : Int → Int → Bool) (x y : BitVec 32) : Bool :=
  match fpOrder x, fpOrder y with
  | some u, some v => r u v
  | _, _ => false

/-- The compares of R94, R95 and R105, and the predicate logic of R97. -/
def predForm (i : Instr) : Option PredForm :=
  match i with
  | .icmpSEq p a b => some (relation p a b fun x y => decide (x.toInt = y.toInt))
  | .icmpSNe p a b => some (relation p a b fun x y => decide (x.toInt ≠ y.toInt))
  | .icmpSLt p a b => some (relation p a b fun x y => decide (x.toInt < y.toInt))
  | .icmpSLe p a b => some (relation p a b fun x y => decide (x.toInt ≤ y.toInt))
  | .icmpNEq p a b => some (relation p a b fun x y => decide (x.toNat = y.toNat))
  | .icmpNNe p a b => some (relation p a b fun x y => decide (x.toNat ≠ y.toNat))
  | .icmpNLt p a b => some (relation p a b fun x y => decide (x.toNat < y.toNat))
  | .icmpNLe p a b => some (relation p a b fun x y => decide (x.toNat ≤ y.toNat))
  | .icmpi c p a m => some ⟨[a], p, fun e =>
      let x := e.src a
      match c with
      | .eq => decide (x.toInt = m.toInt)
      | .ne => decide (x.toInt ≠ m.toInt)
      | .ltS => decide (x.toInt < m.toInt)
      | .leS => decide (x.toInt ≤ m.toInt)
      | .gtS => decide (m.toInt < x.toInt)
      | .geS => decide (m.toInt ≤ x.toInt)
      | .ltN => decide (x.toNat < (BitVec.ofInt 32 m.toInt).toNat)
      | .geN => decide ((BitVec.ofInt 32 m.toInt).toNat ≤ x.toNat)⟩
  | .fcmpEq p a b => some (relation p a b (fpRelation fun u v => decide (u = v)))
  | .fcmpLt p a b => some (relation p a b (fpRelation fun u v => decide (u < v)))
  | .fcmpLe p a b => some (relation p a b (fpRelation fun u v => decide (u ≤ v)))
  | .fcmpUnord p a b => some (relation p a b fun x y => (fpOrder x).isNone || (fpOrder y).isNone)
  | .pand d a b => some (logic d a b fun x y => x && y)
  | .por d a b => some (logic d a b fun x y => x || y)
  | .pxor d a b => some (logic d a b fun x y => x != y)
  | .pandn d a b => some (logic d a b fun x y => x && !y)
  | _ => none

/-- The place of a number in the total order of FP32 patterns, the negative zero below the positive (R103). -/
def fpPlace (x : BitVec 32) : Int :=
  let m : Int := ((x.toNat % 2 ^ 31 : Nat) : Int)
  if x.getLsbD 31 then -1 - m else m
/-- FMIN and FMAX on coefficient 0, and the jet that is delivered (R103, R79). -/
def selectJet (k : Nat) (hi : Bool) (a b : Jet) : Jet :=
  let x := listGet 0 a 0
  let y := listGet 0 b 0
  match fpOrder x, fpOrder y with
  | none, none => List.replicate (k + 1) 0x7FC00000
  | none, some _ => b
  | some _, none => a
  | some _, some _ => if (if hi then decide (fpPlace x < fpPlace y) else decide (fpPlace y < fpPlace x)) then b else a

/-- Consecutive registers from one, with their values. -/
def group (d : VReg) (xs : List (BitVec 32)) : List (Nat × BitVec 32) := xs.mapIdx fun i x => (d.toNat + i, x)

/-- The jet-build instructions of R87 but for JFLG, the selections and sign changes of R103, R104 and R79, at jet order k:
they move bits and raise no flag. -/
def bitsForm (k : Nat) (i : Instr) : Option RegForm :=
  let zeros (n : Nat) : List (BitVec 32) := List.replicate n 0
  let flipped (b : Bool) (x : Jet) : Jet := if b then x.map fun y => y ^^^ 0x80000000 else x
  match i with
  | .jseedSeed d a b => some ⟨[a, b], srcRegs a 1 ++ srcRegs b 1, vregs d (k + 1),
      fun e => group d ((e.src a :: e.src b :: zeros 6).take (k + 1))⟩
  | .jseedConst d a => some ⟨[a], srcRegs a 1, vregs d (k + 1),
      fun e => group d (e.src a :: zeros k)⟩
  | .jseedCopy d a => some ⟨[a], srcRegs a (k + 1), vregs d (k + 1),
      fun e => group d (e.srcJet k a)⟩
  | .jget d a c => some ⟨[a], srcRegs a (k + 1), [d.toNat],
      fun e => [(d.toNat, if c.toNat ≤ k then listGet 0 (e.srcJet k a) c.toNat else 0)]⟩
  | .jput d a c => some ⟨[a], srcRegs a 1, vregs d (k + 1),
      fun e => if c.toNat ≤ k then [(d.toNat + c.toNat, e.src a)] else []⟩
  | .fmin d a b => some ⟨[a, b], srcRegs a (k + 1) ++ srcRegs b (k + 1), vregs d (k + 1),
      fun e => group d (selectJet k false (e.srcJet k a) (e.srcJet k b))⟩
  | .fmax d a b => some ⟨[a, b], srcRegs a (k + 1) ++ srcRegs b (k + 1), vregs d (k + 1),
      fun e => group d (selectJet k true (e.srcJet k a) (e.srcJet k b))⟩
  | .fabs d a => some ⟨[a], srcRegs a (k + 1), vregs d (k + 1),
      fun e => group d (flipped ((e.src a).getLsbD 31) (e.srcJet k a))⟩
  | .fneg d a => some ⟨[a], srcRegs a (k + 1), vregs d (k + 1),
      fun e => group d (flipped true (e.srcJet k a))⟩
  | .fnabs d a => some ⟨[a], srcRegs a (k + 1), vregs d (k + 1),
      fun e => group d (flipped (!(e.src a).getLsbD 31) (e.srcJet k a))⟩
  | .fcpsgn d a b => some ⟨[a, b], srcRegs a (k + 1) ++ srcRegs b 1, vregs d (k + 1),
      fun e => group d (flipped ((e.src a).getLsbD 31 != (e.src b).getLsbD 31) (e.srcJet k a))⟩
  | _ => none
/-! ## Lane instructions with flags -/

/-- The flags of coefficient j at their place in JST (R8, R85). -/
def flagsAt (j : Nat) (f : Flags5) : BitVec 40 := BitVec.ofNat 40 (f.toNat * 2 ^ (5 * j))
/-- The patterns of some results. -/
def patterns (rs : List Fres) : Jet := rs.map fun r => BitVec.ofNat 32 r.bits
/-- The flags of a jet's coefficients, each in its own group. -/
def jetFlags (rs : List Fres) : BitVec 40 := (rs.mapIdx fun j r => flagsAt j r.flags).foldl (fun x y => x ||| y) 0

/-- Registers and flags reach a thread: at once, or as a pending result of the issue (R28, R86). -/
def lands (g : Group) (pending : Bool) (regs : List (Nat × BitVec 32)) (flags : BitVec 40) (th : Thread) : Thread :=
  if pending then th.addOut { id := g.id, ready := true, regs := regs, p6 := none, flags := flags }
  else { th.setVs regs with jst := (th.setVs regs).jst ||| flags }

/-- A series instruction: sources, registers read and written, whether its result is pending, coefficient 0, and the step of a
coefficient above it from the coefficients below it (R81). -/
structure SeriesForm where
  dest : VReg
  srcs : List Src
  reads : List Nat
  writes : List Nat
  pending : Bool
  first : LaneEnv → Fres
  step : LaneEnv → Nat → Jet → Fres

/-- The coefficients y of a series instruction: coefficient 0, and every other one its step (R81). -/
def SeriesForm.Delivers (f : SeriesForm) (k : Nat) (e : LaneEnv) (y : List Fres) : Prop :=
  y.length = k + 1 ∧ y.head? = some (f.first e) ∧
    ∀ j, 1 ≤ j → j ≤ k → y[j]? = some (f.step e j (patterns (y.take j)))

/-- The exact sum over j from lo to hi. -/
def sumOver (lo hi : Nat) (f : Nat → Term) : List Term := (List.range (hi + 1 - lo)).map fun n => f (lo + n)
/-- The products a_i·b_j with i + j = k. -/
def products (a b : Jet) (k : Nat) : List Term := sumOver 0 k fun i => mulTerm (coef a i) (coef b (k - i))

/-- The registers of a two-source series instruction. -/
def series2Of (k : Nat) (d : VReg) (a b : Src) (pending : Bool) (first : Jet → Jet → Fres) (step : Jet → Jet → Nat → Jet → Fres) :
    SeriesForm :=
  { dest := d, srcs := [a, b], reads := srcRegs a (k + 1) ++ srcRegs b (k + 1), writes := vregs d (k + 1), pending := pending,
    first := fun e => first (e.srcJet k a) (e.srcJet k b), step := fun e => step (e.srcJet k a) (e.srcJet k b) }
/-- A fused form: every coefficient one FusedSum of signed products and a signed d_k (R81, R102). -/
def fusedOf (k : Nat) (d : VReg) (a b : Src) (minusP minusD : Bool) : SeriesForm :=
  let sum (e : LaneEnv) (j : Nat) : Fres :=
    fusedSum .fp32 (((products (e.srcJet k a) (e.srcJet k b) j).map fun t => if minusP then t.negate else t)
      ++ [if minusD then (coef (e.vJet k d) j).term.negate else (coef (e.vJet k d) j).term])
  { dest := d, srcs := [a, b], reads := srcRegs a (k + 1) ++ srcRegs b (k + 1) ++ vregs d (k + 1), writes := vregs d (k + 1),
    pending := false, first := fun e => sum e 0, step := fun e j _ => sum e j }
/-- A one-source series instruction; its results are pending. -/
def series1Of (k : Nat) (d : VReg) (a : Src) (first : BitVec 32 → Fres) (step : Jet → Nat → Jet → Fres) : SeriesForm :=
  { dest := d, srcs := [a], reads := srcRegs a (k + 1), writes := vregs d (k + 1), pending := true,
    first := fun e => first (listGet 0 (e.srcJet k a) 0), step := fun e => step (e.srcJet k a) }

/-- The step of FDIV (R81). -/
def divStep (a b : Jet) (j : Nat) (y : Jet) : Fres :=
  quotient (exactSum ((coef a j).term :: sumOver 1 j fun n => (mulTerm (coef b n) (coef y (j - n))).negate)) 1 1 (coef b 0)
/-- Σ n·a_n·x_{j−n} for n from 1 to j, as terms. -/
def weighted (a x : Jet) (j : Nat) : List Term := sumOver 1 j fun n => mulTerm ((coef a n).timesNat n) (coef x (j - n))
/-- W_m of FTANH and FSIGM: y_m or [m = 0], less Σ y_i·y_{m−i} (R81). -/
def wTerm (tanh : Bool) (y : Jet) (m : Nat) : Term :=
  exactSum ((if tanh then (if m = 0 then [Val.one.term] else []) else [(coef y m).term])
    ++ sumOver 0 m fun i => (mulTerm (coef y i) (coef y (m - i))).negate)
/-- Σ n·a_n·W_{j−n} / j. -/
def wQuotient (tanh : Bool) (a : Jet) (j : Nat) (y : Jet) : Fres :=
  quotient (exactSum (sumOver 1 j fun n => ((coef a n).timesNat n).term.times (wTerm tanh y (j - n)))) 1 j Val.one

/-- The series instructions but the sine and cosine (R81, R102, R106, R107), at jet order k. -/
def seriesForm (k : Nat) (i : Instr) : Option SeriesForm :=
  match i with
  | .fadd d a b => some (series2Of k d a b false (fun x y => fusedSum .fp32 [(coef x 0).term, (coef y 0).term])
      fun x y j _ => fusedSum .fp32 [(coef x j).term, (coef y j).term])
  | .fsub d a b => some (series2Of k d a b false (fun x y => fusedSum .fp32 [(coef x 0).term, (coef y 0).term.negate])
      fun x y j _ => fusedSum .fp32 [(coef x j).term, (coef y j).term.negate])
  | .fmul d a b => some (series2Of k d a b false (fun x y => fusedSum .fp32 [mulTerm (coef x 0) (coef y 0)])
      fun x y j _ => fusedSum .fp32 (products x y j))
  | .ffma d a b => some (fusedOf k d a b false false)
  | .ffmsub d a b => some (fusedOf k d a b false true)
  | .ffnma d a b => some (fusedOf k d a b true false)
  | .fdiv d a b => some (series2Of k d a b true (fun x y => quotient (coef x 0).term 1 1 (coef y 0)) divStep)
  | .frcp d a => some (series1Of k d a (fun x => quotient Val.one.term 1 1 (val32 x)) fun x => divStep [0x3F800000] x)
  | .fsqrt d a => some (series1Of k d a (fun x => fsqrtVal (val32 x)) fun x j y =>
      quotient (exactSum ((coef x j).term :: sumOver 1 (j - 1) fun n => (mulTerm (coef y n) (coef y (j - n))).negate)) 1 1
        ((coef y 0).timesNat 2))
  | .frsq d a => some (series1Of k d a (fun x => frsqVal (val32 x)) fun x j y =>
      -- j/2 − k of the rule is the negative of (2k − j)/2
      quotient (exactSum (sumOver 1 j fun n => (mulTerm (coef x n) (coef y (j - n))).mul (.fin true (2 * j - n) (-1)))) 1 j (coef x 0))
  | .fexp2 d a => some (series1Of k d a sfExp2 fun x j y => quotient (exactSum (weighted x y j)) 0xB17217F7D1CF79AC (j * 2 ^ 64) Val.one)
  | .flog2 d a => some (series1Of k d a sfLog2 fun x j y =>
      quotient (exactSum (((coef x j).timesNat j).term :: sumOver 1 (j - 1) fun n =>
        ((mulTerm ((coef y n).timesNat n) (coef x (j - n))).mul (.fin false 0xB17217F7D1CF79AC (-64))).negate))
        (2 ^ 64) (j * 0xB17217F7D1CF79AC) (coef x 0))
  | .ftanh d a => some (series1Of k d a sfTanh (wQuotient true))
  | .fsigm d a => some (series1Of k d a sfSigm (wQuotient false))
  | _ => none

/-- The two chains of R83 over a constant num/den: sines si and cosines co of a jet, coefficient by coefficient. -/
def SinCos (num den : Nat) (a : Jet) (k : Nat) (s0 c0 : Fres) (si co : List Fres) : Prop :=
  si.length = k + 1 ∧ co.length = k + 1 ∧ si.head? = some s0 ∧ co.head? = some c0 ∧
    ∀ j, 1 ≤ j → j ≤ k →
      si[j]? = some (quotient (exactSum (weighted a (patterns (co.take j)) j)) num (j * den) Val.one) ∧
      co[j]? = some (quotient (exactSum (weighted a (patterns (si.take j)) j)).negate num (j * den) Val.one)

/-- The sine and cosine instructions: destination, source, the constant, both functions, and whether the sines are delivered
(R83, R107, R108). -/
def sineForm (i : Instr) : Option (VReg × Src × (Nat × Nat) × (BitVec 32 → Fres) × (BitVec 32 → Fres) × Bool) :=
  match i with
  | .fsin d a => some (d, a, (1, 1), sfSin, sfCos, true)
  | .fcos d a => some (d, a, (1, 1), sfSin, sfCos, false)
  | .fsint d a => some (d, a, (0xC90FDAA22168C235, 2 ^ 61), sfSint, sfCost, true)
  | .fcost d a => some (d, a, (0xC90FDAA22168C235, 2 ^ 61), sfSint, sfCost, false)
  | _ => none

/-! ## Rounding, conversions, matrix helpers -/

/-- An instruction that writes registers and raises flags at once. -/
structure FlagForm where
  srcs : List Src
  reads : List Nat
  writes : List Nat
  regs : LaneEnv → List (Nat × BitVec 32)
  flags : LaneEnv → BitVec 40

/-- One register with its flags in group 0. -/
def flagged (d : VReg) (a : Src) (f : BitVec 32 → BitVec 32 × Flags5) : FlagForm :=
  { srcs := [a], reads := srcRegs a 1, writes := [d.toNat], regs := fun e => [(d.toNat, (f (e.src a)).1)],
    flags := fun e => flagsAt 0 (f (e.src a)).2 }
/-- Registers without flags. -/
def unflagged (a : Src) (writes : List Nat) (regs : BitVec 32 → List (Nat × BitVec 32)) : FlagForm :=
  { srcs := [a], reads := srcRegs a 1, writes := writes, regs := fun e => regs (e.src a), flags := fun _ => 0 }

/-- The integer part of the magnitude m·2^e, and whether a fraction was dropped. -/
def wholePart (m : Nat) (e : Int) : Nat × Bool :=
  if 0 ≤ e then (m * 2 ^ e.toNat, false) else (m / 2 ^ (-e).toNat, m % 2 ^ (-e).toNat != 0)
/-- RTZ to an integer between two limits: a NaN gives 0, a value outside saturates, both with invalid (R64, R111). -/
def toInteger (lo hi : Int) (x : BitVec 32) : BitVec 32 × Flags5 :=
  match val32 x with
  | .nan => (0, 1)
  | .inf neg => (BitVec.ofInt 32 (if neg then lo else hi), 1)
  | .fin neg m e =>
    let v : Int := if neg then -((wholePart m e).1 : Int) else ((wholePart m e).1 : Int)
    if v < lo then (BitVec.ofInt 32 lo, 1)
    else if hi < v then (BitVec.ofInt 32 hi, 1)
    else (BitVec.ofInt 32 v, if (wholePart m e).2 then 16 else 0)
/-- An integer rounded once to FP32. -/
def fromInteger (v : Int) : BitVec 32 × Flags5 :=
  let r := roundVal .fp32 .toInf (.fin (decide (v < 0)) v.natAbs 0)
  (BitVec.ofNat 32 r.bits, r.flags)

/-- A magnitude rounded to an integer in a mode (R110). -/
def integral (mode : Mode) (neg : Bool) (m : Nat) (e : Int) : Nat :=
  let w := wholePart m e
  let half := 2 * (m % 2 ^ (-e).toNat)
  let up : Bool := match mode with
    | .rne => w.2 && (decide (2 ^ (-e).toNat < half) || (half == 2 ^ (-e).toNat && w.1 % 2 == 1))
    | .rtz => false
    | .floor => w.2 && neg
    | .ceil => w.2 && !neg
  if up then w.1 + 1 else w.1
/-- FRND: the integral value, a zero keeping the sign of a (R110). -/
def roundIntegral (mode : Mode) (x : BitVec 32) : BitVec 32 :=
  match val32 x with
  | .nan => 0x7FC00000
  | .inf _ => x
  | .fin neg m e => BitVec.ofNat 32 (roundVal .fp32 .toInf (.fin neg (integral mode neg m e) 0)).bits

/-- FRND of a mode at order k. -/
def rounded (mode : Mode) (k : Nat) (d : VReg) (a : Src) : FlagForm :=
  unflagged a (vregs d (k + 1)) fun x => group d (roundIntegral mode x :: List.replicate k 0)
/-- A BF16 half widened (R112). -/
def bf16Widen (h : Nat) : BitVec 32 := if 0x7F80 < h % 2 ^ 15 then 0x7FC00000 else BitVec.ofNat 32 (h * 2 ^ 16)
/-- Two roundings into the halves of a register, their flags merged (R112). -/
def packed (d : VReg) (a b : Src) (f : Fmt) : FlagForm :=
  { srcs := [a, b], reads := srcRegs a 1 ++ srcRegs b 1, writes := [d.toNat],
    regs := fun e => [(d.toNat, BitVec.ofNat 32
      ((roundVal f .toInf (val32 (e.src a))).bits + 2 ^ 16 * (roundVal f .toInf (val32 (e.src b))).bits))],
    flags := fun e => flagsAt 0 ((roundVal f .toInf (val32 (e.src a))).flags ||| (roundVal f .toInf (val32 (e.src b))).flags) }
/-- Four bytes widened (R113). -/
def unpacked (d : VReg) (a : Src) (f : Fmt) : FlagForm :=
  unflagged a (vregs d 4) fun x => group d ([0, 1, 2, 3].map fun j => widen f (x.toNat / 2 ^ (8 * j) % 2 ^ 8))
/-- Four registers converted into bytes, saturating, their flags merged (R65, R113). -/
def packed4 (d a : VReg) (f : Fmt) : FlagForm :=
  let r (e : LaneEnv) (j : Nat) : Fres := roundVal f .saturate (val32 (e.own.v32 (a.toNat + j)))
  { srcs := [], reads := vregs a 4, writes := [d.toNat],
    regs := fun e => [(d.toNat, BitVec.ofNat 32
      ((r e 0).bits + 2 ^ 8 * (r e 1).bits + 2 ^ 16 * (r e 2).bits + 2 ^ 24 * (r e 3).bits))],
    flags := fun e => flagsAt 0 ((r e 0).flags ||| (r e 1).flags ||| (r e 2).flags ||| (r e 3).flags) }

/-- Rounding and conversions (R110 to R113). -/
def convertForm (k : Nat) (i : Instr) : Option FlagForm :=
  match i with
  | .frndRne d a => some (rounded .rne k d a)
  | .frndRtz d a => some (rounded .rtz k d a)
  | .frndFloor d a => some (rounded .floor k d a)
  | .frndCeil d a => some (rounded .ceil k d a)
  | .cvtF32I32 d a => some (flagged d a fun x => fromInteger x.toInt)
  | .cvtF32N32 d a => some (flagged d a fun x => fromInteger (x.toNat : Int))
  | .cvtI32F32 d a => some (flagged d a (toInteger (-2 ^ 31) (2 ^ 31 - 1)))
  | .cvtN32F32 d a => some (flagged d a (toInteger 0 (2 ^ 32 - 1)))
  | .unpkBf16lo d a => some (unflagged a [d.toNat] fun x => [(d.toNat, bf16Widen (x.toNat % 2 ^ 16))])
  | .unpkBf16hi d a => some (unflagged a [d.toNat] fun x => [(d.toNat, bf16Widen (x.toNat / 2 ^ 16))])
  | .packBf16 d a b => some (packed d a b .bf16)
  | .packF16 d a b => some (packed d a b .fp16)
  | .unpkE4m3 d a => some (unpacked d a .e4m3)
  | .unpkE5m2 d a => some (unpacked d a .e5m2)
  | .pkE4m3 d a => some (packed4 d a .e4m3)
  | .pkE5m2 d a => some (packed4 d a .e5m2)
  | _ => none
/-! ## Special registers, indexes, loops, flags and MACC -/

/-- The special lane registers by index (R99). -/
def specialTable (e : LaneEnv) : List (BitVec 32) :=
  [BitVec.ofNat 32 e.lane, BitVec.ofNat 32 e.teamId, BitVec.ofNat 32 e.wg.teams.length, BitVec.ofNat 32 e.wg.nlive,
   BitVec.ofNat 32 e.wg.wgid, BitVec.ofNat 32 e.wg.nwg, BitVec.ofNat 32 e.wg.lcore, BitVec.ofNat 32 e.wg.ldie,
   BitVec.ofNat 32 e.wg.ndie, BitVec.ofNat 32 (match e.team.jord with | .k0 => 0 | .k1 => 1 | .k3 => 3 | .k7 => 7),
   e.team.xpat, spGet e.own.lc 0, spGet e.own.lc 1, spGet e.own.lc 2, BitVec.ofNat 32 e.own.lr.toNat,
   BitVec.ofNat 32 (e.own.lr.toNat / 2 ^ 32),
   BitVec.ofNat 32 (((List.range 8).map fun p => if e.own.pred p then 2 ^ p else 0).sum),
   BitVec.ofNat 32 e.cycles.toNat, e.own.clkhi]

/-- The extent of a coordinate of a shape entry, zero standing for 2^32 (R100, R101). -/
def extent (x : BitVec 256) (i : Nat) : Nat :=
  if x.toNat / 2 ^ (64 + 32 * i) % 2 ^ 32 = 0 then 2 ^ 32 else x.toNat / 2 ^ (64 + 32 * i) % 2 ^ 32
/-- Coordinate i of a linear index under a shape entry (R101). -/
def coordinate (x : BitVec 256) (l : BitVec 64) (i : Nat) : BitVec 32 :=
  let n := min (x.toNat % 2 ^ 3) 5
  let q := l.toNat / ((List.range i).map (extent x)).prod
  if n = 0 then BitVec.ofNat 32 (if i < 2 then l.toNat / 2 ^ (32 * i) else 0)
  else if i + 1 < n then BitVec.ofNat 32 (q % extent x i)
  else if i + 1 = n then BitVec.ofNat 32 q
  else 0

/-- Group c of JST as a number (R8). -/
def flagGroup (j : BitVec 40) (c : Nat) : Nat := j.toNat / 2 ^ (5 * c) % 2 ^ 5
/-- JST with group c zero. -/
def withoutGroup (j : BitVec 40) (c : Nat) : BitVec 40 := BitVec.ofNat 40 (j.toNat - flagGroup j c * 2 ^ (5 * c))

/-- The MACC instructions (R172): registers written and flags, from the 16 registers of D. -/
def maccForm (i : Instr) : Option FlagForm :=
  let row (d : VReg) (e : LaneEnv) (n : Nat) : Val := val32 (e.own.v32 (d.toNat + n))
  let merged (f : Nat → Fres) : BitVec 40 := flagsAt 0 (((List.range 16).map fun n => (f n).flags).foldl (fun x y => x ||| y) 0)
  match i with
  | .maccZero d => some ⟨[], [], vregs d 16, fun _ => group d (List.replicate 16 0), fun _ => 0⟩
  | .maccBf16 d a => some ⟨[], vregs d 16, vregs a 8,
      fun e => group a ((List.range 8).map fun j => BitVec.ofNat 32
        ((roundVal .bf16 .toInf (row d e (2 * j))).bits + 2 ^ 16 * (roundVal .bf16 .toInf (row d e (2 * j + 1))).bits)),
      fun e => merged fun n => roundVal .bf16 .toInf (row d e n)⟩
  | .maccE4m3 d a => some ⟨[], vregs d 16, vregs a 4,
      fun e => group a ((List.range 4).map fun j => BitVec.ofNat 32
        (((List.range 4).map fun h => 2 ^ (8 * h) * (roundVal .e4m3 .saturate (row d e (4 * j + h))).bits).sum)),
      fun e => merged fun n => roundVal .e4m3 .saturate (row d e n)⟩
  | .maccScale d b =>
      let scaled (e : LaneEnv) (n : Nat) : Fres :=
        fusedSum .fp32 [mulTerm (row d e n) (val32 (BitVec.ofNat 32 (e.team.sreg b.toNat).toNat))]
      some ⟨[], vregs d 16, vregs d 16, fun e => group d (patterns ((List.range 16).map (scaled e))), fun e => merged (scaled e)⟩
  | _ => none

/-! ## Matrix instructions -/

/-- Length along k and length of a sum block of each type (R159). -/
def mmaLength : MmaType → Nat
  | .bf16 => 16 | .f16 => 16 | .mxfp4 => 128 | _ => 32
def mmaBlockLength : MmaType → Nat
  | .bf16 => 16 | .f16 => 16 | _ => 32
/-- Bits of an element, registers of its A and B elements, and elements to a scale (R160, R161). -/
def elemBits : MmaType → Nat
  | .bf16 => 16 | .f16 => 16 | .mxfp4 => 4 | _ => 8
def aRegs : MmaType → Nat
  | .mxfp4 => 16 | _ => 8
def bRegs : MmaType → Nat
  | .mxfp4 => 4 | _ => 2
def hasScale : MmaType → Bool
  | .bf16 => false | .f16 => false | .e4m3 => false | .e5m2 => false | _ => true
def perScale : MmaType → Nat
  | .s8E4m3 => 16 | .s8E5m2 => 16 | _ => 32

/-- Bits w·n and up of a word. -/
def slice (x w n : Nat) : Nat := x / 2 ^ (w * n) % 2 ^ w

/-- Registers of one part of an operand group, its scale included. -/
def partRegs (t : MmaType) (n : Nat) : Nat := if hasScale t then n + 1 else n

/-- Aval(i, k) of a part of an operand (R161 in registers, R164 in scratch). -/
def aValue (t : MmaType) (w : Wg) (tm : Team) (a : MmaSrc) (part i k : Nat) : Val :=
  let per := 32 / elemBits t
  match a with
  | .regs v =>
    let r := v.toNat + part * partRegs t (aRegs t)
    mmaValue t (slice ((tm.thread i).v32 (r + k / per)).toNat (elemBits t) (k % per))
      (slice ((tm.thread i).v32 (r + aRegs t)).toNat 8 (k / perScale t))
  | .scratch x =>
    let d := mmaDesc tm x
    let tile := if hasScale t then 2 * part else part
    mmaValue t (slice (readLE w.scratch (d.base + tile * d.tilep + i * d.rowp + 4 * (k / per)) 4) (elemBits t) (k % per))
      (readLE w.scratch (d.base + (tile + 1) * d.tilep + 4 * i + k / perScale t) 1)

/-- Bval(k, n) of a part of an operand. -/
def bValue (t : MmaType) (w : Wg) (tm : Team) (b : MmaSrc) (part k n : Nat) : Val :=
  let per := 32 / elemBits t
  match b with
  | .regs v =>
    let r := v.toNat + part * partRegs t (bRegs t)
    -- columns to a lane: 4 of 16 bits, 8 of 8 bits; two rows of k to a lane of 4-bit elements
    let at_ : Nat × Nat := if elemBits t = 16 then (4 * k + n / 4, n % 4) else if elemBits t = 8 then (2 * k + n / 8, n % 8)
      else (k / 2, 16 * (k % 2) + n)
    mmaValue t (slice ((tm.thread at_.1).v32 (r + at_.2 / per)).toNat (elemBits t) (at_.2 % per))
      (((tm.thread (16 * (k / perScale t) + n)).v32 (r + bRegs t)).toNat % 2 ^ 8)
  | .scratch x =>
    let d := mmaDesc tm x
    let tile := if hasScale t then 2 * part else part
    mmaValue t
      (slice (readLE w.scratch (d.base + tile * d.tilep + k * d.rowp + n * elemBits t / 8) (max 1 (elemBits t / 8)))
        (elemBits t) (if elemBits t = 4 then n % 2 else 0))
      (readLE w.scratch (d.base + (tile + 1) * d.tilep + 16 * (k / perScale t) + n) 1)

/-- MMA_Row of R165 over the first blocks: the accumulator, and the flags of every rounding. -/
def accumulate (terms : Nat → List Term) (c : Option (BitVec 32)) : Nat → Option (BitVec 32) × Flags5
  | 0 => (c, 0)
  | b + 1 =>
    let before := accumulate terms c b
    let f := fusedSum .fp32 (terms b ++ (before.1.map fun x => (val32 x).term).toList)
    (some (BitVec.ofNat 32 f.bits), before.2 ||| f.flags)

/-- What an MMA delivers to lane i: registers, and flags of JST groups 0 and 1 (R88, R165). -/
structure MmaRow where
  regs : List (Nat × BitVec 32)
  flags : BitVec 40

/-- The row of lane i: at order 0 C_0 of 16 columns; at order 1 C_0 and C_1 of each column, interleaved. -/
def mmaRowOf (t : MmaType) (w : Wg) (tm : Team) (a b : MmaSrc) (z : Bool) (d : VReg) (i : Nat) : MmaRow :=
  let block (x y : Nat) (n c : Nat) : List Term := (List.range (mmaBlockLength t)).map fun j =>
    mulTerm (aValue t w tm a x i (c * mmaBlockLength t + j)) (bValue t w tm b y (c * mmaBlockLength t + j) n)
  let blocks := mmaLength t / mmaBlockLength t
  let start (r : Nat) : Option (BitVec 32) := if z then none else some ((tm.thread i).v32 (d.toNat + r))
  let any (f : Nat → Flags5) : Flags5 := ((List.range 16).map f).foldl (fun x y => x ||| y) 0
  if tm.jord = .k0 then
    let c (n : Nat) : Option (BitVec 32) × Flags5 := accumulate (block 0 0 n) (start n) blocks
    ⟨(List.range 16).map fun n => (d.toNat + n, (c n).1.getD 0), flagsAt 0 (any fun n => (c n).2)⟩
  else
    let c0 (n : Nat) : Option (BitVec 32) × Flags5 := accumulate (block 0 0 n) (start (2 * n)) blocks
    let c1 (n : Nat) : Option (BitVec 32) × Flags5 :=
      accumulate (fun c => block 0 1 n c ++ block 1 0 n c) (start (2 * n + 1)) blocks
    ⟨(List.range 32).map fun r => (d.toNat + r, if r % 2 = 0 then (c0 (r / 2)).1.getD 0 else (c1 (r / 2)).1.getD 0),
      flagsAt 0 (any fun n => (c0 n).2) ||| flagsAt 1 (any fun n => (c1 n).2)⟩

/-- The three matrix instructions: D, A, B, type, and ZA. -/
def mmaForm (i : Instr) : Option (VReg × MmaSrc × MmaSrc × MmaType × Bool) :=
  match i with
  | .mmaRr d a b t z => some (d, .regs a, .regs b, t, z)
  | .mmaRs d a b t z => some (d, .regs a, .scratch b, t, z)
  | .mmaSs d a b t z => some (d, .scratch a, .scratch b, t, z)
  | _ => none

/-- An MMA can issue for a group: jet order 0 or 1, the extended block where it is named, scratch operands that pass the
checks of R164, a power token, nothing outstanding and nothing poisoned (R160, R164, R168). -/
structure MmaReady (s : State) (g : Group) (d : VReg) (a b : MmaSrc) (t : MmaType) : Prop where
  issues : s.Issues g
  order : (teamOf s g).jord = .k0 ∨ (teamOf s g).jord = .k1
  held : (∀ r ∈ vregs d (16 * (orderParts (teamOf s g).jord.order + 1)) ++ a.group (partRegs t (aRegs t)) (orderParts (teamOf s g).jord.order)
      ++ b.group (partRegs t (bRegs t)) (orderParts (teamOf s g).jord.order), r < 32) ∨ (teamOf s g).ext = true
  aFits : a.fault (s.wg g.wg) (teamOf s g) t true (orderParts (teamOf s g).jord.order) = none
  bFits : b.fault (s.wg g.wg) (teamOf s g) t false (orderParts (teamOf s g).jord.order) = none
  token : (s.record (s.wg g.wg).launch).lease.ready (clusterOf (s.wg g.wg).core) = true
  settled : ∀ th ∈ (teamOf s g).threads, th.outs = [] ∧ th.poison = []
  whole : (s.wg g.wg).poison = []

/-! ## Collectives and cross-lane instructions -/

/-- What a collective combines over its participants, each given by lane, predicate and source, in ascending lane order: the
values written in the participant of a lane, and the flags (R116 to R118). -/
def collectiveValue (i : Instr) (l : Nat) (ps : List Share) : Option (List (BitVec 32) × Flags5) :=
  let ballot : Nat := (ps.map fun x => if x.p then 2 ^ x.lane else 0).sum
  let ints : List Int := ps.map fun x => x.x.toInt
  let upto : List Share := ps.filter fun x => decide (x.lane ≤ l)
  match i with
  | .ballot _ _ => some ([BitVec.ofNat 32 ballot, BitVec.ofNat 32 (ballot / 2 ^ 32)], 0)
  | .any _ _ => some ([if ps.any (fun x => x.p) then 1 else 0], 0)
  | .all _ _ => some ([if ps.all (fun x => x.p) then 1 else 0], 0)
  | .count _ _ => some ([BitVec.ofNat 32 (ps.countP fun x => x.p)], 0)
  | .reduxIadd _ _ => some ([BitVec.ofNat 32 (ps.map fun x => x.x.toNat).sum], 0)
  | .reduxIminS _ _ => some ([BitVec.ofInt 32 (ints.min?.getD 0)], 0)
  | .reduxImaxS _ _ => some ([BitVec.ofInt 32 (ints.max?.getD 0)], 0)
  | .reduxOr _ _ => some ([ps.foldr (fun x r => x.x ||| r) 0], 0)
  | .scanIadd _ _ => some ([BitVec.ofNat 32 (upto.map fun x => x.x.toNat).sum], 0)
  | .scanImaxS _ _ => some ([BitVec.ofInt 32 ((upto.map fun x => x.x.toInt).max?.getD 0)], 0)
  | .scanIaddExcl _ _ => some ([BitVec.ofNat 32 ((ps.filter fun x => decide (x.lane < l)).map fun x => x.x.toNat).sum], 0)
  | .scanFadd _ _ =>
    let step (r : Fres) (x : Share) : Fres :=
      let y := fusedSum .fp32 [(decodeFp .fp32 r.bits).term, (val32 x.x).term]
      ⟨y.bits, r.flags ||| y.flags⟩
    let acc := (upto.drop 1).foldl step ⟨((upto.head?.map Share.x).getD 0).toNat, 0⟩
    some ([BitVec.ofNat 32 acc.bits], acc.flags)
  | _ => none

/-- Destination, source and predicate of a collective. -/
def collectiveOperands (i : Instr) : Option (VReg × Option Src × PReg) :=
  match i with
  | .ballot d p => some (d, none, p) | .any d p => some (d, none, p) | .all d p => some (d, none, p)
  | .count d p => some (d, none, p)
  | .reduxIadd d a => some (d, some a, 7) | .reduxIminS d a => some (d, some a, 7) | .reduxImaxS d a => some (d, some a, 7)
  | .reduxOr d a => some (d, some a, 7) | .scanIadd d a => some (d, some a, 7) | .scanFadd d a => some (d, some a, 7)
  | .scanImaxS d a => some (d, some a, 7) | .scanIaddExcl d a => some (d, some a, 7)
  | _ => none

/-- The participant of a lane that reads its own registers. -/
def shareOf (s : State) (g : Group) (src : Option Src) (p : PReg) (l : Nat) (th : Thread) : Share :=
  { lane := l, p := th.pred p.toNat, x := (src.map (envOf s g l th).src).getD 0 }

/-- The registers a collective writes for values. -/
def collectiveOut (id : Nat) (d : VReg) (v : List (BitVec 32) × Flags5) : Out :=
  { id := id, ready := true, regs := group d v.1, p6 := none, flags := flagsAt 0 v.2 }

/-- The lane a slot descriptor reads from lane i (R35). -/
def patternLane (slot i : Nat) : Nat :=
  let a := slot % 2 ^ 6
  if slot / 2 ^ 6 = 0 then (i + a) % 64
  else if slot / 2 ^ 6 = 1 then i ^^^ a
  else if slot / 2 ^ 6 = 2 then (i ^^^ (2 ^ (a % 2 ^ 3) - 1)) % 64
  else a

/-- The group of a team that stands at a rendezvous. -/
def standingGroup (s : State) (u ti : Nat) (pc : BitVec 64) : Group := ⟨u, ti, 0, pc, s.nextId⟩

/-- The members of the rendezvous that the lanes of a group reach at its instruction: those of the one begun there already, else the
member mask as it stands (R36, R115; DEDUCED, log 35). -/
def reached (s : State) (g : Group) (mask : BitVec 64) : BitVec 64 := ((teamOf s g).meetingAt g.pc).elim mask Meeting.mask
/-- What each of them takes into it: the members, the team's order, the word and the pattern as they stand at its issue, and the lanes its
patterned sources read (R36, R78, R186). -/
def meetingFor (s : State) (g : Group) (m cross : BitVec 64) : Meeting :=
  ⟨m, (teamOf s g).jord, s.wordAt (s.wg g.wg) (teamOf s g) g.pc, (teamOf s g).xpat, cross⟩
/-- A thread stands in a rendezvous. -/
def standing (k : Meeting) (th : Thread) : Thread := { th with status := .waiting (.rendezvous k) }
/-- A thread whose operation waits on Percale or another agent looks again after a step that may have ended the wait. -/
def looked (th : Thread) : Thread :=
  match th.status with
  | .waiting .percale => { th with status := .running }
  | .waiting (.service _) => { th with status := .running }
  | _ => th

/-- A rendezvous of the members `m` can complete: the module has power, the workgroup runs, and the members that have not exited all
stand at the instruction, the one of lane l under `ks l`, and one of them as the rendezvous began (R36, R78, R115; log 35). -/
structure Gathered (s : State) (u ti : Nat) (pc : BitVec 64) (i : Instr) (m : BitVec 64) (ks : Nat → Meeting) : Prop where
  powered : s.powered = true
  active : s.active u ti = true
  begun : ∃ l, l < 64 ∧ inMask m l = true ∧ (((s.wg u).team ti).thread l).exited = false ∧ (ks l).mask = m ∧
    ((s.wg u).team ti).meetingAt pc = some (ks l)
  live : ∀ l, l < 64 → inMask m l = true → l < ((s.wg u).team ti).threads.length
  all_ : ∀ l, l < 64 → inMask m l = true → (((s.wg u).team ti).thread l).exited = false →
    (((s.wg u).team ti).thread l).status = .waiting (.rendezvous (ks l)) ∧ (((s.wg u).team ti).thread l).pc = pc ∧
      decode (ks l).word = .instr i

/-- The register-only lane instructions that raise or clear flags at once: float arithmetic whose results are not pending,
conversions to and from integers and to narrower formats, JFLG with a clear, and MACC (R64, R65, R85 to R87, R112, R172). -/
def raisesFlags (i : Instr) : Bool :=
  match i with
  | .fadd .. => true | .fsub .. => true | .fmul .. => true | .ffma .. => true | .ffmsub .. => true | .ffnma .. => true
  | .cvtF32I32 .. => true | .cvtF32N32 .. => true | .cvtI32F32 .. => true | .cvtN32F32 .. => true
  | .packBf16 .. => true | .packF16 .. => true | .pkE4m3 .. => true | .pkE5m2 .. => true
  | .jflgRc .. => true | .jflgClr .. => true
  | .maccBf16 .. => true | .maccE4m3 .. => true | .maccScale .. => true
  | _ => false
/-! ## Memory instructions -/

/-- Bytes of a size; registers of a number of bytes (R33, R122). -/
def sizeBytes : Size → Nat
  | .b8 => 1 | .b16 => 2 | .b32 => 4 | .b64 => 8 | .b128 => 16 | .b256 => 32
def regsFor (n : Nat) : Nat := (n + 3) / 4
/-- Registers of a thread from r as one number, the first lowest, cut to n bytes (R122). -/
def dataIn (th : Thread) (r n : Nat) : Nat :=
  ((List.range (regsFor n)).map fun j => (th.v32 (r + j)).toNat * 2 ^ (32 * j)).sum % 2 ^ (8 * n)
/-- A value over the registers from r, zero-extended (R122). -/
def dataOut (r n v : Nat) : List (Nat × BitVec 32) := (List.range (regsFor n)).map fun j => (r + j, BitVec.ofNat 32 (v / 2 ^ (32 * j)))

/-- A lane memory instruction: what kind of access of how many bytes, its registers, its ordering, hint and colour, and the
operand of an atomic and the new value of a compare-and-swap (R131 to R142). -/
structure MemForm where
  kind : AccKind
  bytes : Nat
  dest : VReg
  index : VReg
  base : SReg
  hint : Hint := .normal
  order : Order := .rlx
  colour : Nat := 0
  reads : List Nat
  writes : List Nat
  data : Thread → Nat
  second : Thread → Nat := fun _ => 0

/-- An atomic of one operand, and compare-and-swap (R140, R142). -/
def atomForm (op : AtomOp) (d x : VReg) (b : SReg) (o : Order) (n : Nat) : MemForm :=
  { kind := .atomic op, bytes := n, dest := d, index := x, base := b, order := o,
    reads := x.toNat :: vregs d (if op = .cas then 2 * regsFor n else regsFor n), writes := [], data := fun th => dataIn th d.toNat n,
    second := fun th => if op = .cas then dataIn th (d.toNat + regsFor n) n else 0 }
def widthBytes : AtomWidth → Nat
  | .w32 => 4 | .w64 => 8

/-- The atomics of the lane set (R140, R142). -/
def atomicOf (i : Instr) : Option MemForm :=
  match i with
  | .atomAdd d x b o w => some (atomForm .add d x b o (widthBytes w))
  | .atomMinS d x b o w => some (atomForm .minS d x b o (widthBytes w))
  | .atomMaxS d x b o w => some (atomForm .maxS d x b o (widthBytes w))
  | .atomMinN d x b o w => some (atomForm .minN d x b o (widthBytes w))
  | .atomMaxN d x b o w => some (atomForm .maxN d x b o (widthBytes w))
  | .atomAnd d x b o w => some (atomForm .and d x b o (widthBytes w))
  | .atomOr d x b o w => some (atomForm .or d x b o (widthBytes w))
  | .atomXor d x b o w => some (atomForm .xor d x b o (widthBytes w))
  | .atomExch d x b o w => some (atomForm .exch d x b o (widthBytes w))
  | .atomCas d x b o w => some (atomForm .cas d x b o (widthBytes w))
  | .atomFadd d x b o => some (atomForm .fadd d x b o 4)
  | .atomFmax d x b o => some (atomForm .fmax d x b o 4)
  | _ => none

/-- A store or a join of the registers from d. -/
def putForm (k : AccKind) (d x : VReg) (b : SReg) (c : Colour) (z : Size) : MemForm :=
  { kind := k, bytes := sizeBytes z, dest := 0, index := x, base := b, colour := c.toNat,
    reads := x.toNat :: vregs d (regsFor (sizeBytes z)), writes := [], data := fun th => dataIn th d.toNat (sizeBytes z) }
/-- A load into the registers from d. -/
def getForm (d x : VReg) (b : SReg) (h : Hint) (z : Size) : MemForm :=
  { kind := .load, bytes := sizeBytes z, dest := d, index := x, base := b, hint := h, reads := [x.toNat],
    writes := vregs d (regsFor (sizeBytes z)), data := fun _ => 0 }

/-- The lane instructions that access global memory (R131, R132, R136, R138, R139). -/
def globalForm (i : Instr) : Option MemForm :=
  match i with
  | .ldG d x b c z => some (getForm d x b c z)
  | .stG d x b c z => some (putForm .store d x b c z)
  | .ldth d x b z => some { putForm .threshold d x b 0 z with dest := d }
  | .ljoin d x b c z => some (putForm .join d x b c z)
  | i => atomicOf i
/-- The lane instructions that access scratch (R134, R139). -/
def scratchForm (i : Instr) : Option MemForm :=
  match i with
  | .ldS d x b z => some (getForm d x b .normal z)
  | .stS d x b c z => some (putForm .store d x b c z)
  | i => atomicOf i

/-- The byte a thread's global access addresses: sB plus vX read as unsigned, modulo 2^64 (R123). -/
def MemForm.address (f : MemForm) (tm : Team) (th : Thread) : Nat :=
  ((tm.sreg f.base.toNat).toNat + (th.v32 f.index.toNat).toNat) % 2 ^ 64

/-- An access is admitted at issue: aligned, below 2^63, inside one enabled range, of a kind that takes it (R123, R124, R129,
R133). -/
structure Admitted (c : Ctx) (k : AccKind) (uniform : Bool) (va n : Nat) (h : Hit) : Prop where
  aligned : va % n = 0
  below : va + n ≤ 2 ^ 63
  range : c.hit va n = some h
  kind : kindFault k uniform h n = none

/-- The first fault found at issue, in the order of R129. -/
def issueFault (c : Ctx) (k : AccKind) (uniform : Bool) (va n : Nat) : Option Nat :=
  if va % n ≠ 0 then some 0x06 else if 2 ^ 63 < va + n then some 0x07
  else match c.hit va n with
    | none => some 0x07
    | some h => kindFault k uniform h n

/-- The part of an access that one lane brings: where its range leads (R3, R124). -/
def lanePart (s : State) (g : Group) (l va data second : Nat) (h : Hit) : LaneAcc :=
  let w := s.wg g.wg
  { lane := l, va := va, kind := h.kind, ltype := h.ltype,
    home := if h.kind = .peer then listGet 31 (s.record w.launch).resolution h.pdie else w.die, ia := h.ia, data := data,
    data2 := second, verdict := .waiting }

/-- The access of an issue. -/
def accessFor (s : State) (g : Group) (k : AccKind) (n dest : Nat) (uniform : Bool) (hint : Hint) (o : Order) (c : Nat)
    (ls : List LaneAcc) : Access :=
  { id := g.id, wg := g.wg, team := g.team, pc := g.pc, kind := k, bytes := n, lanes := ls, dest := dest, uniform := uniform,
    hint := hint, order := o, colour := c, limit := (teamOf s g).waitlim.toNat, group := g.lanes, discarded := false, again := false }

/-- The uniform instructions that access memory: kind, bytes, destination, ordering, colour, and the address and data (R184, R185,
R188). -/
structure UniformForm where
  kind : AccKind
  bytes : Nat := 8
  dest : Nat := 0
  order : Order := .rlx
  colour : Nat := 0
  address : Team → Nat
  data : Team → Nat := fun _ => 0
  second : Team → Nat := fun _ => 0

def satomForm (op : AtomOp) (d a : SReg) (o : Order) : UniformForm :=
  { kind := .atomic op, dest := d.toNat, order := o, address := fun t => (t.sreg a.toNat).toNat, data := fun t => (t.sreg d.toNat).toNat }

def uniformForm (i : Instr) : Option UniformForm :=
  match i with
  | .sld d a i => some { kind := .load, dest := d.toNat, address := fun t => (BitVec.ofInt 64 ((t.sreg a.toNat).toNat + i.toInt)).toNat }
  | .sst a b o c => some ⟨.store, 8, 0, .rlx, c.toNat, fun t => (BitVec.ofInt 64 ((t.sreg a.toNat).toNat + 8 * o.toInt)).toNat,
      fun t => (t.sreg b.toNat).toNat, fun _ => 0⟩
  | .satomAdd d a o => some (satomForm .add d a o)
  | .satomMinS d a o => some (satomForm .minS d a o)
  | .satomMaxS d a o => some (satomForm .maxS d a o)
  | .satomMinN d a o => some (satomForm .minN d a o)
  | .satomMaxN d a o => some (satomForm .maxN d a o)
  | .satomAnd d a o => some (satomForm .and d a o)
  | .satomOr d a o => some (satomForm .or d a o)
  | .satomXor d a o => some (satomForm .xor d a o)
  | .satomExch d a o => some (satomForm .exch d a o)
  | .satomCas d a b o => some { satomForm .cas d a o with data := fun t => (t.sreg b.toNat).toNat, second := fun t => (t.sreg d.toNat).toNat }
  | .shpset a e => some { kind := .shape e.toNat, bytes := 32, address := fun t => (t.sreg a.toNat).toNat }
  | _ => none

/-- The scope of a global atomic: die, module through a peer range, system through a host range (R139). -/
def scopeOfAtomic : RangeKind → Nat
  | .peer => 4 | .host => 5 | _ => 3
/-- Memory keeps every byte that no cluster holds dirty: what is written back writes those bytes only (R261). -/
def kept (s t : State) : Prop :=
  ∀ k, (∀ c ∈ s.cwords, c.word = k / 4 → c.dirty.getLsbD (k % 4) = false) → spGet t.mem k = spGet s.mem k
/-- The dirty words of a cluster are performed at die scope: none is left dirty, memory holds the dirty bytes of every word that no other
cluster holds, and keeps the rest (R148, R250, R261). -/
def published (s t : State) (die cl : Nat) : Prop :=
  kept s t ∧ (∀ c ∈ t.cwords, c.die = die → c.cluster = cl → c.dirty = 0) ∧
    ∀ c ∈ s.cwords, c.die = die → c.cluster = cl → (∀ y ∈ s.cwords, y.word = c.word → y = c) →
      ∀ i, i < 4 → c.dirty.getLsbD i = true → spGet t.mem (4 * c.word + i) = BitVec.ofNat 8 (c.value.toNat / 2 ^ (8 * i))
/-- `t` is `s` after a release by a cluster, if there is one, and otherwise `s`: memory and the cluster caches alone differ. -/
def afterRelease (s t : State) (rel : Prop) (die cl : Nat) : Prop :=
  t = { s with mem := t.mem, cwords := t.cwords } ∧ (rel → published s t die cl) ∧ (¬ rel → t = s)
/-- The die and the cluster of a group. -/
abbrev dieAt (s : State) (g : Group) : Nat := (s.wg g.wg).die
abbrev clusterAt (s : State) (g : Group) : Nat := clusterOf (s.wg g.wg).core
/-- Does an ordering release (R143). -/
def releases : Order → Prop
  | .rel => True | .ar => True | _ => False

/-- The value an atomic of w bits leaves: old x and n are the value in memory, the operand or compare value, and the new value of a
compare-and-swap (R140, R142). -/
def atomicValue (op : AtomOp) (w old x n : Nat) : Nat :=
  match op with
  | .add => (old + x) % 2 ^ w
  | .minS => if (BitVec.ofNat w old).toInt ≤ (BitVec.ofNat w x).toInt then old else x
  | .maxS => if (BitVec.ofNat w x).toInt ≤ (BitVec.ofNat w old).toInt then old else x
  | .minN => if old ≤ x then old else x
  | .maxN => if x ≤ old then old else x
  | .and => old &&& x
  | .or => old ||| x
  | .xor => old ^^^ x
  | .exch => x
  | .cas => if old = x then n else old
  | .fadd => (fusedSum .fp32 [(decodeFp .fp32 old).term, (decodeFp .fp32 x).term]).bits
  | .fmax => (listGet 0 (selectJet 0 true [BitVec.ofNat 32 old] [BitVec.ofNat 32 x]) 0).toNat

/-- One lane of a scratch access: the offset, what it stores or combines, and the old bytes; lanes act in ascending order, each on
what the lanes before it left (R130, R134). -/
def scratchRun (k : AccKind) (n : Nat) : List (Nat × Nat × Nat × Nat) → Sparse 8 → Sparse 8 × List (Nat × Nat)
  | [], m => (m, [])
  | (l, off, x, y) :: rest, m =>
    let old := readLE m off n
    let m' := match k with
      | .store => writeLE m off n x
      | .atomic op => writeLE m off n (atomicValue op (8 * n) old x y)
      | _ => m
    let r := scratchRun k n rest m'
    (r.1, (l, old) :: r.2)

/-- The bytes of a key range that an access leaves as they are. -/
def outside (key n k : Nat) : Prop := k < key ∨ key + n ≤ k

/-- An access of one lane whose verdict is mapped, about to commit: the module has power, no pre-emption has discarded its region and it is
no threshold load that begins again, the links it needs are up, its page leads to memory key `key`, nothing else waits or is cached and no
write of its cluster to its bytes is on its way, and its thread stands in its region (R248, R313). -/
structure Committing (s : State) (a : Access) (x : LaneAcc) (key : Nat) : Prop where
  powered : s.powered = true
  listed : s.accs = [a]
  lane : a.lanes = [x]
  mapped : x.verdict = .mapped
  whole : a.discarded = false
  fresh : a.again = false
  clear : ∀ u ∈ s.unacked, u.kind ≠ 0 → u.die = (s.wg a.wg).die → u.cluster = clusterOf (s.wg a.wg).core →
    u.key + u.bytes ≤ key ∨ key + a.bytes ≤ u.key
  linked : s.linked x.kind (s.wg a.wg).die x.home x.ia = true
  keyed : s.keyOf x.home x.ia = some key
  alone : s.waiters = [] ∧ s.poison = [] ∧ s.cwords = [] ∧ s.roLines = []
  home : (s.wg a.wg).uid = a.wg ∧ a.wg ≠ 0 ∧ a.team < (s.wg a.wg).teams.length
  thread : x.lane < ((s.wg a.wg).team a.team).threads.length
  sized : a.bytes ∈ [1, 2, 4, 8, 16, 32] ∧ key % a.bytes = 0

/-- What a format view makes of the bytes that a part of an access names: a decoded sector, or the bytes as they lie there (R72). -/
abbrev viewOf (s : State) (a : Access) (x : LaneAcc) : ViewAns := s.viewFor x.kind x.home x.ia (s.ctx (s.wg a.wg).ctx).world
/-- The 32-byte sector of a view: as L2 holds it, else as it is decoded (R72). -/
def sectorOf (s : State) (x : LaneAcc) (r view : Nat) (tn : Tensor) : Nat :=
  match s.heldSector x.home r (x.ia / 32) with
  | some f => f.data.toNat
  | none => s.decodeSector x.home tn view (x.ia / 32)

/-- The thread of a lane's part of an access. -/
abbrev threadOf (s : State) (a : Access) (x : LaneAcc) : Thread := ((s.wg a.wg).team a.team).thread x.lane
/-- The thread goes on past the instruction of an access. -/
abbrev pastAccess (th : Thread) : Thread := th.goOn
/-- The threads that a part of an access stands for: its lane's, or those of the group that wait in the region of a uniform one (R174). -/
def stands (s : State) (a : Access) (x : LaneAcc) (l : Nat) : Prop :=
  l < ((s.wg a.wg).team a.team).threads.length ∧
    if a.uniform = true then l < 64 ∧ (((s.wg a.wg).team a.team).thread l).status = .region a.id else l = x.lane
/-- They go on. -/
def goesOn (s t : State) (a : Access) (x : LaneAcc) : Prop :=
  ∀ l, stands s a x l → ((t.wg a.wg).team a.team).thread l = pastAccess (((s.wg a.wg).team a.team).thread l)
/-- They go on with a result outstanding, which a uniform one brings to its uniform register (R28, R174). -/
def brings (s t : State) (a : Access) (x : LaneAcc) (v : Nat) : Prop :=
  (∀ l, stands s a x l → ((t.wg a.wg).team a.team).thread l = pastAccess ((((s.wg a.wg).team a.team).thread l).addOut
    { id := a.id, ready := true, regs := if a.uniform = true then [] else dataOut a.dest a.bytes v, p6 := none, flags := 0 })) ∧
  (a.uniform = true → ((t.wg a.wg).team a.team).uouts = ((s.wg a.wg).team a.team).uouts ++
    [{ id := a.id, ready := true, regs := [(a.dest, BitVec.ofNat 64 v)] }])
/-- What a load of a part of an access finds: the bytes of memory, or those of the decoded sector of a format view (R72, R131). -/
def finds (s : State) (a : Access) (x : LaneAcc) (key v : Nat) : Prop :=
  (viewOf s a x = .raw ∧ v = readLE s.mem key a.bytes) ∨
    ∃ r view tn, x.kind ≠ .lattice ∧ x.kind ≠ .host ∧ viewOf s a x = .view r view tn ∧
      v = sectorOf s x r view tn / 2 ^ (8 * (x.ia % 32)) % 2 ^ (8 * a.bytes)
/-- A dropped store or join has left an owner record of NONMONO (R133, R138, R267). -/
def nonMonoRecorded (s t : State) (a : Access) : Prop :=
  (t.ctx (s.wg a.wg).ctx).recNext = (s.ctx (s.wg a.wg).ctx).recNext + 1 ∧
    ∃ r, (t.ctx (s.wg a.wg).ctx).recs.getLast? = some r ∧ r.bits.toNat % 2 ^ 8 = 0x0D
/-! ## Flow -/

/-- The target of a displacement (R39). -/
def displaced {n : Nat} (pc : BitVec 64) (i : BitVec n) : BitVec 64 := BitVec.ofInt 64 (pc.toNat + 4 + 4 * i.toInt)
/-- A thread runs on at an address. -/
def runsAt (th : Thread) (pc : BitVec 64) : Thread := { th with pc := pc, status := .running }
/-- The target of JMPI and CALLI: a register pair, or a uniform register (R151). -/
def jumpTarget (tm : Team) (a : Target) (th : Thread) : BitVec 64 :=
  match a with
  | .pair v => BitVec.ofNat 64 ((th.v32 v.toNat).toNat + 2 ^ 32 * (th.v32 (v.toNat + 1)).toNat)
  | .uni r => tm.sreg r.toNat
/-- A target that no check of R151 refuses. -/
def goodTarget (s : State) (g : Group) (x : BitVec 64) : Prop := x.toNat % 4 = 0 ∧ (s.ctx (s.wg g.wg).ctx).inCode x.toNat 4 = true
/-- The block is held where a target pair lies in it (R10). -/
def targetHeld (tm : Team) (a : Target) : Prop := match a with
  | .pair v => v.toNat < 31 ∨ tm.ext = true
  | .uni _ => True

/-- Conditions of UBR on sA read as signed (R180). -/
def ubrHolds (c : UbrCond) (x : Int) : Bool :=
  match c with
  | .always => true
  | .zero => decide (x = 0)
  | .nonzero => decide (x ≠ 0)
  | .negative => decide (x < 0)
  | .nonNegative => decide (0 ≤ x)
  | .positive => decide (0 < x)
  | .nonPositive => decide (x ≤ 0)

/-- A trap as it reaches one thread with nothing outstanding (R203): the handler starts, or the thread leaves. -/
def trapped (s : State) (g : Group) (l code ucode : Nat) (t : State) : Prop :=
  let th := (teamOf s g).thread l
  let h := spGet (s.record (s.wg g.wg).launch).handlers (trapClass code)
  if h = 0 ∨ th.tcause.getLsbD 63 = true then ((teamOf t g).thread l).status = .exited
  else (teamOf t g).thread l = { th with tcause := BitVec.ofNat 64 (2 ^ 63 + ucode * 2 ^ 8 + code),
                                         tepc := if code = 0x10 ∨ code = 0x11 then th.pc + 4 else th.pc, pc := h, status := .running }

/-- A thread can receive its fault now: nothing of it is outstanding, and no lower lane of its team has still to receive one of the same
instruction (R47, R203). -/
def receivesNow (tm : Team) (l : Nat) : Prop :=
  (tm.thread l).outs = [] ∧ ∀ m k, m < l → m < tm.threads.length → (tm.thread m).status = .trapping k → (tm.thread m).pc ≠ (tm.thread l).pc
/-- The classes of R202 by cause. -/
def classOf (code : Nat) : Nat :=
  if code = 0x11 then 0 else if code = 0x10 then 1 else if code ∈ [0x06, 0x07, 0x08, 0x09] then 2
  else if code ∈ [0x01, 0x02, 0x03, 0x04] then 3 else if code = 0x05 then 5 else 4

/-- The barrier of a workgroup after a thread has left (OnExit of R155). -/
def afterExit (w : Wg) (th : Thread) (b : Nat) (waits : Bool) : Barrier :=
  let x := w.barrier b
  let n := if (spGet th.arrived b).toNat = x.phase + 1 then x.count - 1 else x.count
  if x.expected = 0 then x
  else if x.expected - 1 ≤ n ∧ (0 < n ∨ waits = true) then ⟨x.expected - 1, 0, x.phase + 1⟩
  else ⟨x.expected - 1, n, x.phase⟩

/-! ## Uniform arithmetic -/

/-- Uniform instructions with one result from uniform registers and constants: destination and value (R177 to R179, R39). -/
def scalarForm (i : Instr) : Option (SReg × (Team → BitVec 64)) :=
  let two (d a b : SReg) (f : BitVec 64 → BitVec 64 → BitVec 64) : Option (SReg × (Team → BitVec 64)) :=
    some (d, fun t => f (t.sreg a.toNat) (t.sreg b.toNat))
  let one (d a : SReg) (f : BitVec 64 → BitVec 64) : Option (SReg × (Team → BitVec 64)) := some (d, fun t => f (t.sreg a.toNat))
  let lit (d : SReg) (i : BitVec 18) (bit : Nat) : Option (SReg × (Team → BitVec 64)) :=
    some (d, fun t => let x := (t.sreg d.toNat).toNat
      BitVec.ofNat 64 (x / 2 ^ (bit + 18) * 2 ^ (bit + 18) + i.toNat * 2 ^ bit + x % 2 ^ bit))
  match i with
  | .sadd d a b => two d a b fun x y => BitVec.ofNat 64 (x.toNat + y.toNat)
  | .ssub d a b => two d a b fun x y => BitVec.ofInt 64 (x.toInt - y.toInt)
  | .smul d a b => two d a b fun x y => BitVec.ofNat 64 (x.toNat * y.toNat)
  | .smulhiS d a b => two d a b fun x y => BitVec.ofInt 64 (x.toInt * y.toInt / 2 ^ 64)
  | .smulhiN d a b => two d a b fun x y => BitVec.ofNat 64 (x.toNat * y.toNat / 2 ^ 64)
  | .sand d a b => two d a b fun x y => BitVec.ofNat 64 (x.toNat &&& y.toNat)
  | .sor d a b => two d a b fun x y => BitVec.ofNat 64 (x.toNat ||| y.toNat)
  | .sxor d a b => two d a b fun x y => BitVec.ofNat 64 (x.toNat ^^^ y.toNat)
  | .sandn d a b => two d a b fun x y => BitVec.ofNat 64 (x.toNat &&& (2 ^ 64 - 1 - y.toNat))
  | .sshlv d a b => two d a b fun x y => BitVec.ofNat 64 (x.toNat * 2 ^ (y.toNat % 64))
  | .sshrv d a b => two d a b fun x y => BitVec.ofNat 64 (x.toNat / 2 ^ (y.toNat % 64))
  | .ssarv d a b => two d a b fun x y => BitVec.ofInt 64 (x.toInt / 2 ^ (y.toNat % 64))
  | .srotv d a b => two d a b fun x y => x <<< (y.toNat % 64) ||| x >>> (64 - y.toNat % 64)
  | .sminS d a b => two d a b fun x y => if x.toInt ≤ y.toInt then x else y
  | .smaxS d a b => two d a b fun x y => if x.toInt ≤ y.toInt then y else x
  | .sminN d a b => two d a b fun x y => BitVec.ofNat 64 (min x.toNat y.toNat)
  | .smaxN d a b => two d a b fun x y => BitVec.ofNat 64 (max x.toNat y.toNat)
  | .sclz d a => one d a fun x => if x = 0 then 64 else BitVec.ofNat 64 (63 - Nat.log2 x.toNat)
  | .spopc d a => one d a fun x => BitVec.ofNat 64 ((List.range 64).countP x.getLsbD)
  | .sctz d a => one d a fun x => BitVec.ofNat 64 (((List.range 64).find? x.getLsbD).getD 64)
  | .sbrev d a => one d a BitVec.reverse
  | .smov d a => one d a id
  | .scmp d a b c => two d a b fun x y =>
      if (match c with
        | .eq => decide (x.toInt = y.toInt)
        | .ne => decide (x.toInt ≠ y.toInt)
        | .ltS => decide (x.toInt < y.toInt)
        | .leS => decide (x.toInt ≤ y.toInt)
        | .gtS => decide (y.toInt < x.toInt)
        | .geS => decide (y.toInt ≤ x.toInt)
        | .ltN => decide (x.toNat < y.toNat)
        | .geN => decide (y.toNat ≤ x.toNat)) then 1 else 0
  | .saddi d a i => one d a fun x => BitVec.ofInt 64 (x.toInt + i.toInt)
  | .sandi d a i => one d a fun x => BitVec.ofNat 64 (x.toNat &&& i.toNat)
  | .sori d a i => one d a fun x => BitVec.ofNat 64 (x.toNat ||| i.toNat)
  | .sshli d a n => one d a fun x => BitVec.ofNat 64 (x.toNat * 2 ^ n.toNat)
  | .sshri d a n => one d a fun x => BitVec.ofNat 64 (x.toNat / 2 ^ n.toNat)
  | .ssari d a n => one d a fun x => BitVec.ofInt 64 (x.toInt / 2 ^ n.toNat)
  | .sroti d a n => one d a fun x => x <<< n.toNat ||| x >>> (64 - n.toNat)
  | .smovi d i => some (d, fun _ => BitVec.ofInt 64 i.toInt)
  | .slitA d i => lit d i 14
  | .slitB d i => lit d i 32
  | .slitC d i => lit d i 46
  | _ => none

/-- A uniform register is written and the group goes on; nothing else changes. -/
abbrev writesUniform (s : State) (g : Group) (d : SReg) (v : BitVec 64) : State :=
  (s.modTeam g.wg g.team fun x => x.setS d.toNat v).goOn g
/-- A uniform result that is pending in every thread of the group and in the team (R28, R32); the group goes on. -/
abbrev pendsUniform (s : State) (g : Group) (rs : List (Nat × BitVec 64)) : State :=
  s.pendUniform g rs

/-- A shared-register instruction: what sD receives and the register's new value, and whether the old value is read (R191). -/
def sharedForm (i : Instr) : Option (SReg × GReg × (Team → BitVec 64 → BitVec 64 × BitVec 64) × Bool) :=
  match i with
  | .grd d r => some (d, r, fun _ x => (x, x), true)
  | .gwr d a r => some (d, r, fun t _ => (t.sreg a.toNat, t.sreg a.toNat), false)
  | .gadd d a r => some (d, r, fun t x => (x, BitVec.ofNat 64 (x.toNat + (t.sreg a.toNat).toNat)), true)
  | .gxch d a r => some (d, r, fun t x => (x, t.sreg a.toNat), true)
  | _ => none

/-- What the dispenser of a launch answers to a request for n units (R187). -/
def unitsFrom (r : Rec) (n : Nat) : BitVec 64 × BitVec 64 × Nat :=
  if r.cancelled = true then (BitVec.ofNat 64 (2 ^ 64 - 2), 0, r.next)
  else if r.units ≤ r.next then (BitVec.ofNat 64 (2 ^ 64 - 1), 0, r.next)
  else (BitVec.ofNat 64 r.next, BitVec.ofNat 64 (min n (r.units - r.next)), r.next + min n (r.units - r.next))

/-! ## Control registers and authority -/

/-- The context of a group. -/
abbrev ctxOf (s : State) (g : Group) : Ctx := s.ctx (s.wg g.wg).ctx
/-- The die of a group, and the partition of its context. -/
abbrev dieOf (s : State) (g : Group) : Die := s.die (s.wg g.wg).die
abbrev partOf (s : State) (g : Group) : Part := s.part (ctxOf s g).part

/-- A status word of a code and a reason (R18, R175). -/
def status (code reason : Nat) : BitVec 64 := BitVec.ofNat 64 (if code = 0 then 0 else 2 ^ 63 + 2 ^ 8 * reason + code)
/-- A short-latency instruction with a status: from the state `t` that its effect leaves, sD receives a value, LSTAT takes the
status and the group goes on (R22, R174). -/
def answered (s t : State) (g : Group) (d : SReg) (v st : BitVec 64) : State :=
  ((t.modTeam g.wg g.team fun x => x.setS d.toNat v).modCtx (s.wg g.wg).ctx fun c =>
    { c with lstat := (c.lstat &&& 0xFFFFFFFF00000000) ||| (st &&& 0xFFFF) }).goOn g
/-- An instruction with a status that leaves LSTAT as it is (R175). -/
abbrev replied (t : State) (g : Group) (d : SReg) (st : BitVec 64) : State := writesUniform t g d st
/-- A refusal counts in LSTAT of the context and in REFCNT of its partition (R18, R22, R23). -/
def counted (s : State) (g : Group) : State :=
  (s.modCtx (s.wg g.wg).ctx fun c => { c with lstat := c.lstat + 0x100000000 }).modPart (ctxOf s g).part
    fun p => { p with refcnt := p.refcnt + 1 }
/-- A refused instruction: REFUSED in sD and LSTAT, counted (R18). -/
def refusal (s : State) (g : Group) (d : SReg) (reason : Nat) : State := answered s (counted s g) g d (status 1 reason) (status 1 reason)
/-- Every thread of the group waits. -/
def waits (s : State) (g : Group) (w : Wait) : State := eachThread s g fun _ th => { th with status := .waiting w }

/-- The privileged instructions: destination, the authorities that may execute them (0 operator, 1 owner, 2 auditor), and whether the
result is pending (R19, R24). -/
def rightsOf (i : Instr) : Option (SReg × List Nat × Bool) :=
  match i with
  | .place d _ _ => some (d, [0], false)
  | .unplace d _ => some (d, [0], false)
  | .preempt d _ _ _ => some (d, [0], false)
  | .migrate d _ _ => some (d, [0], false)
  | .resume d _ _ => some (d, [0], false)
  | .mapsync d _ _ => some (d, [0], false)
  | .fopr d _ _ => some (d, [0], true)
  | .creset d _ => some (d, [0, 1], false)
  | .tinv d _ _ => some (d, [1], false)
  | .frpt d _ _ => some (d, [1], true)
  | .dbgHalt d _ _ => some (d, [1], false)
  | .dbgStep d _ _ => some (d, [1], false)
  | .dbgStepall d _ _ => some (d, [1], false)
  | .dbgCont d _ _ => some (d, [1], false)
  | .dbgRdsel d _ _ => some (d, [1], false)
  | .ldk d _ _ => some (d, [1], false)
  | .cntrd d _ => some (d, [2], false)
  | .cntcfg d _ _ => some (d, [2], false)
  | _ => none

/-- The control register an instruction reads: SRDS and the two reads that have an instruction of their own (R181). -/
def readIndex (i : Instr) : Option (SReg × Nat) :=
  match i with
  | .srds d n => some (d, n.toNat)
  | .xstatRead d => some (d, 0x089)
  | .capcauseRead d => some (d, 0x008)
  | _ => none

/-- A control register as SRDS may find it: its index, the authorities whose cells hold r, and what they read (R181, R21). -/
structure ReadRow where
  index : Nat
  readers : List Nat
  value : BitVec 64

/-- The registers that lie in a row, each with its value. -/
def rowOf (base n : Nat) (readers : List Nat) (v : Nat → BitVec 64) : List ReadRow :=
  (List.range n).map fun k => ⟨base + k, readers, v k⟩

/-- The control registers and what each authority reads (R15, R22, R70, R181 to R183, R194, R268 to R270, R325, R327, R328, R335, R340,
R351, R352, R360, R362, R363, R373, R376, R381). -/
def readRows (s : State) (g : Group) : List ReadRow :=
  let w := s.wg g.wg
  let c := ctxOf s g
  let d := dieOf s g
  let p := partOf s g
  let th := (teamOf s g).thread (lowestLane g.lanes)
  let number (n : Nat) : BitVec 64 := BitVec.ofNat 64 n
  let bit (b : Bool) : Nat := if b then 1 else 0
  let dstate := number (d.dstate + 4 * bit d.req + 8 * bit d.paused + 2 ^ 32 * d.short.toNat)
  let engine (e : Engine) (n : Nat) : List ReadRow :=
    let y := s.engFor w e
    [⟨0x010 + 4 * n, [0, 1, 2], y.head⟩, ⟨0x011 + 4 * n, [0, 1, 2], y.seqa⟩,
     ⟨0x012 + 4 * n, [0, 1, 2], number (y.state + 2 ^ 8 * y.err + 2 ^ 16 * (y.seq.toNat % 2 ^ 48))⟩]
  [⟨0x000, [0, 1, 2], number (c.auth + 2 ^ 8 * c.world.toNat + 2 ^ 24 * c.part + 2 ^ 32 * c.handle.toNat)⟩,
   ⟨0x001, [0, 1, 2], c.lstat⟩, ⟨0x002, [0, 1, 2], (teamOf s g).waitlim⟩, ⟨0x003, [0, 1, 2], th.tcause⟩, ⟨0x004, [0, 1, 2], th.tepc⟩,
   ⟨0x006, [1], c.reg 0x006⟩,
   ⟨0x007, [0], number (d.opNext.toNat + 2 ^ 32 * d.opRecs.length + 2 ^ 48 * d.opLost.toNat)⟩,
   ⟨0x007, [1], number (c.recNext.toNat + 2 ^ 32 * c.recs.length + 2 ^ 48 * c.recLost.toNat)⟩, ⟨0x007, [2], 0⟩,
   ⟨0x008, [0, 1], s.capcause c⟩]
  ++ engine .copy 0 ++ engine .gather 1 ++ engine .collective 2
  ++ rowOf 0x020 64 [0, 1, 2] (fun k => c.reg (0x020 + k))
  ++ rowOf 0x060 16 [1, 2] (fun k => c.reg (0x060 + k)) ++ rowOf 0x060 16 [0] (fun _ => 0)
  ++ [⟨0x070, [0], d.ptroot⟩, ⟨0x071, [1], c.reg 0x071⟩] ++ rowOf 0x072 14 [0, 1, 2] (fun _ => 0)
  ++ rowOf 0x080 8 [1] d.xreg
  ++ [⟨0x088, [0, 1], d.xbound⟩,
      ⟨0x089, [1], number (d.backlog.toNat + 2 ^ 16 * (s.lines.countP (fun l => l.held && l.target == w.die) % 2 ^ 16)
        + 2 ^ 32 * d.rounds.toNat)⟩] ++ rowOf 0x08A 6 [0, 1, 2] (fun _ => 0)
  ++ rowOf 0x090 16 [1] (fun k => c.reg (exportKey w.die (0x090 + k)))
  ++ rowOf 0x0A0 24 [0] (fun k => spGet p.diemap k)
  ++ rowOf 0x0C0 4 [0] (fun k => listGet 0 d.links k)
  ++ [⟨0x0C4, [0, 2], d.retcntWord⟩, ⟨0x0C8, [0], dstate⟩, ⟨0x0C8, [1], dstate &&& 0xFFFFFFFB⟩, ⟨0x0C8, [2], dstate &&& 0xFFFFFFF3⟩,
      ⟨0x0C9, [0], d.evachb⟩, ⟨0x0CA, [0], d.evachn⟩,
      ⟨0x0D0, [0, 1, 2], number ((match p.ifstate with | .unlocked => 0 | .locked => 1 | .run => 2 | .error => 3)
        + 2 ^ 32 * p.locks.toNat)⟩,
      ⟨0x0D1, [0, 1, 2], number p.prank.toNat⟩, ⟨0x0D2, [0, 1, 2], p.pcap⟩,
      ⟨0x0D3, [0, 2], number s.hallgrp.toNat⟩, ⟨0x0D4, [0, 2], s.hallseq⟩]
  ++ rowOf 0x0D8 4 [] (fun _ => 0) ++ rowOf 0x100 16 [1] (fun k => spGet d.fmt (0x100 + k))

/-- A read of XSTAT clears BACKLOG, and one of CAPCAUSE the reader's SEEN (R270, R381). -/
def readClears (s : State) (g : Group) (n : Nat) : State :=
  if n = 0x089 then s.modDie (s.wg g.wg).die fun d => { d with backlog := 0 }
  else if n = 0x008 then s.modCtx (s.wg g.wg).ctx fun c => { c with seen := 0 }
  else s

/-- The control register an instruction writes: SWRS and the writes that have an instruction of their own (R181). -/
def writeIndex (i : Instr) : Option (SReg × SReg × Nat) :=
  match i with
  | .swrs d a n => some (d, a, n.toNat)
  | .fmtvWrite d a n => some (d, a, 0x100 + 2 * n.toNat)
  | .fmthWrite d a n => some (d, a, 0x101 + 2 * n.toNat)
  | .rattrWrite d a n => some (d, a, 0x023 + 4 * n.toNat)
  | .rangeBoundWrite d a n b => some (d, a, 0x020 + 4 * n.toNat + match b with | .base => 0 | .lim => 1 | .off => 2)
  | .windowWrite d a n => some (d, a, 0x060 + n.toNat)
  | .engheadWrite d a e => some (d, a, match e with | .copy => 0x010 | .gather => 0x014 | .collective => 0x018)
  | .engseqaWrite d a e => some (d, a, match e with | .copy => 0x011 | .gather => 0x015 | .collective => 0x019)
  | .xschedWrite d a n => some (d, a, 0x080 + n.toNat)
  | .xboundWrite d a => some (d, a, 0x088)
  | .diemapWrite d a n => some (d, a, 0x0A0 + n.toNat)
  | .expbWrite d a n => some (d, a, 0x090 + n.toNat)
  | .ptrootWrite d a => some (d, a, 0x070)
  | .plpolWrite d a => some (d, a, 0x071)
  | .hallkeyWrite d a n => some (d, a, 0x0D8 + n.toNat)
  | .pcapWrite d a => some (d, a, 0x0D2)
  | .dstateWrite d a => some (d, a, 0x0C8)
  | .evachnWrite d a => some (d, a, 0x0CA)
  | _ => none

/-- What the authority of the writer and the partition interface make of a write (R21, R181, R373). -/
inductive WriteJudgement where
  | refused | trap | frozen | proceeds
  deriving DecidableEq, Repr

/-- Is a number in a span of indices. -/
def within (n lo k : Nat) : Bool := decide (lo ≤ n) && decide (n < lo + k)
/-- The judgement by index, authority and whether the interface is out of CONFIG_UNLOCKED. -/
def judged (n auth : Nat) (locked : Bool) : WriteJudgement :=
  let by_ (op own aud : WriteJudgement) : WriteJudgement := if auth = 0 then op else if auth = 1 then own else aud
  let frozenIf (b : Bool) : WriteJudgement := if b then .frozen else .proceeds
  if n ∈ [0x001, 0x002, 0x004, 0x010, 0x011, 0x014, 0x015, 0x018, 0x019] ∨ within n 0x020 64 then .proceeds
  else if n = 0x006 then by_ .refused .trap .refused
  else if within n 0x060 16 then by_ .refused (if locked then .frozen else .refused) .refused
  else if n ∈ [0x070, 0x0C9, 0x0CA] ∨ within n 0x0D8 4 then by_ .proceeds .refused .refused
  else if within n 0x0A0 24 then by_ (frozenIf locked) .refused .refused
  else if n = 0x071 ∨ within n 0x080 8 ∨ within n 0x090 16 then by_ .refused .proceeds .refused
  else if within n 0x100 16 then by_ .refused (frozenIf locked) .refused
  else if n = 0x088 then (if locked then .frozen else by_ .proceeds .trap .refused)
  else if n ∈ [0x0C8, 0x0D1, 0x0D2] then by_ .proceeds .trap .trap
  else if n = 0x0D3 then by_ .proceeds .refused .trap
  else if n = 0x0D4 then by_ .trap .refused .trap
  else .trap

/-- The frame of a mapping has an owner, and no published entry names it inside a window of a context of that owner (R330). -/
def unheld (s : State) (die : Nat) (m : Mapping) : Prop :=
  ∃ h f, m.spot die = (some h, f) ∧ (s.frameOf h f).owner ≠ 0 ∧
    ∀ d, d < 24 → ∀ k ∈ (s.die d).published, k.spot d = (some h, f) → ∀ y ∈ s.ctxs, (s.die d).part = some y.part →
      y.world = (s.frameOf h f).owner → y.inWindow k.page = false

/-- A control register that holds what is written: its index, the writers, what must not stand against the write, and the state
after it. -/
structure WriteRow where
  index : Nat
  writers : List Nat
  free : Prop
  after : State

/-- The registers that hold what is written, under a written value x (R22, R70, R182, R183, R194, R325, R326, R340, R351, R363, R376). -/
def writeRows (s : State) (g : Group) (x : BitVec 64) : List WriteRow :=
  let w := s.wg g.wg
  let c := ctxOf s g
  let p := partOf s g
  let own (n : Nat) (v : BitVec 64) : State := s.modCtx w.ctx fun y => { y with regs := spSet y.regs n v }
  let range (n k : Nat) (m : BitVec 64) : WriteRow := ⟨0x020 + 4 * n + k, [0, 1, 2], c.rangeEnabled n = false, own (0x020 + 4 * n + k) (x &&& m)⟩
  let engine (n : Nat) (e : Engine) : List WriteRow :=
    let stops := (s.engFor w e).state ≠ 1 ∧ (s.engFor w e).state ≠ 2
    [⟨0x010 + 4 * n, [0, 1, 2], x.toNat % 64 = 0 ∧ stops, s.modEngFor w e fun y =>
        { y with head := x, seq := 0, state := 0, err := 0, last := none, next := none, completed := [], progress := 0, tails := [],
                 due := none }⟩,
     ⟨0x011 + 4 * n, [0, 1, 2], x.toNat % 8 = 0 ∧ stops, s.modEngFor w e fun y => { y with seqa := x }⟩]
  let format (n k : Nat) (m : BitVec 64) : WriteRow :=
    ⟨0x100 + 2 * n + k, [1], p.locked = false ∧ (spGet (dieOf s g).fmt (0x100 + 2 * n)).getLsbD 0 = false,
      s.modDie w.die fun y => { y with fmt := spSet y.fmt (0x100 + 2 * n + k) (x &&& m) }⟩
  let map (n : Nat) : WriteRow :=
    let die := x.toNat % 2 ^ 5
    ⟨0x0A0 + n, [0], p.locked = false ∧ (∀ r ∈ s.recs, r.kind = .launch → r.state = 2 → (s.ctx r.ctx).part ≠ c.part) ∧
        die < 24 ∧ (s.die die).part = some c.part ∧ (∀ m, m < 24 → m ≠ n → p.phys m ≠ some die) ∧
        (x.getLsbD 5 = true → n = 0 ∨ (p.phys (n - 1)).isSome) ∧ (x.getLsbD 5 = false → p.phys (n + 1) = none),
      s.modPart c.part fun q => { q with diemap := spSet q.diemap n (x &&& 0x3F) }⟩
  [⟨0x001, [0, 1, 2], True, s.modCtx w.ctx fun y => { y with lstat := (y.lstat &&& 0xFFFFFFFF) ||| (x &&& 0xFFFFFFFF00000000) }⟩,
   ⟨0x002, [0, 1, 2], True, s.modTeam g.wg g.team fun y => { y with waitlim := x }⟩,
   ⟨0x004, [0, 1, 2], True, eachThread s g fun _ th => { th with tepc := BitVec.ofNat 64 (x.toNat / 4 * 4) }⟩,
   ⟨0x071, [1], x.toNat % 4 ≠ 3, own 0x071 (BitVec.ofNat 64 (x.toNat % 4))⟩,
   ⟨0x0C9, [0], True, s.modDie w.die fun y => { y with evachb := x &&& 0xFFFFFFFFF0000 }⟩,
   ⟨0x0CA, [0], True, s.modDie w.die fun y => { y with evachn := x &&& 0xFFFFFFFF }⟩,
   ⟨0x0D3, [0], True, { s with hallgrp := BitVec.ofNat 5 x.toNat }⟩]
  ++ (List.range 4).map (fun n => ⟨0x0D8 + n, [0], True,
      { s with hallkey := BitVec.ofNat 256 (s.hallkey.toNat / 2 ^ (64 * n + 64) * 2 ^ (64 * n + 64) + x.toNat * 2 ^ (64 * n)
                            + s.hallkey.toNat % 2 ^ (64 * n)), hallseq := 0, cfgseq := 0 }⟩)
  ++ (List.range 16).flatMap (fun n => [range n 0 0x7FFFFFFFFFFF0000, range n 1 0x7FFFFFFFFFFF0000, range n 2 0xFFFFFFFFF0000])
  ++ engine 0 .copy ++ engine 1 .gather ++ engine 2 .collective
  ++ (List.range 8).flatMap (fun n => [format n 0 0xFFFFFFFFF0001, format n 1 0xFFFFFFFFFFFC0])
  ++ (List.range 24).map map

/-- A span of IA pages lies in one enabled window of a context (R326, R327). -/
def inOneWindow (c : Ctx) (lo n : Nat) : Prop :=
  ∃ m, m < 8 ∧ (c.reg (0x060 + 2 * m)).getLsbD 0 = true ∧ field (c.reg (0x060 + 2 * m)) 16 36 ≤ lo ∧
    lo + n ≤ field (c.reg (0x061 + 2 * m)) 16 36 + 1
/-- Range n of a context may be enabled, as far as its own registers say (R326). -/
structure MayEnable (c : Ctx) (n : Nat) (x : BitVec 64) : Prop where
  off : c.rangeEnabled n = false
  sets : x.getLsbD 0 = true
  order : c.rbase n ≤ c.rlim n
  apart : ∀ m, m < 16 → m ≠ n → c.rangeEnabled m = true → c.rlim m < c.rbase n ∨ c.rlim n < c.rbase m
/-- The region that range n declares under attributes x (R265). -/
def regionFor (c : Ctx) (n : Nat) (x : BitVec 64) : Region :=
  { id := x.toNat / 2 ^ 8 % 2 ^ 4, base := c.roff n * 2 ^ 16, size := (c.rlim n + 1 - c.rbase n) * 2 ^ 16, ltype := x.toNat / 2 ^ 4 % 2 ^ 4 }

/-! ## Engines, caches, banks, launches, placement and debugging -/

/-- Every thread of the group has completed its release (R148). -/
def allReleased (s : State) (g : Group) (scope : Nat) : Prop :=
  ∀ l ∈ g.live (teamOf s g), s.released g.wg g.team l 0xFF scope = true
/-- `t` is `s` after an acquire at die scope by a cluster: the words it holds clean and does not own are gone, and memory keeps what no
cluster holds dirty (R148, R261). -/
def acquired (s t : State) (die cl : Nat) : Prop :=
  t = { s with mem := t.mem, cwords := t.cwords } ∧ kept s t ∧
    ∀ w ∈ t.cwords, w.die = die → w.cluster = cl → w.owned = true ∨ w.dirty ≠ 0
/-- The wait that EWAIT begins (R196). -/
def engineWait (s : State) (g : Group) (d : SReg) (e : Engine) (n : Nat) (x : Waiter) : Prop :=
  x.id = g.id ∧ x.wg = g.wg ∧ x.team = g.team ∧ x.cell = false ∧ x.threshold = n ∧ x.dest = d.toNat ∧ x.engine = e ∧
    x.start = (ctxOf s g).cycles.toNat ∧ x.limit = (teamOf s g).waitlim.toNat

/-- The three cache maintenance instructions: sources, level, whether they clean and whether they drop (R197). -/
def cmoForm (i : Instr) : Option (SReg × SReg × CmoLevel × Bool × Bool) :=
  match i with
  | .cmoClean a b l => some (a, b, l, true, false)
  | .cmoInvalidate a b l => some (a, b, l, false, true)
  | .cmoCleanInvalidate a b l => some (a, b, l, true, true)
  | _ => none

/-- A role word that QOPEN and QCLOSE accept: BANK, WIDTH, PROD and CONS only, and a width there is (R200). -/
def roleWord (x : BitVec 64) : Prop := x &&& 0xFFFFFFFFFFFFF0E0 = 0 ∧ field x 8 2 ≠ 3
/-- QOPEN may bind the queue (R200). -/
def mayOpen (w : Wg) (q : BitVec 4) (x : BitVec 64) : Prop :=
  roleWord x ∧ field x 0 5 < 4 * w.units.length ∧ spGet w.bankModes (field x 0 5) = 2 ∧
    if (w.queue q.toNat).opened = true then (w.queue q.toNat).bank = field x 0 5 ∧ (w.queue q.toNat).width = 4 * 2 ^ field x 8 2
    else ∀ z ∈ w.queues, z.opened = true → z.bank ≠ field x 0 5
/-- The mode number of BANKMODE's form. -/
def modeNumber : BankMode → Nat
  | .scratch => 0 | .cache => 1 | .fifo => 2 | .unnamed => 3
/-- The type of record that CANCEL's level names (R293). -/
def levelKind : CancelLevel → RecKind
  | .launch => .launch | .graph => .graph | .phase => .phase | .job => .job

/-- An operator's context by handle in its partition, known as the only one of its running number. -/
def namedContext (s : State) (g : Group) (h : BitVec 64) (c : Ctx) : Prop :=
  s.byHandle (ctxOf s g).part h = some c ∧ s.ctx c.uid = c
/-- No context of the partition has the handle. -/
def noContext (s : State) (g : Group) (h : BitVec 64) : Prop :=
  ∀ c ∈ s.ctxs, c.part = (ctxOf s g).part → c.handle.toNat ≠ h.toNat
/-- No workgroup of a context is left. -/
def noWorkgroup (t : State) (c : Nat) : Prop := ∀ w ∈ t.wgs, w.ctx ≠ c
/-- Every record of a context that there is has ended, is cancelled, or had its last end arrive before the cancel (R293, R294). -/
def recordsCancelled (s t : State) (c : Nat) : Prop :=
  ∀ n, (∃ r ∈ s.recs, r.uid = n) → (s.record n).ctx = c →
    (t.record n).state = 3 ∨ (t.record n).cancelled = true ∨ (t.record n).ending = true
/-- The cancels of a context have completed: none of its workgroups runs, and no record's completion is still to be written (R294). -/
def cancelsDone (t : State) (c : Nat) : Prop :=
  (∀ w ∈ t.wgs, w.ctx = c → w.frozen = true) ∧ ∀ r ∈ t.recs, r.ctx = c → r.state = 2 → r.ending = false
/-- Nothing is outstanding in a context: no access in flight, no operation of Percale and no engine at work (R339). -/
def settledIn (s : State) (c : Nat) : Prop :=
  (∀ x ∈ s.accs, (s.wg x.wg).ctx ≠ c) ∧ (∀ e ∈ (s.ctx c).engines, e.state ≠ 1) ∧
    ∀ w ∈ s.wgs, w.ctx = c → ∀ y ∈ w.teams, ∀ th ∈ y.threads, ∀ b, th.status ≠ .waiting (.service b)
/-- Workgroups run on a core of a die again, with what they held. -/
def runOn (t : State) (ws : List Wg) (die core : Nat) : Prop :=
  ∀ w ∈ ws, ∃ w' ∈ t.wgs, w'.uid = w.uid ∧ w'.die = die ∧ w'.core = core ∧ w'.frozen = false ∧ w'.scratch = w.scratch ∧
    w'.barriers = w.barriers ∧ w'.ldie = w.ldie ∧ w'.lcore = w.lcore
/-- Doubleword n of a record. -/
def wordOf {k : Nat} (x : BitVec k) (n : Nat) : BitVec 64 := BitVec.ofNat 64 (x.toNat / 2 ^ (64 * n))

/-- The DBG instructions: destination, handle, selector (R211). -/
def debugForm (i : Instr) : Option (SReg × SReg × SReg) :=
  match i with
  | .dbgHalt d a b => some (d, a, b)
  | .dbgStep d a b => some (d, a, b)
  | .dbgStepall d a b => some (d, a, b)
  | .dbgCont d a b => some (d, a, b)
  | .dbgRdsel d a b => some (d, a, b)
  | _ => none

/-! ## Further steps of the device and of the world outside -/

/-- The thread of a lane of a team of a workgroup. -/
abbrev threadAt (s : State) (u ti l : Nat) : Thread := ((s.wg u).team ti).thread l
/-- The word of a threshold load's cell is whole (R237). -/
def cellWhole (s : State) (x : Waiter) : Prop := ∃ k, s.keyOf x.home x.ia = some k ∧ s.poisoned k (cellBytes x.ltype) = false
/-- A threshold wait is over: the waiter is gone, and the thread's result is formed with p6 saying whether the threshold is passed, the
registers holding the cell (R136, R137). -/
def waitOver (s t : State) (x : Waiter) : Prop :=
  x ∉ t.waiters ∧ ∀ o ∈ (threadAt t x.wg x.team x.lane).outs, o.id = x.id → o.ready = true ∧ o.p6 = some (s.passes x) ∧
    ∀ c, s.watched x = some c → o.regs = destRegs x.dest x.bytes (thresholdValue x.ltype c)

/-- The steps that need power: all that the device takes or the outside asks for but MODULE_RESET_RELEASE (R2). -/
def poweredStep (i : Instr) : Bool :=
  match i with
  | .resultReturn _ | .verdictArrival _ | .regionCommit _ | .trapDelivery _ _ _ | .rendezvousComplete _ _ _ => true
  | .heldAccessReissue _ | .sideLogReplay _ _ | .twillTranslation _ _ _ | .blockGrant _ _ | .workgroupEnd _ => true
  | .launchCompletion _ | .launchStart _ | .workgroupPlacement _ _ | .phaseStart _ | .doorbellWrite _ _ _ => true
  | .taggedMessage _ _ | .engineRecord _ _ _ _ | .queueWake _ _ | .ldthCellChange _ | .ldthPoll _ | .ldthWaitExpiry _ => true
  | .ewaitWake _ | .ewaitWaitExpiry _ | .tokenPass _ _ | .leaseGrant _ | .leaseQuantumEnd _ | .ageingTopPriority _ _ _ => true
  | .preemptFreeze _ _ | .exchangeBoundary _ _ | .lineJoin _ | .heldLineJoin _ | .softError _ | .targetedTest _ => true
  | .linkReplay _ _ | .linkTrainRetry _ _ _ | .modulePowerOff | .unitWakeScrub _ _ | .drainFrameCopy _ | .capFrame _ => true
  | .getVersion _ _ | .getCapabilities _ _ | .negotiateAlgorithms _ _ | .getDigests _ _ | .getCertificate _ _ _ _ _ => true
  | .challenge _ _ _ _ | .getMeasurements _ _ _ _ | .keyExchange _ _ _ | .finish _ _ _ | .endSession _ _ _ => true
  | .setCertificate _ _ _ _ _ | .spdmUnsupportedRequest _ _ _ | .spdmResponseRelease _ | .getTdispVersion _ _ => true
  | .getTdispCapabilities _ _ | .lockInterfaceRequest _ _ _ | .getDeviceInterfaceReport _ _ _ _ _ => true
  | .getDeviceInterfaceState _ _ _ | .startInterfaceRequest _ _ _ _ | .stopInterfaceRequest _ _ _ => true
  | .tdispUnsupportedRequest _ _ _ | .setHallKey _ _ | .configure _ _ | .dissolve _ _ | .query _ | .setMgmt _ _ _ => true
  | .configUnsupported _ _ | .writeAcknowledged _ | .linkDown _ _ | .dieLostWithoutEvacuation _ => true
  | .hbmOrFabricTestFailure _ | .thermalProtection _ _ | .electricalProtection _ => true
  | _ => false

/-- The port of a die that is up. -/
def portUp (s : State) (die : Nat) (port : BitVec 2) : Prop := die < 24 ∧ s.linkState die port.toNat = 2
/-- The register LINKST of a port. -/
def linkst (s : State) (die : Nat) (port : BitVec 2) : BitVec 64 := listGet 0 (s.die die).links port.toNat
/-- The 24 dies, each with its four ports. -/
def wholeModule (s : State) : Prop := s.dies.length = 24 ∧ ∀ d ∈ s.dies, d.links.length = 4

/-- The first 16 bytes of the HMAC-SHA-256 of a configuration request under the hall key (R384). -/
def requestMac (s : State) (code : Nat) (h : CfgHeader) (ops : List (BitVec 8)) : BitVec 128 :=
  leNum 128 ((hmacSha256 (leBytes 32 s.hallkey.toNat) (leBytes 1 code ++ leBytes 8 h.seq.toNat ++ ops)).take 16)
/-- A request travels in an established session of the management port (R384). -/
def inManagement (s : State) (h : CfgHeader) : Prop :=
  ∃ x ∈ (s.die s.mgmtDie).sessions, x.id = h.session ∧ x.transport = .management ∧ x.established = true
/-- The configuration service accepts a request: it is keyed, newer than the last, and its MAC is right (R384, R385). -/
def accepts (s : State) (code : Nat) (h : CfgHeader) (ops : List (BitVec 8)) : Prop :=
  (code = 1 ∨ s.hallkey ≠ 0) ∧ s.cfgseq.toNat < h.seq.toNat ∧ h.mac = requestMac s code h ops
/-- The service answers a request with a status and a body, and nothing else is answered. -/
def serviceSays (s t : State) (h : CfgHeader) (st : Nat) (body : List Nat) : Prop :=
  ∃ mac, t.answers = s.answers ++ [.config h.seq (BitVec.ofNat 8 st) mac body]

/-- An SPDM request is heard: the die has booted, its link is up where the transport needs it, and the window's response buffer is free
(R365, R368). -/
def heard (s : State) (die : Nat) (tr : Transport) : Prop :=
  (s.die die).boot = 6 ∧ match tr with
    | .window => s.linkState die 0 = 2 ∧ (s.die die).response = []
    | .message => s.linkState die 0 = 2
    | .management => True
/-- A response as a transport carries it: by the window, what its buffer of 0x7F0 bytes holds (R368, log 71). -/
def carriedBody (tr : Transport) (body : List (BitVec 8)) : List (BitVec 8) := if tr = .window then body.take (0x7F0 - 1) else body
/-- A request fits its transport: the window's request buffer takes 0x7F0 bytes (R368). -/
def fits (tr : Transport) (n : Nat) : Prop := tr = .window → n ≤ 0x7F0
/-- What keeps a slot busy, a signed response that names it or its rewrite, is still under way as a request arrives: a free choice (log 71). -/
abbrev stillBusy (s : State) (n : Nat) : Prop := Config.free (s.draws + n) % 2 = 0
/-- The window's buffer holds a response that came by it, and is as before otherwise. -/
def buffered (s t : State) (die : Nat) (tr : Transport) (code : BitVec 8) (body : List (BitVec 8)) : Prop :=
  (t.die die).response = if tr = .window then code :: carriedBody tr body else (s.die die).response
/-- The die answers over SPDM. -/
def spdmSays (s t : State) (die : Nat) (tr : Transport) (code : BitVec 8) (body : List (BitVec 8)) : Prop :=
  t.answers = s.answers ++ [.spdm die tr code (carriedBody tr body)] ∧ buffered s t die tr code body ∧ t.mem = s.mem
/-- A secure session of a transport is established on a die (R369). -/
def inSession (s : State) (die id : Nat) (tr : Transport) : Prop :=
  ∃ x ∈ (s.die die).sessions, x.id = id ∧ x.transport = tr ∧ x.established = true ∧ ∀ y ∈ (s.die die).sessions, y.id = id → y = x
/-- The die answers a TDISP message over the session's transport. -/
def tdispSays (s t : State) (die id : Nat) (tr : Transport) (code : BitVec 8) (body : List (BitVec 8)) : Prop :=
  t.answers = s.answers ++ [.tdisp die id code (carriedBody tr body)] ∧ buffered s t die tr code body

/-- A lane register number, for the words below. -/
def vr (n : Nat) : VReg := BitVec.ofNat 6 n
/-- A uniform register number, for the words below. -/
def sr (n : Nat) : SReg := BitVec.ofNat 6 n
/-- A source field that reads an own lane register. -/
def own (n : Nat) : Src := ⟨.own, BitVec.ofNat 6 n⟩
/-- A source field that reads a uniform register. -/
def uni (n : Nat) : Src := ⟨.uni, BitVec.ofNat 6 n⟩

/-- Words written bit by bit from the spec's encodings and its worked words, and what they stand for: lane arithmetic (R43). -/
def writtenLaneWords : List (Word × Instr) :=
  [(0x00040B11, .isub (vr 1) (own 2) (uni 4)), (0x00290F14, .iadd (vr 10) ⟨.slot1, 3⟩ (uni 5)), (0x0114181E, .iabsd (vr 5) (own 6) (own 7)),
   (0x01141803, .ipopc (vr 5) (own 6)), (0x0220242A, .ixor (vr 8) (own 9) (own 10)), (0x0310130E, .isar (vr 4) (own 4) (uni 3)),
   (0x04302B1A, .imulhiN (vr 12) (own 10) (uni 6)), (0x05080F26, .ibfx (vr 2) (own 3) (uni 9)), (0x06041016, .icmpSLt 1 (own 4) (own 5)),
   (0x07080F1F, .icmpNLe 2 (own 3) (uni 7)), (0x080C0F1E, .psub (vr 3) (own 3) (uni 7) 2), (0x0A04080F, .pmov (vr 1) (own 2) (own 3) 3),
   (0x0B0C0408, .pand 3 1 2), (0x0C1C1FFF, .iaddi (vr 7) (own 7) (-1)), (0x0D0817FF, .iandi (vr 2) (own 5) 0x3FF),
   (0x0E10121F, .isari (vr 4) (own 4) 31), (0x0FE40C64, .icmpi .geN 1 (own 3) 100), (0x1017FFFE, .movi (vr 5) (-2)),
   (0x11140003, .movhi (vr 5) 3), (0x12040007, .srd (vr 1) 7), (0x13200B14, .tidx (vr 8) (own 2) (sr 5)),
   (0x1420130A, .fmul (vr 8) (own 4) (uni 2)), (0x15080C11, .fmax (vr 2) (own 3) (own 4)), (0x16040426, .fcpsgn (vr 1) (own 1) (own 9)),
   (0x17100B05, .fcmpLt 4 (own 2) (uni 1)), (0x18100803, .frsq (vr 4) (own 2)), (0x19181800, .fexp2 (vr 6) (own 6)),
   (0x1A201002, .fsint (vr 8) (own 4)), (0x1B0C0C02, .frndFloor (vr 3) (own 3)), (0x1C080802, .cvtI32F32 (vr 2) (own 2)),
   (0x1D0C1016, .packBf16 (vr 3) (own 4) (own 5)), (0x1E200800, .unpkE4m3 (vr 8) (own 2)), (0x1E082002, .pkE4m3 (vr 2) (vr 8))]
/-- As above: jets, memory, flow, ordering and matrices. -/
def writtenMemoryWords : List (Word × Instr) :=
  [(0x1F20080C, .jseedSeed (vr 8) (own 2) (own 3)), (0x20142001, .jget (vr 5) (own 8) 1), (0x21201801, .jput (vr 8) (own 6) 1),
   (0x221C0009, .jflgRc (vr 7) 1), (0x26201114, .ldG (vr 8) (vr 1) (sr 4) .ro .b128), (0x2718129B, .stG (vr 6) (vr 1) (sr 10) 3 .b64),
   (0x28280083, .ldS (vr 10) (vr 0) (sr 2) .b64), (0x291C90C0, .stS (vr 7) (vr 9) (sr 3) 0 .b8), (0x2A102303, .ldth (vr 4) (vr 2) (sr 12) .b64),
   (0x2B18230B, .ljoin (vr 6) (vr 2) (sr 12) 1 .b64), (0x6C083302, .atomAdd (vr 2) (vr 3) (sr 12) .acq .w32),
   (0x2D081208, .atomCas (vr 2) (vr 1) (sr 8) .rlx .w32), (0x2E100053, .qpop (vr 4) true .q64 3), (0x2F240000, .qpush (vr 9) false .q32 0),
   (0x305FFFFD, .br 2 true (-3)), (0x31000025, .call 37), (0x32001800, .jmpi (.pair (vr 6))), (0x32033801, .calli (.uni (sr 14))),
   (0x32000002, .ret), (0x33030E0F, .loop (uni 3) .lc2 15), (0x36000005, .barArrive 5), (0x36000015, .barWait 5), (0x36000020, .barSync 0),
   (0x37006800, .fence 0 .die .acq false), (0x37FF9400, .fence 0xFF .module .ar true), (0x38010600, .mmaRr (vr 0) (vr 16) (vr 24) .bf16 false),
   (0x39400111, .mmaRs (vr 16) (vr 0) (sr 4) .e4m3 true), (0x7A0082B0, .mmaSs (vr 0) (sr 8) (sr 10) .mxfp4 false), (0x3B000000, .maccZero (vr 0)),
   (0x3B4000D8, .maccScale (vr 16) (sr 3)), (0x3B014010, .maccE4m3 (vr 0) (vr 20))]
/-- As above: the uniform strand. -/
def writtenUniformWords : List (Word × Instr) :=
  [(0x800C4140, .sadd (sr 3) (sr 4) (sr 5)), (0x811851C6, .scmp (sr 6) (sr 5) (sr 7) .ltN), (0x851C7068, .sshri (sr 7) (sr 7) 40),
   (0x8627CDEF, .smovi (sr 9) (-0x3211)), (0x872626AF, .slitA (sr 9) 0x226AF), (0x88274567, .slitB (sr 9) 0x34567), (0x8924048D, .slitC (sr 9) 0x48D),
   (0x8C190002, .ubr (sr 6) .nonzero 2), (0x8F184030, .satomAdd (sr 6) (sr 4) .ar), (0x90007000, .xpat (sr 7)), (0x91000001, .jord .k1),
   (0x92106001, .tfetchB (sr 4) (sr 6)), (0x93005003, .shpset (sr 5) 3), (0x94003002, .xgive (sr 3)), (0x94180003, .xtake (sr 6)),
   (0x95003002, .barset (sr 3) 2), (0x98004144, .cmoClean (sr 4) (sr 5) .l2), (0x99184140, .tinv (sr 6) (sr 4) (sr 5)),
   (0x9A184002, .bankmode (sr 6) (sr 4) .fifo), (0x9B180025, .qtry (sr 6) 5), (0x9B183005, .qopen (sr 6) (sr 3) 5), (0x9C18402A, .arm (sr 6) (sr 4) 42),
   (0x9E184001, .cancel (sr 6) (sr 4) .graph), (0x9F209002, .frpt (sr 8) (sr 9) 2), (0xA0209001, .fopr (sr 8) (sr 9) 1), (0xA1184001, .unplace (sr 6) (sr 4)),
   (0xA2184143, .preempt (sr 6) (sr 4) (sr 5) 3), (0xA3184140, .migrate (sr 6) (sr 4) (sr 5)), (0xA5184000, .creset (sr 6) (sr 4)),
   (0xA6184140, .mapsync (sr 6) (sr 4) (sr 5)), (0xA7200000, .cntrd (sr 8) 0), (0xA9000000, .tret), (0xAA004002, .strap (sr 4) 2),
   (0xAB184141, .dbgStep (sr 6) (sr 4) (sr 5)), (0xAC103022, .gadd (sr 4) (sr 3) 2), (0xAD184001, .ldk (sr 6) (sr 4) 1)]
/-- Words of no instruction: an operation number that no table lists. -/
def unwrittenWords : List Word := [0x7F000000, 0xFF000000]
end Sys2Proof.Claims

open Sys2Proof Sys2Proof.Machine Sys2Proof.Claims

/-! ## Obligations: lane instructions -/

/-- The integer register operations, the guarded forms, the immediates and the moves write their result to vD of every thread of the
group and change nothing else but the program counter, at every operand (R92, R93, R96, R98). -/
def Obligations.IntegerAndGuardedFormsWriteTheirResult : Prop :=
  ∀ (i : Instr) (f : RegForm) (s : State) (g : Group), integerForm i = some f ∨ guardedForm i = some f → Ready s g f.reads f.writes →
    (∀ a ∈ f.srcs, ownSource a) →
    exec i s = .next (eachThread s g fun l th => (th.setVs (f.regs (envOf s g l th))).goOn)

/-- Compares and predicate logic write one predicate; a write to p7 is discarded and the thread goes on as otherwise
(R94, R95, R97, R105, R7). -/
def Obligations.ComparesAndLogicWriteOnePredicate : Prop :=
  ∀ (i : Instr) (f : PredForm) (s : State) (g : Group), predForm i = some f → Ready s g f.reads [] →
    (∀ a ∈ f.srcs, ownSource a) →
    ∃ t, exec i s = .next t ∧ t = eachThread s g (fun l th => (th.setPred f.dest.toNat (f.holds (envOf s g l th))).goOn) ∧
      ∀ (th : Thread) (b : Bool), (th.setPred f.dest.toNat b).pred 7 = true ∧
        (f.dest ≠ 7 → (th.setPred f.dest.toNat b).pred f.dest.toNat = b) ∧
        ∀ q, q < 7 → q ≠ f.dest.toNat → (th.setPred f.dest.toNat b).pred q = th.pred q

/-- The jet-build instructions but JFLG, the selections and the sign changes move bits and raise no flag, at every jet order; JFLG reads
a group of JST, reads and clears it, or clears it, whatever the jet order (R79, R87, R103, R104). -/
def Obligations.SelectionSignAndJetBuildMoveBits : Prop :=
  (∀ (i : Instr) (f : RegForm) (s : State) (g : Group), bitsForm (teamOf s g).jord.order i = some f → Ready s g f.reads f.writes →
    (∀ a ∈ f.srcs, ownSource a) →
    exec i s = .next (eachThread s g fun l th => (th.setVs (f.regs (envOf s g l th))).goOn)) ∧
  ∀ (s : State) (g : Group) (d : VReg) (c : BitVec 3), Ready s g [] [d.toNat] →
    exec (.jflgRd d c) s = .next (eachThread s g fun _ th =>
      (th.setV d.toNat (BitVec.ofNat 32 (flagGroup th.jst c.toNat))).goOn) ∧
    exec (.jflgRc d c) s = .next (eachThread s g fun _ th =>
      ({ th.setV d.toNat (BitVec.ofNat 32 (flagGroup th.jst c.toNat)) with jst := withoutGroup th.jst c.toNat } : Thread).goOn) ∧
    exec (.jflgClr d c) s = .next (eachThread s g fun _ th =>
      ({ th.setV d.toNat 0 with jst := withoutGroup th.jst c.toNat } : Thread).goOn)

/-- Every coefficient of a series instruction is its step over the coefficients below it, rounded once; its flags rise in the
group of the coefficient; long-latency results are pending. FSIN, FCOS, FSINT and FCOST deliver one of the two chains of R83, and only
its flags, as a pending result (R28, R81, R83, R85, R86). -/
def Obligations.SeriesAndSinesDeliverTheirSteps : Prop :=
  (∀ (i : Instr) (f : SeriesForm) (s : State) (g : Group), seriesForm (teamOf s g).jord.order i = some f →
      Ready s g f.reads f.writes → (∀ a ∈ f.srcs, ownSource a) →
      ∃ y : LaneEnv → List Fres, (∀ e, f.Delivers (teamOf s g).jord.order e (y e)) ∧
        exec i s = .next (eachThread s g fun l th =>
          (lands g f.pending (group f.dest (patterns (y (envOf s g l th)))) (jetFlags (y (envOf s g l th))) th).goOn)) ∧
  (∀ (i : Instr) (d : VReg) (a : Src) (num den : Nat) (sine cosine : BitVec 32 → Fres) (first : Bool) (s : State) (g : Group),
      sineForm i = some (d, a, (num, den), sine, cosine, first) →
      Ready s g (srcRegs a ((teamOf s g).jord.order + 1)) (vregs d ((teamOf s g).jord.order + 1)) → ownSource a →
      ∃ x y : LaneEnv → List Fres,
        (∀ e, SinCos num den (e.srcJet (teamOf s g).jord.order a) (teamOf s g).jord.order
          (sine (listGet 0 (e.srcJet (teamOf s g).jord.order a) 0)) (cosine (listGet 0 (e.srcJet (teamOf s g).jord.order a) 0)) (x e) (y e)) ∧
        exec i s = .next (eachThread s g fun l th =>
          let r := if first then x (envOf s g l th) else y (envOf s g l th)
          (lands g true (group d (patterns r)) (jetFlags r) th).goOn))

/-- Rounding to integral and the conversions write their registers and raise their flags at once (R110 to R113, R64, R65). -/
def Obligations.RoundingAndConversionsDeliver : Prop :=
  ∀ (i : Instr) (f : FlagForm) (s : State) (g : Group), convertForm (teamOf s g).jord.order i = some f →
    Ready s g f.reads f.writes → (∀ a ∈ f.srcs, ownSource a) →
    exec i s = .next (eachThread s g fun l th =>
      (lands g false (f.regs (envOf s g l th)) (f.flags (envOf s g l th)) th).goOn)

/-- MACC clears, packs or scales the 16 registers of D, its flags merged in group 0, whatever the jet order (R172). -/
def Obligations.MaccActsOnSixteenRegisters : Prop :=
  ∀ (i : Instr) (f : FlagForm) (s : State) (g : Group), maccForm i = some f → Ready s g f.reads f.writes →
    exec i s = .next (eachThread s g fun l th =>
      (lands g false (f.regs (envOf s g l th)) (f.flags (envOf s g l th)) th).goOn)

/-- SRD writes vD with the special lane register of its index; reading CLKLO latches the high half of the cycle counter for the
thread. TIDX splits a linear index into five coordinates under the shape entry that sB names (R99, R100, R101). -/
def Obligations.SpecialRegistersAndShapesAreRead : Prop :=
  (∀ (s : State) (g : Group) (d : VReg) (n : BitVec 10), n.toNat ≤ 0x012 → Ready s g [] [d.toNat] →
      exec (.srd d n) s = .next (eachThread s g fun l th =>
        ({ th.setV d.toNat (listGet 0 (specialTable (envOf s g l th)) n.toNat) with
           clkhi := if n = 0x011 then BitVec.ofNat 32 ((envOf s g l th).cycles.toNat / 2 ^ 32) else th.clkhi } : Thread).goOn)) ∧
  (∀ (s : State) (g : Group) (d : VReg) (a : Src) (b : SReg), Ready s g (srcRegs a 2) (vregs d 5) → ownSource a →
      exec (.tidx d a b) s = .next (eachThread s g fun l th =>
        (th.setVs (group d ((List.range 5).map (coordinate
          (spGet (s.wg g.wg).shapes (((teamOf s g).sreg b.toNat).toNat % 2 ^ 5)) ((envOf s g l th).src64 a))))).goOn))

/-- LOOP writes its counter and opens the body, or skips it on a zero count; at a body's end the counter steps and the thread
goes back while it is not zero (R152). -/
def Obligations.LoopCountsItsBody : Prop :=
  (∀ (s : State) (g : Group) (a : Src) (c : LoopCounter) (n : BitVec 8), Ready s g (srcRegs a 1) [] → ownSource a →
    exec (.loop a c n) s = .next (eachThread s g fun l th =>
      { th with lc := spSet th.lc (match c with | .lc0 => 0 | .lc1 => 1 | .lc2 => 2) ((envOf s g l th).src a), status := .running,
                pc := if (envOf s g l th).src a = 0 then th.pc + 4 + BitVec.ofNat 64 (4 * (n.toNat + 1)) else th.pc + 4 })) ∧
  ∀ (th : Thread) (first : BitVec 64) (c : Nat) (rest : Loops), c < 3 →
    (th.bodies = [] → th.goOn = { th with pc := th.pc + 4, status := .running }) ∧
    (th.bodies = (first, c) :: rest → spGet th.lc c ≠ 1 →
      th.goOn = { th with lc := spSet th.lc c (spGet th.lc c - 1), pc := first, status := .running }) ∧
    (th.bodies = (first, c) :: rest → spGet th.lc c = 1 →
      th.goOn = { ({ th with lc := spSet th.lc c 0, bodies := rest } : Thread).goOn with bodies := th.bodies })

/-- MMA delivers to every issuing lane its row of sums, block by block, as a pending result, and to no other lane; the power
token is taken at the cluster (R88, R158, R161, R164, R165). -/
def Obligations.MmaDeliversItsRows : Prop :=
  ∀ (i : Instr) (d : VReg) (a b : MmaSrc) (t : MmaType) (z : Bool) (s : State) (g : Group), mmaForm i = some (d, a, b, t, z) →
    MmaReady s g d a b t →
    ∃ s', exec i s = .next s' ∧ s'.mem = s.mem ∧
      (s'.record (s.wg g.wg).launch).lease.at (clusterOf (s.wg g.wg).core) = true ∧
      ∀ l, l < (teamOf s g).threads.length → (teamOf s' g).thread l =
        if inMask g.lanes l then
          (((teamOf s g).thread l).addOut
            { id := g.id, ready := true, regs := (mmaRowOf t (s.wg g.wg) (teamOf s g) a b z d l).regs, p6 := none,
              flags := (mmaRowOf t (s.wg g.wg) (teamOf s g) a b z d l).flags }).goOn
        else (teamOf s g).thread l

/-- A lane instruction that names v32 to v63 traps with UNHELD in every thread of its group when the team holds no extended
block, before anything else of it happens (R10). -/
def Obligations.UnheldRegistersTrap : Prop :=
  ∀ (i : Instr) (o : LaneOp) (s : State) (g : Group), s.Issues g → (teamOf s g).ext = false →
    laneOpOf (teamOf s g).jord.order i = some o → (∃ r ∈ o.reads ++ o.writes, 32 ≤ r) →
    exec i s = .next (s.raiseEach g.wg g.team (g.live (teamOf s g)) (plainTrap 0x05))

/-- At a cross-lane instruction the members of the mask wait, and any other lane executes at once on its own registers. At the
issue of a collective every member waits, all live lanes being members when the mask index is zero; a lane that is no member computes
alone, its result pending. The members are those of the rendezvous begun at the instruction already, which the model deduces (DEDUCED,
log 35), else those of the mask register as it stands; each member takes along the order, the word and the pattern of its own issue
(R36, R78, R115, R119, R186). -/
def Obligations.MembersWaitForTheirRendezvous : Prop :=
  (∀ (i : Instr) (o : LaneOp) (s : State) (g : Group), laneOpOf (teamOf s g).jord.order i = some o → Ready s g o.reads o.writes →
      (∃ a ∈ o.srcs, a.sel = .slot1 ∨ a.sel = .slot2) →
      let mask := (teamOf s g).sreg ((teamOf s g).xpat.toNat / 2 ^ 16 % 2 ^ 6)
      let m := reached s g (teamOf s g).crossMask
      ((teamOf s g).meetingAt g.pc = none → ∀ l, l < 64 → l < (teamOf s g).threads.length → (inMask m l = true ↔ mask.getLsbD l = true)) ∧
      ∃ t, exec i s = .next t ∧ ∀ l, l < (teamOf s g).threads.length → (teamOf t g).thread l =
        if inMask g.lanes l then
          if inMask m l then standing (meetingFor s g m m) ((teamOf s g).thread l)
          else ((teamOf s g).thread l).finish g.id o.pending (o.run (envOf s g l ((teamOf s g).thread l)))
        else (teamOf s g).thread l) ∧
  (∀ (i : Instr) (d : VReg) (src : Option Src) (p : PReg) (s : State) (g : Group), collectiveOperands i = some (d, src, p) →
      Ready s g ((src.map fun a => srcRegs a 1).getD []) ((collectiveOf i).map Collective.writes |>.getD []) →
      let index := (teamOf s g).xpat.toNat / 2 ^ 16 % 2 ^ 6
      let m := reached s g (teamOf s g).collectiveMask
      let cross := if index = 0 then (teamOf s g).crossMask else m
      ((teamOf s g).meetingAt g.pc = none → ∀ l, l < 64 → l < (teamOf s g).threads.length →
        (inMask m l = true ↔ index = 0 ∨ ((teamOf s g).sreg index).getLsbD l = true)) ∧
      ∃ t, exec i s = .next t ∧ ∀ l, l < (teamOf s g).threads.length → l < 64 → ∃ v,
        collectiveValue i l [shareOf s g src p l ((teamOf s g).thread l)] = some v ∧
        (teamOf t g).thread l =
          if inMask g.lanes l then
            if inMask m l then standing (meetingFor s g m cross) ((teamOf s g).thread l)
            else (((teamOf s g).thread l).addOut (collectiveOut g.id d v)).goOn
          else (teamOf s g).thread l)

/-- When the members have all arrived, each reads its patterned sources from the lane that the pattern of its own issue names, its own
registers where that lane is no member, and executes under the order of its own issue; no other thread changes, but that one which waits on
another agent looks again. A member that would read a member that has exited takes MEMBEREXIT; then no member executes, the others stay at the
instruction with their arrival withdrawn. That the registers read are those at the completion is the model's reading (DEDUCED, log 35)
(R35, R36, R78, R186). -/
def Obligations.RendezvousReadsTheNamedLanes : Prop :=
  (∀ (s : State) (u ti : Nat) (pc : BitVec 64) (i : Instr) (op : Nat → LaneOp) (m : BitVec 64) (ks : Nat → Meeting),
      let tm := (s.wg u).team ti
      let from_ (slot l : Nat) : Thread := if inMask m (patternLane slot l) then tm.thread (patternLane slot l) else tm.thread l
      Gathered s u ti pc i m ks →
      (∀ l, l < 64 → inMask m l = true → laneOpOf (ks l).order.order i = some (op l) ∧
        (∃ a ∈ (op l).srcs, a.sel = .slot1 ∨ a.sel = .slot2) ∧ (ks l).cross = m) →
      (∀ l, l < 64 → inMask m l = true → (tm.thread l).exited = false ∧ (tm.thread l).poison = []) →
      ∃ t, exec (.rendezvousComplete u ti pc) s = .next t ∧ ∀ l, l < tm.threads.length → (t.wg u |>.team ti).thread l =
        if inMask m l ∧ l < 64 then
          (tm.thread l).finish s.nextId (op l).pending
            ((op l).run { ownEnv (s.wg u) ti tm (s.ctx (s.wg u).ctx).cycles l (tm.thread l) with
                            one := from_ ((ks l).xpat.toNat % 2 ^ 8) l, two := from_ ((ks l).xpat.toNat / 2 ^ 8 % 2 ^ 8) l })
        else looked (tm.thread l)) ∧
  (∀ (s : State) (u ti : Nat) (pc : BitVec 64) (i : Instr) (op : Nat → LaneOp) (m : BitVec 64) (ks : Nat → Meeting),
      let tm := (s.wg u).team ti
      let bad := (tm.present m).filter fun l => readsExited tm (op l) (ks l) l
      Gathered s u ti pc i m ks →
      (∀ l, l < 64 → inMask m l = true → laneOpOf (ks l).order.order i = some (op l) ∧
        (∃ a ∈ (op l).srcs, a.sel = .slot1 ∨ a.sel = .slot2) ∧ (ks l).cross = m) →
      bad ≠ [] →
      exec (.rendezvousComplete u ti pc) s = .next
        ((s.modLanes u ti m fun _ th => if th.exited then th else { th with status := .running }).raiseEach u ti bad
          (plainTrap 0x0B)).wakePercale)

/-- When every member that has not exited stands at a collective, each participant receives the combination of the participants
in ascending lane order as a pending result (R115 to R118). -/
def Obligations.CollectivesCombineTheirParticipants : Prop :=
  ∀ (s : State) (u ti : Nat) (pc : BitVec 64) (i : Instr) (d : VReg) (src : Option Src) (p : PReg) (m : BitVec 64) (ks : Nat → Meeting),
    let tm := (s.wg u).team ti
    let ps := (List.range 64).filter fun l => inMask m l && !(tm.thread l).exited
    collectiveOperands i = some (d, src, p) → (∀ a ∈ src, ownSource a) → Gathered s u ti pc i m ks →
    (∀ l ∈ ps, (tm.thread l).poison = []) →
    ∃ t, exec (.rendezvousComplete u ti pc) s = .next t ∧ ∀ l, l < tm.threads.length → ∃ v,
      collectiveValue i l (ps.map fun n => shareOf s (standingGroup s u ti pc) src p n (tm.thread n)) = some v ∧
      ((t.wg u).team ti).thread l =
        if l ∈ ps then ((tm.thread l).addOut (collectiveOut s.nextId d v)).goOn else looked (tm.thread l)

/-- The frame of the lane instructions that write registers, predicates, flags or loop counters: when one completes, memory, every
other part of the machine, every other workgroup and team, the uniform registers, every thread outside the group, and in a thread
of the group every register it does not name, the link and trap registers and the barrier arrivals are as before; predicates change
only by compares and predicate logic, JST only by the instructions that raise or clear flags, the CLKHI latch only by SRD. -/
def Obligations.LaneInstructionsChangeNothingElse : Prop :=
  ∀ (i : Instr) (o : LaneOp) (s t : State) (g : Group), laneOpOf (teamOf s g).jord.order i = some o → Ready s g o.reads o.writes →
    (∀ a ∈ o.srcs, ownSource a) → exec i s = .next t →
    t = { s with wgs := t.wgs } ∧ (∀ k, spGet t.mem k = spGet s.mem k) ∧ (∀ u, u ≠ g.wg → t.wg u = s.wg u) ∧
    t.wg g.wg = { s.wg g.wg with teams := (t.wg g.wg).teams } ∧
    (∀ n, n ≠ g.team → (t.wg g.wg).team n = (s.wg g.wg).team n) ∧
    teamOf t g = { teamOf s g with threads := (teamOf t g).threads } ∧
    ∀ l, l < (teamOf s g).threads.length →
      let th := (teamOf s g).thread l
      let th' := (teamOf t g).thread l
      (inMask g.lanes l = false → th' = th) ∧
      (∀ r, r ∉ o.writes → th'.v32 r = th.v32 r) ∧ (∀ r ∈ th'.poison, r ∈ th.poison) ∧
      th'.lr = th.lr ∧ th'.tcause = th.tcause ∧ th'.tepc = th.tepc ∧ th'.arrived = th.arrived ∧ th'.bodies = th.bodies ∧
      (∀ q, (∀ f, predForm i = some f → f.dest.toNat ≠ q) → q < 8 → th'.preds.getLsbD q = th.preds.getLsbD q) ∧
      (raisesFlags i = false → th'.jst = th.jst) ∧ ((∀ d n, i ≠ .srd d n) → th'.clkhi = th.clkhi) ∧
      (o.pending = false → th'.outs = th.outs)

/-! ## Obligations: memory -/

/-- A lane instruction on global memory whose lanes are all admitted joins them in one access; every thread of the group waits for
its verdict, and no register or other part of the machine changes; nor does a byte of memory, but that a releasing atomic first performs
what stands dirty in its cluster (R123, R124, R125, R131, R132, R136, R138, R139). -/
def Obligations.GlobalAccessesWaitForTheirVerdict : Prop :=
  ∀ (i : Instr) (f : MemForm) (s : State) (g : Group) (hit : Nat → Hit), globalForm i = some f → Ready s g f.reads f.writes →
    g.live (teamOf s g) ≠ [] →
    (∀ op, f.kind = .atomic op → ((teamOf s g).sreg f.base.toNat).getLsbD 63 = false) →
    (∀ l ∈ g.live (teamOf s g), Admitted (s.ctx (s.wg g.wg).ctx) f.kind false (f.address (teamOf s g) ((teamOf s g).thread l)) f.bytes (hit l)) →
    (releases f.order → ∀ l ∈ g.live (teamOf s g), s.released g.wg g.team l 0xFF (scopeOfAtomic (hit l).kind) = true) →
    ∃ u, afterRelease s u (releases f.order) (dieAt s g) (clusterAt s g) ∧
      exec i s = .next { eachThread u g (fun _ th => { th with status := .region g.id }) with
        accs := s.accs ++ [accessFor s g f.kind f.bytes f.dest.toNat false f.hint f.order f.colour
          ((g.live (teamOf s g)).map fun l =>
            let th := (teamOf s g).thread l
            lanePart s g l (f.address (teamOf s g) th) (f.data th) (f.second th) (hit l))] }

/-- What is found at the issue of a global access is found in the order of R129, and the thread takes that fault; no other thread,
no memory and no access is touched by it. -/
def Obligations.AccessFaultsInTheirOrder : Prop :=
  ∀ (i : Instr) (f : MemForm) (s : State) (g : Group) (l code : Nat), globalForm i = some f → Ready s g f.reads f.writes →
    g.live (teamOf s g) = [l] →
    (∀ op, f.kind = .atomic op → ((teamOf s g).sreg f.base.toNat).getLsbD 63 = false) →
    issueFault (s.ctx (s.wg g.wg).ctx) f.kind false (f.address (teamOf s g) ((teamOf s g).thread l)) f.bytes = some code →
    ∃ k, exec i s = .next (s.raise g.wg g.team l k) ∧ k.code = code ∧ k.ucode = 0 ∧ k.recLane = l ∧
      k.va = f.address (teamOf s g) ((teamOf s g).thread l) ∧ k.lead = true ∧ k.recorded = false

/-- A uniform access that is admitted is one access of the whole group, its threads waiting for the verdict; one that is not raises
its fault in every thread of the group (R174, R184, R185, R188). -/
def Obligations.UniformAccessesActForTheGroup : Prop :=
  ∀ (i : Instr) (f : UniformForm) (s : State) (g : Group), uniformForm i = some f → s.Issues g →
    (∀ h, Admitted (s.ctx (s.wg g.wg).ctx) f.kind true (f.address (teamOf s g)) f.bytes h →
      (releases f.order → ∀ l ∈ g.live (teamOf s g), s.released g.wg g.team l 0xFF (scopeOfAtomic h.kind) = true) →
      ∃ u, afterRelease s u (releases f.order) (dieAt s g) (clusterAt s g) ∧
        exec i s = .next { eachThread u g (fun _ th => { th with status := .region g.id }) with
          accs := s.accs ++ [accessFor s g f.kind f.bytes f.dest true .normal f.order f.colour
            [lanePart s g (lowestLane g.lanes) (f.address (teamOf s g)) (f.data (teamOf s g)) (f.second (teamOf s g)) h]] }) ∧
    ∀ code, issueFault (s.ctx (s.wg g.wg).ctx) f.kind true (f.address (teamOf s g)) f.bytes = some code →
      ∃ k, exec i s = .next (s.raiseGroup g.wg g.team g.lanes k) ∧ k.code = code ∧ k.va = f.address (teamOf s g)

/-- A scratch access acts at once, lane by lane in ascending order: loads and atomics deliver the old bytes as pending results, stores
and atomics change exactly the bytes they cover, and global memory keeps every byte, but that an atomic on another workgroup's scratch
that releases or acquires writes back what clusters hold dirty (R130, R134, R139). -/
def Obligations.ScratchAccessesActInLaneOrder : Prop :=
  ∀ (i : Instr) (f : MemForm) (s : State) (g : Group) (u : Nat) (off : Nat → Nat), scratchForm i = some f →
    Ready s g f.reads f.writes → (∀ op, f.kind = .atomic op → ((teamOf s g).sreg f.base.toNat).getLsbD 63 = true) →
    (∀ l ∈ g.live (teamOf s g),
      s.scratchTarget (s.wg g.wg) ((teamOf s g).sreg f.base.toNat) (((teamOf s g).thread l).v32 f.index.toNat).toNat f.bytes = .at u (off l)) →
    (s.wg u).uid = u → u ≠ 0 → (s.wg u).poison = [] →
    (releases f.order → ∀ l ∈ g.live (teamOf s g), s.released g.wg g.team l 0xFF (if u = (s.wg g.wg).uid then 1 else 3) = true) →
    let run := scratchRun f.kind f.bytes ((g.live (teamOf s g)).map fun l =>
      (l, off l, f.data ((teamOf s g).thread l), f.second ((teamOf s g).thread l))) (s.wg u).scratch
    ∃ t, exec i s = .next t ∧ (t.wg u).scratch = run.1 ∧ kept s t ∧
      (f.order = .rlx ∨ u = (s.wg g.wg).uid → ∀ k, spGet t.mem k = spGet s.mem k) ∧
      ∀ l, l < (teamOf s g).threads.length → (teamOf t g).thread l =
        if inMask g.lanes l ∧ l < 64 then
          (if f.kind = .store then (teamOf s g).thread l
           else ((teamOf s g).thread l).addOut
             ⟨g.id, true, dataOut f.dest.toNat f.bytes ((run.2.lookup l).getD 0), none, 0⟩).goOn
        else (teamOf s g).thread l

/-- QPOP takes the oldest slots of its queue in lane order as pending results; on an empty queue the try form answers p6 zero, the
other form parks, or traps when no producer is left. QPUSH appends in lane order; on a full queue the try form clears p6 and the other
form parks. Both fault on a closed queue and on a width the queue does not have (R144 to R146). -/
def Obligations.QueuesPassSlotsInOrder : Prop :=
  ∀ (s : State) (g : Group) (d : VReg) (try_ : Bool) (z : QSize) (q : BitVec 4),
    let n := match z with | .q32 => 1 | .q64 => 2 | .q128 => 4
    let queue := (s.wg g.wg).queue q.toNat
    let live := g.live (teamOf s g)
    q.toNat < (s.wg g.wg).queues.length →
    (Ready s g [] (vregs d n) →
      (queue.opened = true → queue.width = 4 * n → queue.poison = [] → live.length ≤ queue.slots.length →
        ∃ t, exec (.qpop d try_ z q) s = .next t ∧ ((t.wg g.wg).queue q.toNat).slots = queue.slots.drop live.length ∧
          ∀ j l, live[j]? = some l → (teamOf t g).thread l =
            (((teamOf s g).thread l).addOut ⟨g.id, true, dataOut d.toNat (4 * n) (listGet 0 queue.slots j),
              if try_ then some true else none, 0⟩).goOn) ∧
      (queue.opened = true → queue.width = 4 * n → queue.slots = [] → ∀ l, live = [l] →
        exec (.qpop d try_ z q) s = .next (
          if try_ then s.modThread g.wg g.team l fun th =>
            (th.addOut { id := g.id, ready := true, regs := dataOut d.toNat (4 * n) 0, p6 := some false, flags := 0 }).goOn
          else if queue.producers = [] ∧ queue.engineProducers = 0 then s.raise g.wg g.team l (plainTrap 0x0A l)
          else s.modThread g.wg g.team l fun th => { th with status := .waiting (.queue q.toNat false) })) ∧
      (∀ l, live = [l] → queue.opened = false ∨ queue.width ≠ 4 * n →
        exec (.qpop d try_ z q) s = .next (s.raise g.wg g.team l (plainTrap (if queue.opened then 0x06 else 0x07) l)))) ∧
    (Ready s g (vregs d n) [] →
      (queue.opened = true → queue.width = 4 * n → queue.slots.length + live.length ≤ queue.capacity →
        ∃ t, exec (.qpush d try_ z q) s = .next t ∧
          ((t.wg g.wg).queue q.toNat).slots = queue.slots ++ live.map (fun l => dataIn ((teamOf s g).thread l) d.toNat (4 * n)) ∧
          ∀ l ∈ live, (teamOf t g).thread l =
            (if try_ then ((teamOf s g).thread l).setPred 6 true else (teamOf s g).thread l).goOn) ∧
      (queue.opened = true → queue.width = 4 * n → queue.capacity ≤ queue.slots.length → ∀ l, live = [l] →
        exec (.qpush d try_ z q) s = .next (s.modThread g.wg g.team l fun th =>
          if try_ then (th.setPred 6 false).goOn else { th with status := .waiting (.queue q.toNat true) })) ∧
      (∀ l, live = [l] → queue.opened = false ∨ queue.width ≠ 4 * n →
        exec (.qpush d try_ z q) s = .next (s.raise g.wg g.team l (plainTrap (if queue.opened then 0x06 else 0x07) l))))

/-- At commit a load delivers the bytes of memory, or of the decoded sector of a format view, and changes none; a plain store is what its
cluster reads from then on, and no other byte differs; a store to a peer or to the host changes nothing yet and is sent, its bytes being
those of WRITE_ACKNOWLEDGED (R354; DEDUCED, log 37); an atomic delivers the old value and leaves the new one in its bytes alone; SHPSET
fills its shape entry; each time the access is done with and the threads it stands for go on, the whole group's for a uniform one, whose
result returns to its uniform register (R72, R130 to R132, R139 to R142, R174, R184, R185, R188, R313). -/
def Obligations.CommitPerformsTheAccess : Prop :=
  ∀ (s : State) (a : Access) (x : LaneAcc) (key : Nat), Committing s a x key →
    let die := (s.wg a.wg).die
    let cl := clusterOf (s.wg a.wg).core
    (∀ v, a.kind = .load → finds s a x key v →
      ∃ t, exec (.regionCommit a.id) s = .next t ∧ t.accs = [] ∧ (∀ k, spGet t.mem k = spGet s.mem k) ∧ brings s t a x v) ∧
    (a.kind = .store → x.kind = .plain →
      ∃ t, exec (.regionCommit a.id) s = .next t ∧ t.accs = [] ∧ goesOn s t a x ∧
        t.cachedRead die cl key a.bytes = x.data % 2 ^ (8 * a.bytes) ∧
        ∀ k, outside key a.bytes k → t.cachedByte die cl k = spGet s.mem k) ∧
    (a.kind = .store → x.kind = .peer ∨ x.kind = .host →
      ∃ t, exec (.regionCommit a.id) s = .next t ∧ t.accs = [] ∧ goesOn s t a x ∧ t.mem = s.mem ∧ t.cwords = s.cwords ∧
        t.unacked = s.unacked ++ [⟨a.wg, a.team, if a.uniform = true then a.group else 1#64 <<< x.lane, a.colour,
          if x.kind = .peer then 1 else 2, die, cl, key, a.bytes, x.data⟩]) ∧
    (∀ op, a.kind = .atomic op → x.kind ≠ .lattice →
      ∃ t, exec (.regionCommit a.id) s = .next t ∧ t.accs = [] ∧ brings s t a x (readLE s.mem key a.bytes) ∧
        readLE t.mem key a.bytes = atomicValue op (8 * a.bytes) (readLE s.mem key a.bytes) x.data x.data2 % 2 ^ (8 * a.bytes) ∧
        ∀ k, outside key a.bytes k → spGet t.mem k = spGet s.mem k) ∧
    (∀ e v, a.kind = .shape e → a.bytes = 32 → finds s a x key v →
      ∃ t, exec (.regionCommit a.id) s = .next t ∧ t.accs = [] ∧ goesOn s t a x ∧ (∀ k, spGet t.mem k = spGet s.mem k) ∧
        spGet (t.wg a.wg).shapes e = BitVec.ofNat 256 (v % 2 ^ 3 + (v / 2 ^ 64 % 2 ^ 160) * 2 ^ 64))

/-- A join leaves the join of the cell and the value, unit by unit, and a plain store to a lattice range leaves the value where it is at
or above the cell; a NaN, a value below the cell and a negative add are dropped with a NONMONO owner record; no other byte of memory
changes, and the threads of the access go on. That a store of several units is judged unit by unit is the model's reading (DEDUCED,
log 30) (R133, R138, R141, R267). -/
def Obligations.LatticeCellsOnlyRise : Prop :=
  ∀ (s : State) (a : Access) (x : LaneAcc) (key : Nat), Committing s a x key → x.kind = .lattice →
    x.ltype ≤ 8 → a.bytes % unitBytes x.ltype = 0 → (∃ c ∈ s.ctxs, c.uid = (s.wg a.wg).ctx) →
    let u := unitBytes x.ltype
    let unit (m : Nat) (j : Nat) : Nat := m / 2 ^ (8 * u * j) % 2 ^ (8 * u)
    let old := readLE s.mem key a.bytes
    let rises (j : Nat) : Prop := isElement x.ltype (unit x.data j) = true ∧ joinUnit x.ltype (unit x.data j) (unit old j) = unit x.data j
    (a.kind = .join ∨ a.kind = .store →
      ∃ t, exec (.regionCommit a.id) s = .next t ∧ t.accs = [] ∧ goesOn s t a x ∧
        (∀ k, outside key a.bytes k → spGet t.mem k = spGet s.mem k) ∧
        ((∀ j, j < a.bytes / u → isElement x.ltype (unit x.data j) = true) → a.kind = .join →
          (∀ j, j < a.bytes / u → unit (readLE t.mem key a.bytes) j = joinUnit x.ltype (unit old j) (unit x.data j)) ∧
            (t.ctx (s.wg a.wg).ctx).recNext = (s.ctx (s.wg a.wg).ctx).recNext) ∧
        ((∃ j, j < a.bytes / u ∧ isElement x.ltype (unit x.data j) = false) → a.kind = .join →
          readLE t.mem key a.bytes = old ∧ nonMonoRecorded s t a) ∧
        (a.kind = .store → (∀ j, j < a.bytes / u → (rises j → unit (readLE t.mem key a.bytes) j = unit x.data j) ∧
            (¬ rises j → unit (readLE t.mem key a.bytes) j = unit old j)) ∧
          ((∃ j, j < a.bytes / u ∧ ¬ rises j) → nonMonoRecorded s t a) ∧
          ((∀ j, j < a.bytes / u → rises j) → (t.ctx (s.wg a.wg).ctx).recNext = (s.ctx (s.wg a.wg).ctx).recNext))) ∧
    (a.kind = .atomic .maxN → x.data < 2 ^ (8 * a.bytes) →
      ∃ t, exec (.regionCommit a.id) s = .next t ∧ t.accs = [] ∧ brings s t a x old ∧
        readLE t.mem key a.bytes = (if old < x.data then x.data else old) ∧
        ∀ k, outside key a.bytes k → spGet t.mem k = spGet s.mem k) ∧
    (a.kind = .atomic .add →
      let slot := key + 4 * ((s.wg a.wg).ldie % 32)
      ∃ t, exec (.regionCommit a.id) s = .next t ∧ t.accs = [] ∧ brings s t a x (readLE s.mem slot 4) ∧
        (x.data < 2 ^ 31 → readLE t.mem slot 4 = min (readLE s.mem slot 4 + x.data) (2 ^ 32 - 1) ∧
          (t.ctx (s.wg a.wg).ctx).recNext = (s.ctx (s.wg a.wg).ctx).recNext) ∧
        (2 ^ 31 ≤ x.data → readLE t.mem slot 4 = readLE s.mem slot 4 ∧ nonMonoRecorded s t a) ∧
        ∀ k, outside slot 4 k → spGet t.mem k = spGet s.mem k)

/-- The join of a lattice type is commutative, associative and idempotent on its elements, so that cells agree whatever the order in
which values reach them (R74, R75). -/
def Obligations.JoinsAgreeInAnyOrder : Prop :=
  ∀ ty a b c, ty ≤ 8 → a < 2 ^ (8 * unitBytes ty) → b < 2 ^ (8 * unitBytes ty) → c < 2 ^ (8 * unitBytes ty) →
    joinUnit ty a b = joinUnit ty b a ∧ joinUnit ty (joinUnit ty a b) c = joinUnit ty a (joinUnit ty b c) ∧
      joinUnit ty a a = a ∧ (isElement ty a = true → isElement ty b = true → isElement ty (joinUnit ty a b) = true) ∧
      (isElement ty a = true → joinUnit ty (unitBottom ty) a = a)

/-- The verdict of an access: mapped leaves it to commit; PAGE holds a load or an atomic where it stands, and retires a store or a join
into the side log, its thread going on; OWN traps; PAGE is recorded for the owner with its code and for the operator of the die, and
nothing is written to memory (R125 to R128, R336). -/
def Obligations.VerdictsHoldLogOrTrap : Prop :=
  ∀ (s : State) (a : Access) (x : LaneAcc), s.powered = true → s.accs = [a] → a.lanes = [x] → x.verdict = .waiting →
    a.discarded = false → a.again = false → (s.wg a.wg).frozen = false → a.uniform = false → (s.wg a.wg).uid = a.wg → a.wg ≠ 0 → a.team < (s.wg a.wg).teams.length →
    x.lane < ((s.wg a.wg).team a.team).threads.length → (∃ c ∈ s.ctxs, c.uid = (s.wg a.wg).ctx) → x.home < s.dies.length →
    let c := (s.wg a.wg).ctx
    let recorded (t : State) (code : Nat) : Prop := (t.ctx c).recNext = (s.ctx c).recNext + 1 ∧
      (∃ r, (t.ctx c).recs.getLast? = some r ∧ r.bits.toNat % 2 ^ 8 = code ∧ r.bits.toNat / 2 ^ 128 % 2 ^ 64 = x.va % 2 ^ 64) ∧
      (t.die x.home).opNext = (s.die x.home).opNext + 1
    (s.laneVerdict (s.wg a.wg) a.kind x = .waiting → exec (.verdictArrival a.id) s = .refused .noOccasion) ∧
    (s.laneVerdict (s.wg a.wg) a.kind x = .mapped →
      ∃ t, exec (.verdictArrival a.id) s = .next t ∧ t.accs = [{ a with lanes := [{ x with verdict := .mapped }] }] ∧ t.mem = s.mem) ∧
    (s.laneVerdict (s.wg a.wg) a.kind x = .page → a.kind ≠ .store → a.kind ≠ .join →
      ∃ t, exec (.verdictArrival a.id) s = .next t ∧ t.accs = [{ a with lanes := [{ x with verdict := .page }] }] ∧ t.mem = s.mem ∧
        threadOf t a x = { threadOf s a x with status := .held a.id } ∧ recorded t 0x0C) ∧
    (s.laneVerdict (s.wg a.wg) a.kind x = .page → a.kind = .store ∨ a.kind = .join → s.slog = [] →
      ∃ t e, exec (.verdictArrival a.id) s = .next t ∧ t.accs = [] ∧ t.mem = s.mem ∧ threadOf t a x = pastAccess (threadOf s a x) ∧
        t.slog = [e] ∧ e.slot = 0 ∧ e.ia = x.ia ∧ e.data = x.data ∧ e.bytes = a.bytes ∧ e.join = decide (a.kind = .join) ∧ recorded t 0x0C) ∧
    (s.laneVerdict (s.wg a.wg) a.kind x = .own → spGet (s.record (s.wg a.wg).launch).handlers 2 ≠ 0 →
      receivesNow ((s.wg a.wg).team a.team) x.lane → (threadOf s a x).tcause.getLsbD 63 = false →
      ∃ t, exec (.verdictArrival a.id) s = .next t ∧ t.accs = [] ∧ t.mem = s.mem ∧
        threadOf t a x = { threadOf s a x with tcause := BitVec.ofNat 64 (2 ^ 63 + 0x08), tepc := (threadOf s a x).pc,
                                               pc := spGet (s.record (s.wg a.wg).launch).handlers 2, status := .running })

/-! ## Obligations: flow -/

/-- Branches, calls, jumps, returns, NOP and YIELD move the program counter, and lr where they link; nothing else changes. A jump to an
address that is not a multiple of 4 raises MISALIGN, one outside every code range NORANGE, in the thread that makes it (R149 to R151,
R153, R180). -/
def Obligations.BranchesMoveTheProgramCounter : Prop :=
  (∀ (s : State) (g : Group), s.Issues g →
    (∀ p n i, exec (.br p n i) s = .next (eachThread s g fun _ th =>
      if th.pred p.toNat = !n then runsAt th (displaced th.pc i) else th.goOn)) ∧
    (∀ a c i, exec (.ubr a c i) s = .next (eachThread s g fun _ th =>
      if ubrHolds c ((teamOf s g).sreg a.toNat).toInt then runsAt th (displaced th.pc i) else th.goOn)) ∧
    (∀ i, exec (.call i) s = .next (eachThread s g fun _ th => { runsAt th (displaced th.pc i) with lr := th.pc + 4 })) ∧
    (∀ a, targetHeld (teamOf s g) a → (∀ l ∈ g.live (teamOf s g), goodTarget s g (jumpTarget (teamOf s g) a ((teamOf s g).thread l))) →
      exec (.jmpi a) s = .next (eachThread s g fun _ th => runsAt th (jumpTarget (teamOf s g) a th)) ∧
      exec (.calli a) s = .next (eachThread s g fun _ th => { runsAt th (jumpTarget (teamOf s g) a th) with lr := th.pc + 4 })) ∧
    ((∀ l ∈ g.live (teamOf s g), goodTarget s g ((teamOf s g).thread l).lr) →
      exec .ret s = .next (eachThread s g fun _ th => runsAt th th.lr)) ∧
    exec .nop s = .next (eachThread s g fun _ th => th.goOn) ∧
    exec .yield s = .next (eachThread s g fun _ th => th.goOn)) ∧
  ∀ (s : State) (g : Group) (l : Nat) (a : Target), s.Issues g → g.live (teamOf s g) = [l] → targetHeld (teamOf s g) a →
    let x := jumpTarget (teamOf s g) a ((teamOf s g).thread l)
    ¬ goodTarget s g x → receivesNow (teamOf s g) l →
    ∃ t u, exec (.jmpi a) s = .next t ∧ exec (.calli a) s = .next u ∧
      trapped s g l (if x.toNat % 4 ≠ 0 then 0x06 else 0x07) 0 t ∧ trapped s g l (if x.toNat % 4 ≠ 0 then 0x06 else 0x07) 0 u

/-- TRAP traps with its code and BRK with the breakpoint cause, the return address behind them; a trap waits for what is outstanding,
then TRAP_DELIVERY delivers it, and so does one behind a lower lane that has still to receive a fault of the same instruction; with no
handler, or inside a handler, the thread leaves. BRK under a debugger's halt stops the thread where it stands: that R153's 'debugger
attached' is a context under DBG halt is the model's reading (DEDUCED, log 25) (R47, R153, R154, R202, R203, R211). -/
def Obligations.TrapsReachTheirHandler : Prop :=
  ∀ (s : State) (g : Group) (l : Nat), s.Issues g → g.live (teamOf s g) = [l] →
    (∀ code, code < 0x12 → trapClass code = classOf code) ∧
    (∀ i : BitVec 10, receivesNow (teamOf s g) l → ∃ t, exec (.trap i) s = .next t ∧ trapped s g l 0x11 i.toNat t) ∧
    (receivesNow (teamOf s g) l → (s.ctx (s.wg g.wg).ctx).halted = false → ∃ t, exec .brk s = .next t ∧ trapped s g l 0x10 0 t) ∧
    ((s.ctx (s.wg g.wg).ctx).halted = true → exec .brk s = .next s) ∧
    (∀ i : BitVec 10, ¬ receivesNow (teamOf s g) l → ∃ k, k.code = 0x11 ∧ k.ucode = i.toNat ∧
      exec (.trap i) s = .next (s.modThread g.wg g.team l fun th => { th with status := .trapping k })) ∧
    (∀ k, s.powered = true → (s.wg g.wg).frozen = false → ((teamOf s g).thread l).status = .trapping k → receivesNow (teamOf s g) l →
      ∃ t, exec (.trapDelivery g.wg g.team l) s = .next t ∧ trapped s g l k.code k.ucode t)

/-- STRAP sets the handler of a class for the launch, and refuses an address that is not a multiple of 4 with MISALIGN in every thread;
TRET returns every thread to its TEPC with TCAUSE zero, and is ILLOP in every thread when one of them is not in a handler (R202, R203,
R174). -/
def Obligations.HandlersAreSetAndLeft : Prop :=
  ∀ (s : State) (g : Group), s.Issues g →
    (∀ a c, ((teamOf s g).sreg a.toNat).toNat % 4 = 0 → exec (.strap a c) s = .next
      (eachThread (s.modRec (s.wg g.wg).launch fun r => { r with handlers := spSet r.handlers c.toNat ((teamOf s g).sreg a.toNat) }) g
        fun _ th => th.goOn)) ∧
    (∀ a c, ((teamOf s g).sreg a.toNat).toNat % 4 ≠ 0 →
      ∃ k, exec (.strap a c) s = .next (s.raiseGroup g.wg g.team g.lanes k) ∧ k.code = 0x06) ∧
    ((∀ l ∈ g.live (teamOf s g), ((teamOf s g).thread l).tcause.getLsbD 63 = true) →
      exec .tret s = .next (eachThread s g fun _ th => { th with pc := th.tepc, tcause := 0, status := .running })) ∧
    ((∃ l ∈ g.live (teamOf s g), ((teamOf s g).thread l).tcause.getLsbD 63 = false) →
      ∃ k, exec .tret s = .next (s.raiseGroup g.wg g.team g.lanes k) ∧ k.code = 0x01)

/-- A thread with nothing outstanding leaves by EXIT; every named barrier then expects one arrival less, forgets the thread's arrival
in the current phase and completes where the rest has arrived; the last thread of a team gives up its extended block, the registers
zeroed, and its queue roles (R11, R153, R155). -/
def Obligations.ExitSettlesBarriersAndTeam : Prop :=
  ∀ (s : State) (g : Group) (l : Nat), s.Issues g → g.live (teamOf s g) = [l] → (s.wg g.wg).barriers.length = 16 →
    ((teamOf s g).thread l).outs = [] → ((teamOf s g).thread l).status = .running →
    ∃ t, exec .exit s = .next t ∧ ((teamOf t g).thread l).status = .exited ∧ t.mem = s.mem ∧
      (∀ b, b < 16 → (t.wg g.wg).barrier b = afterExit (s.wg g.wg) ((teamOf s g).thread l) b ((s.wg g.wg).hasWaiter b)) ∧
      ((∀ k, k < (teamOf s g).threads.length → k ≠ l → ((teamOf s g).thread k).status = .exited) →
        (teamOf t g).ext = false ∧ (∀ k r, 32 ≤ r → r < 64 → ((teamOf t g).thread k).v32 r = 0) ∧
        ∀ q ∈ (t.wg g.wg).queues, g.team ∉ q.producers ∧ g.team ∉ q.consumers)

/-- BAR.arrive counts, BAR.wait waits for the phase it has arrived in or for the current one, BAR.sync does both; the last arrival
completes the phase, and every thread of the workgroup that waits on it goes on, whatever its team; a barrier that is off holds nobody; an
arrival waits for the release of the thread's earlier accesses. That a thread which has never arrived waits for the present phase is the
model's reading of R155's pseudocode (DEDUCED, log 22) (R148, R155). -/
def Obligations.BarriersPassWhenAllHaveArrived : Prop :=
  ∀ (s : State) (g : Group) (l : Nat) (b : BitVec 4), s.Issues g → g.live (teamOf s g) = [l] → (s.wg g.wg).barriers.length = 16 →
    let x := (s.wg g.wg).barrier b.toNat
    let th := (teamOf s g).thread l
    let arrived : Thread := { th with arrived := spSet th.arrived b.toNat (BitVec.ofNat 64 (x.phase + 1)) }
    let waiting (p : Nat) : Status := .waiting (.barrier b.toNat p)
    th.status = .running → l < 64 → x.phase + 1 < 2 ^ 64 →
    (s.released g.wg g.team l 0xFF 1 = false →
      ∃ t, exec (.barArrive b) s = .next t ∧ exec (.barSync b) s = .next t ∧ (teamOf t g).thread l = { th with status := .waiting .release } ∧
        (t.wg g.wg).barrier b.toNat = x) ∧
    (s.released g.wg g.team l 0xFF 1 = true → x.expected = 0 →
      exec (.barArrive b) s = .next (s.modThread g.wg g.team l fun y => y.goOn) ∧
      exec (.barSync b) s = .next (s.modThread g.wg g.team l fun y => y.goOn)) ∧
    (s.released g.wg g.team l 0xFF 1 = true → x.count + 1 < x.expected →
      ∃ t u, exec (.barArrive b) s = .next t ∧ exec (.barSync b) s = .next u ∧
        (t.wg g.wg).barrier b.toNat = { x with count := x.count + 1 } ∧ (u.wg g.wg).barrier b.toNat = { x with count := x.count + 1 } ∧
        (teamOf t g).thread l = arrived.goOn ∧ (teamOf u g).thread l = { arrived with status := waiting x.phase }) ∧
    (s.released g.wg g.team l 0xFF 1 = true → 0 < x.expected → x.expected ≤ x.count + 1 →
      ∃ t u, exec (.barArrive b) s = .next t ∧ exec (.barSync b) s = .next u ∧
        (t.wg g.wg).barrier b.toNat = ⟨x.expected, 0, x.phase + 1⟩ ∧ (u.wg g.wg).barrier b.toNat = ⟨x.expected, 0, x.phase + 1⟩ ∧
        (teamOf t g).thread l = arrived.goOn ∧ (teamOf u g).thread l = arrived.goOn ∧
        ∀ n k p, n < (s.wg g.wg).teams.length → k < ((s.wg g.wg).team n).threads.length →
          (((s.wg g.wg).team n).thread k).status = waiting p → p ≤ x.phase →
          ((t.wg g.wg).team n).thread k = (((s.wg g.wg).team n).thread k).goOn ∧
          ((u.wg g.wg).team n).thread k = (((s.wg g.wg).team n).thread k).goOn) ∧
    (exec (.barWait b) s = .next (s.modThread g.wg g.team l fun y =>
      if x.expected = 0 ∨ ((spGet th.arrived b.toNat).toNat ≠ 0 ∧ (spGet th.arrived b.toNat).toNat ≠ x.phase + 1) then y.goOn
      else { y with status := waiting x.phase }))

/-- FENCE waits until the thread's earlier accesses of its colours are performed at its scope; its release half at die scope or wider
performs what stands dirty in the cluster; its acquire half at die scope or wider drops the clean words the cluster does not own, and
the read-only copies when asked, the host data that the die's L2 holds for them among them, the cluster's dirty words being performed
first; every byte of memory that no cluster holds dirty stays (R147, R148, R235, R250, R257). -/
def Obligations.FencesReleaseAndAcquire : Prop :=
  ∀ (s : State) (g : Group) (c : BitVec 8) (sc : Scope) (k : FenceKind) (r : Bool), s.Issues g → g.live (teamOf s g) ≠ [] →
    let scope := match sc with | .team => 0 | .wg => 1 | .cluster => 2 | .die => 3 | .module => 4 | .system => 5
    ((k = .acq ∨ ∀ l ∈ g.live (teamOf s g), s.released g.wg g.team l c scope = true) →
      ∃ t, exec (.fence c sc k r) s = .next t ∧
        t = { eachThread s g (fun _ th => th.goOn) with mem := t.mem, cwords := t.cwords, roLines := t.roLines } ∧ kept s t ∧
        (scope < 3 → k = .rel ∨ r = false → t.mem = s.mem ∧ t.cwords = s.cwords) ∧
        ((k ≠ .acq ∧ 3 ≤ scope) ∨ (k ≠ .rel ∧ r = true) → published s t (dieAt s g) (clusterAt s g)) ∧
        (k ≠ .rel → 3 ≤ scope → ∀ w ∈ t.cwords, w.die = dieAt s g → w.cluster = clusterAt s g → w.owned = true ∨ w.dirty ≠ 0) ∧
        t.roLines = if k ≠ .rel ∧ r = true then
            s.roLines.filter fun x => !(x.die == dieAt s g && (x.cluster == clusterAt s g || x.cluster == 16))
          else s.roLines) ∧
    (k ≠ .acq → (∀ l ∈ g.live (teamOf s g), s.released g.wg g.team l c scope = false) →
      exec (.fence c sc k r) s = .next (eachThread s g fun _ th => { th with status := .waiting .release }))

/-! ## Obligations: uniform instructions -/

/-- Uniform arithmetic writes its result to sD of the team, a write to s0 being discarded, and the group goes on (R174, R177 to R179, R7,
R39). -/
def Obligations.UniformArithmeticWritesItsResult : Prop :=
  ∀ (i : Instr) (d : SReg) (f : Team → BitVec 64) (s : State) (g : Group), scalarForm i = some (d, f) → s.Issues g →
    exec i s = .next (writesUniform s g d (f (teamOf s g))) ∧
    ∀ (tm : Team) (v : BitVec 64), ((d = 0 → tm.setS d.toNat v = tm) ∧ (d ≠ 0 → (tm.setS d.toNat v).sreg d.toNat = v) ∧
      (tm.setS d.toNat v).sreg 0 = 0 ∧ ∀ r, r ≠ d.toNat → (tm.setS d.toNat v).sreg r = tm.sreg r)

/-- XPAT keeps the low 22 bits of its source as the team's pattern; JORD changes the jet order and nothing else. BARSET sets what
a barrier expects and completes the phase where that is zero or has arrived; above 1,024 it is NORANGE in every thread. The
shared-register instructions deliver the register's value and replace it in one step (R35, R77, R174, R186, R190, R191). -/
def Obligations.TeamSettingsBarriersAndSharedRegisters : Prop :=
  (∀ (s : State) (g : Group), s.Issues g →
      (∀ a, exec (.xpat a) s = .next (eachThread
        (s.modTeam g.wg g.team fun x => { x with xpat := BitVec.ofNat 32 (((teamOf s g).sreg a.toNat).toNat % 2 ^ 22) }) g
        fun _ th => th.goOn)) ∧
      ∀ j, exec (.jord j) s = .next
        ((eachThread s g fun _ th => th.goOn).modTeam g.wg g.team fun x => { x with jord := j })) ∧
  (∀ (s : State) (g : Group), s.Issues g → (s.wg g.wg).barriers.length = 16 →
      (∀ a (b : BitVec 4), let e := ((teamOf s g).sreg a.toNat).toNat
        let x := (s.wg g.wg).barrier b.toNat
        (1024 < e → ∃ k, exec (.barset a b) s = .next (s.raiseGroup g.wg g.team g.lanes k) ∧ k.code = 0x07) ∧
        (e ≤ 1024 → ∃ t, exec (.barset a b) s = .next t ∧
          (t.wg g.wg).barrier b.toNat = if e = 0 ∨ e ≤ x.count then ⟨e, 0, x.phase + 1⟩ else { x with expected := e })) ∧
      ∀ i d r f reads, sharedForm i = some (d, r, f, reads) → (reads = true → r.toNat ∉ (s.wg g.wg).gpoison) →
        let v := f (teamOf s g) (spGet (s.wg g.wg).g r.toNat)
        let whole (w : Wg) : List Nat := if reads then w.gpoison else w.gpoison.filter fun q => q != r.toNat
        exec i s = .next (writesUniform (s.modWg g.wg fun w => { w with g := spSet w.g r.toNat v.2, gpoison := whole w }) g d v.1))

/-- TFETCH takes the next unit, TFETCH.B up to as many as asked, TFETCH.R only counts what is left; the end codes and the result are
pending uniform values, and the dispenser moves by what was given (R187). -/
def Obligations.UnitsComeFromTheDispenser : Prop :=
  ∀ (s : State) (g : Group), s.Issues g →
    let r := s.record (s.wg g.wg).launch
    let moved (n : Nat) : State := s.modRec (s.wg g.wg).launch fun x => { x with next := n }
    (∀ d, exec (.tfetch d) s = .next (pendsUniform (moved (unitsFrom r 1).2.2) g [(d.toNat, (unitsFrom r 1).1)])) ∧
    (∀ d a, let n := ((teamOf s g).sreg a.toNat).toNat % 2 ^ 32
      exec (.tfetchB d a) s = .next (pendsUniform (moved (unitsFrom r n).2.2) g
        [(d.toNat, (unitsFrom r n).1), (d.toNat + 1, (unitsFrom r n).2.1)])) ∧
    ∀ d, exec (.tfetchR d) s = .next (pendsUniform s g
      [(d.toNat, if r.cancelled = true then 0 else BitVec.ofNat 64 (r.units - r.next))])

/-- XACQ and XTAKE give the team a zeroed extended block, or wait for one in turn; XREL gives it up once nothing is outstanding in it;
XGIVE passes it on to a team that has none; with a block held, or none to give, they only go on (R9 to R12, R189). -/
def Obligations.ExtendedBlocksChangeHands : Prop :=
  ∀ (s : State) (g : Group), s.Issues g →
    let tm := teamOf s g
    let went : State := eachThread s g fun _ th => th.goOn
    (tm.ext = true → exec .xacq s = .next went ∧ ∀ d, exec (.xtake d) s = .next (writesUniform s g d 0)) ∧
    (tm.ext = false → s.blockNow (s.wg g.wg) tm = true → ∃ t, exec .xacq s = .next t ∧ (teamOf t g).ext = true ∧
      (∀ l r, 32 ≤ r → r < 64 → ((teamOf t g).thread l).v32 r = 0) ∧ (∀ l r, r < 32 → ((teamOf t g).thread l).v32 r = (tm.thread l).v32 r) ∧
      ∀ d, ∃ u, exec (.xtake d) s = .next u ∧ (teamOf u g).ext = true ∧ (teamOf u g).uouts = tm.uouts ++ [⟨g.id, true, [(d.toNat, 0)]⟩]) ∧
    (tm.ext = false → s.blockNow (s.wg g.wg) tm = false → ∃ t, exec .xacq s = .next t ∧ (teamOf t g).ext = false ∧
      (teamOf t g).blockTurn = (if tm.blockTurn = 0 then s.nextId else tm.blockTurn) ∧
      (∀ l, l < tm.threads.length → inMask g.lanes l = true → (teamOf t g).thread l = { tm.thread l with status := .waiting .block }) ∧
      ∀ d, exec (.xtake d) s = .next t) ∧
    (tm.ext = false → exec .xrel s = .next went ∧ ∀ a, exec (.xgive a) s = .next went) ∧
    (tm.ext = true → s.outsExtended g.wg g.team tm = false → ∃ t, exec .xrel s = .next t ∧ (teamOf t g).ext = false ∧
      ∀ l r, 32 ≤ r → r < 64 → ((teamOf t g).thread l).v32 r = 0) ∧
    (tm.ext = true → s.outsExtended g.wg g.team tm = true → exec .xrel s = .next (eachThread s g fun _ th => { th with status := .waiting .release })) ∧
    ∀ a, let n := (tm.sreg a.toNat).toNat % 2 ^ 4
      tm.ext = true →
      ((s.wg g.wg).teams.length ≤ n ∨ n = g.team ∨ ((s.wg g.wg).team n).ended = true →
        ∃ k, exec (.xgive a) s = .next (s.raiseGroup g.wg g.team g.lanes k) ∧ k.code = 0x07) ∧
      (n < (s.wg g.wg).teams.length → n ≠ g.team → ((s.wg g.wg).team n).ended = false →
        (((s.wg g.wg).team n).ext = true ∨ ((s.wg g.wg).team n).extReserved = true →
          exec (.xgive a) s = .next (eachThread s g fun _ th => { th with status := .waiting (.give n) })) ∧
        (((s.wg g.wg).team n).ext = false → ((s.wg g.wg).team n).extReserved = false →
          ∃ t, exec (.xgive a) s = .next t ∧ (teamOf t g).ext = false ∧ ((t.wg g.wg).team n).extReserved = true))

/-- The frame of the uniform instructions with one register result: no byte of memory, no other workgroup or team, no other uniform
register, no lane register, predicate, flag, loop counter, link or trap register of a thread changes; outside a loop body's end only the
program counter of the group's threads moves. -/
def Obligations.UniformInstructionsChangeNothingElse : Prop :=
  ∀ (i : Instr) (d : SReg) (f : Team → BitVec 64) (s t : State) (g : Group), scalarForm i = some (d, f) → s.Issues g → exec i s = .next t →
    t = { s with wgs := t.wgs } ∧ (∀ k, spGet t.mem k = spGet s.mem k) ∧ (∀ u, u ≠ g.wg → t.wg u = s.wg u) ∧
    t.wg g.wg = { s.wg g.wg with teams := (t.wg g.wg).teams } ∧
    (∀ n, n ≠ g.team → (t.wg g.wg).team n = (s.wg g.wg).team n) ∧
    teamOf t g = { (teamOf s g) with threads := (teamOf t g).threads, s := (teamOf t g).s, poison := (teamOf t g).poison } ∧
    (∀ r, r ≠ d.toNat → (teamOf t g).sreg r = (teamOf s g).sreg r) ∧ (∀ r ∈ (teamOf t g).poison, r ∈ (teamOf s g).poison) ∧
    ∀ l, l < (teamOf s g).threads.length →
      let th := (teamOf s g).thread l
      let th' := (teamOf t g).thread l
      (inMask g.lanes l = false → th' = th) ∧
      (th.bodies = [] → inMask g.lanes l = true → th' = { th with pc := th.pc + 4, status := .running }) ∧
      th' = { th with pc := th'.pc, status := th'.status, lc := th'.lc }

/-! ## Obligations: control registers and authority -/

/-- An authority that may not execute a privileged instruction is refused: REFUSED in sD and LSTAT, COUNT and REFCNT one higher, and
nothing else of it happens; FRPT and FOPR deliver the word as their pending result (R18, R19, R22 to R24). -/
def Obligations.PrivilegeIsChecked : Prop :=
  ∀ (i : Instr) (d : SReg) (who : List Nat) (pending : Bool) (s : State) (g : Group), rightsOf i = some (d, who, pending) →
    s.Issues g → (ctxOf s g).auth < 3 → (ctxOf s g).auth ∉ who →
    exec i s = .next (if pending then
        pendsUniform ((counted s g).modCtx (s.wg g.wg).ctx fun c =>
          { c with lstat := (c.lstat &&& 0xFFFFFFFF00000000) ||| (status 1 0 &&& 0xFFFF) }) g [(d.toNat, status 1 0)]
      else refusal s g d 0)

/-- SRDS delivers what the reader's cells show, with OK in LSTAT; a register none of whose cells it may read is refused, and an index
the map does not list is ILLOP in every thread; XSTAT_READ and CAPCAUSE_READ read their registers and clear what a read clears (R21,
R22, R44, R181, R270, R381). -/
def Obligations.SrdsReadsControlRegisters : Prop :=
  ∀ (i : Instr) (d : SReg) (n : Nat) (s : State) (g : Group), readIndex i = some (d, n) → s.Issues g → (ctxOf s g).auth < 3 →
    (∀ row ∈ readRows s g, row.index = n → (ctxOf s g).auth ∈ row.readers →
      exec i s = .next (answered s (readClears s g n) g d row.value 0)) ∧
    ((∃ row ∈ readRows s g, row.index = n) → (∀ row ∈ readRows s g, row.index = n → (ctxOf s g).auth ∉ row.readers) →
      exec i s = .next (refusal s g d 0)) ∧
    ((∀ row ∈ readRows s g, row.index ≠ n) → ∃ k, exec i s = .next (s.raiseGroup g.wg g.team g.lanes k) ∧ k.code = 0x01)

/-- A register that holds what is written takes the written value's fields, the rest of the machine staying as it is, and the write
answers OK (R21, R22, R70, R181 to R183, R194, R326, R340, R351, R363, R376). That a write of ENGHEAD also clears the ERR code is
the model's choice (DESIGN CHOICE, log 39). -/
def Obligations.RegisterWritesTakeEffect : Prop :=
  ∀ (i : Instr) (d a : SReg) (n : Nat) (s : State) (g : Group), writeIndex i = some (d, a, n) → s.Issues g → (ctxOf s g).auth < 3 →
    (ctxOf s g).uid = (s.wg g.wg).ctx →
    ∀ row ∈ writeRows s g ((teamOf s g).sreg a.toNat), row.index = n → (ctxOf s g).auth ∈ row.writers → row.free →
      exec i s = .next (answered s row.after g d 0 0)

/-- A write that no cell of the writer allows is refused or traps, and one to a frozen register writes nothing, answers FROZEN in sD and
LSTAT where its team still runs, and moves the interface to ERROR, which resets the owner contexts: their windows stay, and every
register of a context that is not reset (R18, R20, R21, R181, R373). PTROOT answers EVAC on a die that drains (DEDUCED, log 47). -/
def Obligations.RegisterWritesAreJudged : Prop :=
  ∀ (i : Instr) (d a : SReg) (n : Nat) (s : State) (g : Group), writeIndex i = some (d, a, n) → s.Issues g → (ctxOf s g).auth < 3 →
    let x := (teamOf s g).sreg a.toNat
    let c := ctxOf s g
    let j := judged n c.auth (partOf s g).locked
    let turnedAway (code : Nat) : Prop := exec i s = .next (answered s s g d (status code 0) (status code 0))
    (j = .refused → exec i s = .next (refusal s g d 0)) ∧
    (j = .trap → ∃ k, exec i s = .next (s.raiseGroup g.wg g.team g.lanes k) ∧ k.code = 0x01) ∧
    (j = .frozen → ∃ u : State,
      ((u.wg g.wg).uid = g.wg → exec i s = .next (answered s u g d (status 9 0) (status 9 0))) ∧
      ((u.wg g.wg).uid ≠ g.wg → exec i s = .next u) ∧
      (u.part c.part).ifstate = .error ∧ (u.part c.part).diemap = (s.part c.part).diemap ∧
      (∀ e, (u.die e).fmt = (s.die e).fmt ∧ (u.die e).xbound = (s.die e).xbound) ∧
      (∀ k, windowRegs (u.ctx k).regs = windowRegs (s.ctx k).regs) ∧
      ((partOf s g).ifstate = .error → u = s) ∧
      ((s.ctxs.map Ctx.uid).Nodup → ∀ k, (s.ctx k).part ≠ c.part ∨ (s.ctx k).auth ≠ 1 → (u.ctx k).regs = (s.ctx k).regs) ∧
      (c.auth ≠ 1 → (s.ctxs.map Ctx.uid).Nodup → (s.wgs.map Wg.uid).Nodup → (u.wg g.wg).uid = g.wg)) ∧
    (∀ m, m < 16 → within n (0x020 + 4 * m) 3 = true → c.rangeEnabled m = true → turnedAway 4) ∧
    (∀ m, m < 16 → n = 0x023 + 4 * m → c.rangeEnabled m = true → x.getLsbD 0 = true → turnedAway 4) ∧
    (∀ m, m < 16 → n = 0x023 + 4 * m → c.rangeEnabled m = true → x.getLsbD 0 = false → 6 ≤ field x 1 3 → turnedAway 6) ∧
    (∀ m, m < 16 → n = 0x023 + 4 * m → c.rangeEnabled m = false → 6 ≤ field x 1 3 ∨ (x.getLsbD 0 = true ∧ c.rlim m < c.rbase m) → turnedAway 6) ∧
    (n = 0x071 → j = .proceeds → x.toNat % 4 = 3 → turnedAway 6) ∧
    (∀ e k, (e, k) ∈ [(Engine.copy, 0x010), (.gather, 0x014), (.collective, 0x018)] →
      (n = k → x.toNat % 64 ≠ 0 → turnedAway 6) ∧ (n = k + 1 → x.toNat % 8 ≠ 0 → turnedAway 6) ∧
      (n = k → x.toNat % 64 = 0 → (s.engFor (s.wg g.wg) e).state = 1 ∨ (s.engFor (s.wg g.wg) e).state = 2 → turnedAway 4)) ∧
    (∀ m, m < 8 → j = .proceeds → n = 0x101 + 2 * m → (spGet (dieOf s g).fmt (0x100 + 2 * m)).getLsbD 0 = true → turnedAway 4) ∧
    (n = 0x0D2 → j = .proceeds → field x 16 16 < 8 ∨ 1024 < field x 16 16 → turnedAway 6) ∧
    (n = 0x070 → j = .proceeds → (dieOf s g).dstate ≠ 0 → turnedAway 3) ∧
    (within n 0x080 8 = true → j = .proceeds → x.getLsbD 7 = true →
      field x 16 16 = 0 ∨ field x 16 16 < field (dieOf s g).xbound 0 16 ∨ (dieOf s g).xbound.getLsbD (32 + field x 0 5) = false →
      turnedAway 6)

/-- A write to RATTRn (SWRS and RATTR_WRITE) stores a disabled range's attributes; it enables a range where R326 and R353 allow it, a
lattice range declaring its region with the frames that are in it (DEDUCED, log 46); it disables a range once nobody uses it, and with
it go the translations of its code and the regions that no range names any more (R265, R317, R326). -/
def Obligations.RangesAreEnabledAndDisabled : Prop :=
  ∀ (i : Instr) (d a : SReg) (n : Nat) (s : State) (g : Group), writeIndex i = some (d, a, n) → s.Issues g → (ctxOf s g).auth < 3 →
    (ctxOf s g).uid = (s.wg g.wg).ctx → (s.wg g.wg).ctx ≠ 0 → (ctxOf s g).part < s.parts.length →
    let x := (teamOf s g).sreg a.toNat
    let c := ctxOf s g
    let p := partOf s g
    let store (t : State) : State := t.modCtx c.uid fun y => { y with regs := spSet y.regs n (x &&& 0x1FFFF) }
    let on (e : Nat) : Prop := e < 24 ∧ (s.die e).part = some c.part
    ∀ m, m < 16 → n = 0x023 + 4 * m →
      let pages := c.rlim m + 1 - c.rbase m
      let inside (q : Nat) : Prop := c.roff m ≤ q ∧ q < c.roff m + pages
      (c.rangeEnabled m = false → x.getLsbD 0 = false → field x 1 3 < 6 → exec i s = .next (answered s (store s) g d 0 0)) ∧
      (MayEnable c m x → inOneWindow c (c.roff m) pages → field x 1 3 ∈ [0, 3, 4, 5] → exec i s = .next (answered s (store s) g d 0 0)) ∧
      (MayEnable c m x → field x 1 3 = 2 → ∀ e, p.phys (field x 12 5) = some e →
        s.exported c e (c.roff m) pages = true ∨ (0xFFFFFFFFF ≤ c.roff m ∧ c.roff m + pages ≤ 2 ^ 36) →
        exec i s = .next (answered s (store s) g d 0 0)) ∧
      (MayEnable c m x → inOneWindow c (c.roff m) pages → field x 1 3 = 1 → field x 4 4 ≤ 8 →
        (∀ r ∈ p.regions, r.id ≠ (regionFor c m x).id ∧ (r.base + r.size ≤ (regionFor c m x).base ∨
          (regionFor c m x).base + (regionFor c m x).size ≤ r.base)) →
        let declared := store (s.modPart c.part fun q => { q with regions := q.regions ++ [regionFor c m x] })
        ((∀ e, on e → ∀ y ∈ (s.die e).published, ¬ inside y.page) → exec i s = .next (answered s declared g d 0 0)) ∧
        ∃ t, exec i s = .next (answered s t g d 0 0) ∧ t.parts = declared.parts ∧ t.ctxs = declared.ctxs ∧
          ∀ e, on e → ∀ y ∈ (s.die e).published, inside y.page → ∀ h f, y.spot e = (some h, f) → h < s.dies.length → h < 24 →
            (s.frameOf h f).owner = p.world → (t.frameOf h f).lattice = true) ∧
      (MayEnable c m x → inOneWindow c (c.roff m) pages → field x 1 3 = 1 → field x 4 4 ≤ 8 → regionFor c m x ∈ p.regions →
        (∀ r ∈ p.regions, r.id = (regionFor c m x).id → r = regionFor c m x) → exec i s = .next (answered s (store s) g d 0 0)) ∧
      (c.rangeEnabled m = true → x.getLsbD 0 = false → field x 1 3 < 6 →
        (s.rangeBusy c m = true → exec i s = .next (waits s g (.service false))) ∧
        (s.rangeBusy c m = false → ∃ t, exec i s = .next (answered s t g d 0 0) ∧ (t.ctx c.uid).rattr m = x &&& 0x1FFFF ∧ t.mem = s.mem ∧
          (∀ r ∈ t.trans, r ∈ s.trans ∧
            (on r.die → r.ia / 65536 < c.roff m + pages → (r.ia + 4 * r.words.length - 1) / 65536 < c.roff m)) ∧
          ∀ r ∈ (t.part c.part).regions, r ∈ p.regions ∧ ∃ y ∈ t.ctxs, y.part = c.part ∧ y.namesRegion r.id = true))

/-- Writes to the exchange entries, to their bounds and to the exports (SWRS, XSCHED_WRITE, XBOUND_WRITE, EXPB_WRITE). Clearing EN of an
entry drops its marks; setting it within the bounds holds the value and marks every line of every region for the entry when the value
is new; new bounds clear the entries they forbid; an export is set where it is disabled, and its EN is cleared while no enabled peer range uses
it (R268, R269, R271, R275, R352). -/
def Obligations.ExchangeBoundsAndExportsAreSet : Prop :=
  ∀ (i : Instr) (d a : SReg) (n : Nat) (s : State) (g : Group), writeIndex i = some (d, a, n) → s.Issues g → (ctxOf s g).auth < 3 →
    (ctxOf s g).uid = (s.wg g.wg).ctx → (s.wg g.wg).die < s.dies.length →
    let x := (teamOf s g).sreg a.toNat
    let c := ctxOf s g
    let e := dieOf s g
    let die := (s.wg g.wg).die
    let p := partOf s g
    let turnedAway (code : Nat) : Prop := exec i s = .next (answered s s g d (status code 0) (status code 0))
    (∀ m, m < 8 → n = 0x080 + m → c.auth = 1 → x.getLsbD 7 = false →
      exec i s = .next (answered s (s.modDie die fun y =>
        { y with xsched := spSet y.xsched m (x &&& 0xFFFF009F), xpending := y.xpending.filter fun z => z.1 != m,
                 marks := y.marks.filter fun z => z.entry != m }) g d 0 0)) ∧
    (∀ m, m < 8 → n = 0x080 + m → c.auth = 1 → x.getLsbD 7 = true → p.logicalOf die ≠ some (field x 0 5) → 0 < field x 16 16 →
      e.xbound.getLsbD (32 + field x 0 5) = true → field e.xbound 0 16 ≤ field x 16 16 →
      ((List.range 8).countP fun k => k != m && (e.xreg k).getLsbD 7) < min 8 (field e.xbound 16 4) →
      ∃ t, exec i s = .next (answered s t g d 0 0) ∧ t = { s with dies := t.dies } ∧ (∀ b, b ≠ die → t.die b = s.die b) ∧
        (t.die die).xreg m = x &&& 0xFFFF009F ∧ (∀ k, k ≠ m → (t.die die).xreg k = e.xreg k) ∧
        (e.xreg m = x &&& 0xFFFF009F → t = s) ∧ (∀ k ∈ e.marks, k ∈ (t.die die).marks) ∧
        (e.xreg m ≠ x &&& 0xFFFF009F → ∀ r ∈ p.regions, ∀ l, r.base / 256 ≤ l → l < r.base / 256 + r.size / 256 →
          ⟨m, l⟩ ∈ (t.die die).marks)) ∧
    (n = 0x088 → c.auth = 0 → p.locked = false → ∃ t, exec i s = .next (answered s t g d 0 0) ∧ t = { s with dies := t.dies } ∧
      (t.die die).xbound = x &&& 0xFFFFFFFF000FFFFF ∧
      ((List.range 8).countP fun k => ((t.die die).xreg k).getLsbD 7) ≤ min 8 (field x 16 4) ∧
      ∀ k, k < 8 → ((t.die die).xreg k).getLsbD 7 = true → (t.die die).xreg k = e.xreg k ∧
        x.getLsbD (32 + field ((t.die die).xreg k) 0 5) = true ∧ field x 0 16 ≤ field ((t.die die).xreg k) 16 16) ∧
    ∀ m, m < 8 → c.auth = 1 →
      let lo := field (c.expb die m) 16 36
      let hi := field (c.expl die m) 16 36
      let store : State := s.modCtx c.uid fun y =>
        { y with regs := spSet y.regs (exportKey die n) (x &&& if n = 0x090 + 2 * m then 0xFFFFFFFFF0003 else 0xFFFFFFFFF0000) }
      (n ∈ [0x090 + 2 * m, 0x091 + 2 * m] → (c.expb die m).getLsbD 0 = false →
        n = 0x091 + 2 * m ∨ x.getLsbD 0 = false ∨ (field x 16 36 ≤ hi ∧
          coveredBy (s.worldWindows c.part c.world) ((s.worldWindows c.part c.world).length + 1) (field x 16 36) hi = true) →
        exec i s = .next (answered s store g d 0 0)) ∧
      (n = 0x090 + 2 * m → (c.expb die m).getLsbD 0 = true → x.getLsbD 0 = false →
        (s.imported c.part die lo hi = true → turnedAway 4) ∧
        (s.imported c.part die lo hi = false → exec i s = .next (answered s store g d 0 0))) ∧
      ((n = 0x090 + 2 * m ∧ x.getLsbD 0 = true) ∨ n = 0x091 + 2 * m → (c.expb die m).getLsbD 0 = true → turnedAway 4)

/-- Writes to the root of a die's page tables, to DSTATE, and to the power settings (SWRS, PTROOT_WRITE, DSTATE_WRITE, PCAP_WRITE). PTROOT
publishes every page of the new tables, as a MAPSYNC of all of them, waiting while a thread is inside code of these pages and leaving all as it is where a
frame that goes is sealed; REQ begins and stops a drain; PCAP and PRANK hold what is written (R317, R328, R330, R363, R376). -/
def Obligations.RootsDrainsAndPowerAreSet : Prop :=
  ∀ (i : Instr) (d a : SReg) (n : Nat) (s : State) (g : Group), writeIndex i = some (d, a, n) → s.Issues g → (ctxOf s g).auth = 0 →
    (ctxOf s g).uid = (s.wg g.wg).ctx → (s.wg g.wg).die < s.dies.length → (ctxOf s g).part < s.parts.length →
    let x := (teamOf s g).sreg a.toNat
    let c := ctxOf s g
    let e := dieOf s g
    let die := (s.wg g.wg).die
    let p := partOf s g
    let rooted := s.modDie die fun y => { y with ptroot := x &&& 0xFFFFFFFFF0001 }
    (n = 0x070 → e.dstate = 0 →
      (rooted.publishWaits die 0 (2 ^ 36) = true → exec i s = .next (waits s g (.service false))) ∧
      (rooted.publishWaits die 0 (2 ^ 36) = false →
        (∀ t, rooted.publish die 0 (2 ^ 36) = (t, 0) → exec i s = .next (answered s t g d 0 0)) ∧
        (x.getLsbD 0 = false → (∃ m ∈ e.published, m.page < 2 ^ 36 ∧ s.sealedAt die m = true) →
          exec i s = .next (answered s s g d (status 4 0) (status 4 0))) ∧
        (x.getLsbD 0 = false → (∀ m ∈ e.published, m.page < 2 ^ 36 → s.sealedAt die m = false) →
          ∃ t, exec i s = .next (answered s t g d 0 0) ∧ (t.die die).ptroot = x &&& 0xFFFFFFFFF0001 ∧
            ∀ m ∈ (t.die die).published, m ∈ e.published ∧ 2 ^ 36 ≤ m.page))) ∧
    (n = 0x0C8 → ∃ t, exec i s = .next (answered s t g d 0 0) ∧ (t.die die).req = x.getLsbD 2 ∧
      (t.die die).dstate = if x.getLsbD 2 = true ∧ e.dstate = 0 then 1 else if x.getLsbD 2 = false ∧ e.dstate = 1 then 0 else e.dstate) ∧
    (n = 0x0D2 → 8 ≤ field x 16 16 → field x 16 16 ≤ 1024 → ∃ t, exec i s = .next (answered s t g d 0 0) ∧
      (t.part c.part).pcap = x &&& 0xFFFFFFFF ∧ (t.part c.part).prank = p.prank) ∧
    (n = 0x0D1 → ∃ t, exec i s = .next (answered s t g d 0 0) ∧
      (t.part c.part).prank = BitVec.ofNat 4 x.toNat ∧ (t.part c.part).pcap = p.pcap)

/-- MAPSYNC publishes what the tables hold for its pages: EVAC while the die drains, OK at once for no page, BADARG past the last page and
where a mapping may not be published, BUSY where a frame that is sealed would be released; it waits while a thread is inside code of the span, and
with OK the pages of the span are published as the tables hold them, no other entry changes, and no frame of an old entry keeps an owner in
whose windows nothing names it any more (R209, R266, R317, R330, R364). -/
def Obligations.MapsyncPublishesTheTables : Prop :=
  ∀ (s : State) (g : Group) (d a b : SReg), s.Issues g → (ctxOf s g).auth = 0 → (s.wg g.wg).die < s.dies.length →
    let die := (s.wg g.wg).die
    let e := dieOf s g
    let lo := ((teamOf s g).sreg a.toNat).toNat
    let n := ((teamOf s g).sreg b.toNat).toNat
    let replies (code : Nat) : Prop := exec (.mapsync d a b) s = .next (answered s s g d (status code 0) (status code 0))
    let inside (m : Mapping) : Bool := decide (lo ≤ m.page) && decide (m.page < lo + n)
    let same (m k : Mapping) : Bool := m.page == k.page && m.frame == k.frame && m.host == k.host
    let new := (s.tableMappings die lo (lo + n)).map fun k => (((e.published.filter inside).find? fun m => same m k).getD k)
    let gone := e.published.filter fun m => inside m && !(s.tableMappings die lo (lo + n)).any (same m)
    (e.dstate ≠ 0 → replies 3) ∧
    (e.dstate = 0 → n = 0 → replies 0) ∧
    (e.dstate = 0 → n ≠ 0 → 2 ^ 36 < lo + n → replies 6) ∧
    let after := s.modDie die fun y => { y with published := e.published.filter (fun m => !inside m) ++ new }
    let released (m : Mapping) : Prop := m ∈ gone ∨ unheld after die m
    (e.dstate = 0 → n ≠ 0 → lo + n ≤ 2 ^ 36 →
      (s.insideCode die (lo * 65536) ((lo + n) * 65536) = true → exec (.mapsync d a b) s = .next (waits s g (.service false))) ∧
      (s.insideCode die (lo * 65536) ((lo + n) * 65536) = false →
        (s.mappingsOk die new = false → replies 6) ∧
        (s.mappingsOk die new = true → (∃ m ∈ e.published, inside m = true ∧ s.sealedAt die m = true ∧ released m) → replies 4) ∧
        (s.mappingsOk die new = true → (∀ m ∈ e.published, inside m = true → s.sealedAt die m = true → ¬ released m) →
          ∃ t, exec (.mapsync d a b) s = .next (answered s t g d 0 0) ∧
            (t.die die).published = e.published.filter (fun m => !inside m) ++ new ∧
            (∀ k, k ≠ die → (t.die k).published = (s.die k).published) ∧
            ∀ m ∈ e.published, inside m = true → ¬ unheld t die m)))

/-! ## Obligations: engines, caches, banks, launches, placement and debugging -/

/-- ETAIL starts or extends a chain once the group's writes are performed at die scope, and a tail that names the record in progress only
keeps the workgroup until that record completes; EWAIT delivers the sequence count, waiting while it is below the threshold and the engine has not
stopped; a wait ends by its condition or its limit; and one record of a chain, once performed, raises the count and then writes its sequence word, or
leaves the engine with the error or on the page it met (R194 to R196, R262). That the group goes on with the result of a waiting EWAIT outstanding
is log 29, the engine on a page that leaves no record log 26, and the two steps of a record log 38 (all DEDUCED); an engine that meets poison stops
with no ERR code (DESIGN CHOICE, log 33). -/
def Obligations.EnginesChainAndWait : Prop :=
  (∀ (s : State) (g : Group) (e : Engine), s.Issues g →
    let w := s.wg g.wg
    let y := s.engFor w e
    (∀ a, let x := (teamOf s g).sreg a.toNat
      (x.toNat % 64 ≠ 0 → ∃ k, exec (.etail a e) s = .next (s.raiseGroup g.wg g.team g.lanes k) ∧ k.code = 0x06) ∧
      (x.toNat % 64 = 0 → ¬ allReleased s g 3 → exec (.etail a e) s = .next (waits s g .release)) ∧
      (x.toNat % 64 = 0 → allReleased s g 3 → ∃ u, afterRelease s u True (dieAt s g) (clusterAt s g) ∧
        exec (.etail a e) s = .next (eachThread
          (if y.state = 3 ∨ x ∈ y.completed then u
           else if u.recordNow w.ctx y = some x.toNat then u.modEngFor w e fun z => { z with tails := z.tails ++ [(w.uid, x)] }
           else u.modEngFor w e fun z => { z with tail := x, tails := z.tails ++ [(w.uid, x)],
                                                  state := if z.state = 0 then 1 else z.state,
                                                  wg := if z.state = 0 then w.uid else z.wg }) g fun _ th => th.goOn))) ∧
    ∀ d a, let n := ((teamOf s g).sreg a.toNat).toNat
      (n ≤ y.seq.toNat → ∃ u, acquired s u (dieAt s g) (clusterAt s g) ∧ exec (.ewait d a e) s = .next (pendsUniform u g [(d.toNat, y.seq)])) ∧
      (y.seq.toNat < n → y.state = 3 ∨ (teamOf s g).waitlim = 0 →
        exec (.ewait d a e) s = .next (pendsUniform s g [(d.toNat, y.seq)])) ∧
      (y.seq.toNat < n → y.state ≠ 3 → (teamOf s g).waitlim ≠ 0 → ∃ t x, exec (.ewait d a e) s = .next t ∧
        t.waiters = s.waiters ++ [x] ∧ engineWait s g d e n x ∧ t.mem = s.mem ∧
        (teamOf t g).uouts = (teamOf s g).uouts ++ [⟨g.id, false, []⟩] ∧
        ∀ l, l < (teamOf s g).threads.length → inMask g.lanes l = true →
          ((teamOf t g).thread l).status = .running ∧ ((teamOf t g).thread l).outs = ((teamOf s g).thread l).outs ++ [⟨g.id, false, [], none, 0⟩])) ∧
  (∀ (s : State) (id : Nat) (x : Waiter), s.powered = true → s.waitersOf id false = [x] →
    let y := s.engFor (s.wg x.wg) x.engine
    let ends (i : Instr) : Prop := ∃ t, exec i s = .next t ∧ t.waiters = s.waiters.filter (fun z => z != x) ∧ kept s t ∧
      (∀ o ∈ ((t.wg x.wg).team x.team).uouts, o.id = id → o.ready = true ∧ o.regs = [(x.dest, y.seq)]) ∧
      (s.expires x = true → i = .ewaitWaitExpiry id → x.start + x.limit < 2 ^ 64 →
        x.start + x.limit ≤ (t.ctx (s.wg x.wg).ctx).cycles.toNat)
    (x.threshold ≤ y.seq.toNat ∨ y.state = 3 → ends (.ewaitWake id)) ∧
    (y.seq.toNat < x.threshold → y.state ≠ 3 → exec (.ewaitWake id) s = .next s) ∧
    ((s.ctx (s.wg x.wg).ctx).uid = (s.wg x.wg).ctx → s.expires x = true → ends (.ewaitWaitExpiry id))) ∧
  (∀ (s : State) (c die cl : Nat) (e : Engine), s.powered = true →
    let k := engineCluster e cl
    let y := (s.ctx c).eng e die k
    let i : Instr := .engineRecord c die cl e
    let sequenced (u : State) (a next : Nat) : Except EngHalt State := u.engineSeq (u.engAt c ((u.ctx c).eng e die k)) e a next
    let works : Prop := (y.state = 1 ∨ y.state = 2) ∧ (y.paused = false ∨ y.finishing = true)
    (¬ works → exec i s = .refused .noOccasion) ∧
    (works → ∀ a next t, y.due = some (a, next) → sequenced s a next = .ok t → exec i s = .next t.wakePercale) ∧
    ∀ a, works → y.due = none → s.nextRecord (s.engAt c y) y = .ok a → (a ≠ 0 ∨ y.last = none) →
      let s0 := s.engineEnter (s.engAt c y) e a
      let work := s0.engineWork (s0.engAt c ((s0.ctx c).eng e die k)) e a
      (∀ s1 next, work = .ok (s1, next, true) →
        let y1 := (s1.ctx c).eng e die k
        let s2 := s1.engineDone (s1.engAt c y1) e a next
        ∃ t, exec i s = .next t ∧ ((t.ctx c).eng e die k).seq = y1.seq + 1 ∧
          ((∃ s3, sequenced s2 a next = .ok s3) →
            ((t.ctx c).eng e die k).completed = y1.completed ++ [BitVec.ofNat 64 a] ∧
            (∀ q ∈ ((t.ctx c).eng e die k).tails, q ∈ y1.tails ∧ q.2 ≠ BitVec.ofNat 64 a) ∧
            (BitVec.ofNat 64 a = y1.tail → ((t.ctx c).eng e die k).state = 0) ∧
            (BitVec.ofNat 64 a ≠ y1.tail → next ≠ 0 → ((t.ctx c).eng e die k).state = 1) ∧
            (BitVec.ofNat 64 a ≠ y1.tail → next = 0 → ((t.ctx c).eng e die k).state = 3 ∧ ((t.ctx c).eng e die k).err = 4))) ∧
      (∀ err va ia wr, work = .error (.stop err va ia wr) → ∃ t, exec i s = .next t ∧ t.mem = s.mem ∧
        ((t.ctx c).eng e die k).state = 3 ∧ ((t.ctx c).eng e die k).err = err ∧ ((t.ctx c).eng e die k).seq = y.seq) ∧
      (∀ va, work = .error (.page va) → y.state = 1 → ∃ t, exec i s = .next t ∧ t.mem = s.mem ∧
        ((t.ctx c).eng e die k).state = 2 ∧ ((t.ctx c).eng e die k).seq = y.seq) ∧
      (∀ home va ia cell, work = .error (.poison home va ia cell) → ∃ t, exec i s = .next t ∧
        ((t.ctx c).eng e die k).state = 3 ∧ ((t.ctx c).eng e die k).err = 0 ∧ ((t.ctx c).eng e die k).seq = y.seq))

/-- CMO cleans and drops the issuing cluster's copies of the bytes its span covers. A clean waits for the group's earlier accesses and
performs at die scope all that stands dirty in the cluster; a drop writes a dirty word back first, and reaches the read-only path with the host data
its die's L2 holds for it; a byte whose word the cluster keeps reads there as before, and one whose word is dropped reads as memory holds it; a drop
at L2 discards decoded sectors. TINV, after a release at module scope, drops every translation and read-only copy of the code of its span on the
partition's dies, and no other, and waits while a thread is inside that code (R197, R198, R257, R263, R317). -/
def Obligations.CacheMaintenanceActsOnItsSpan : Prop :=
  ∀ (s : State) (g : Group), s.Issues g →
    let w := s.wg g.wg
    let cl := clusterOf w.core
    (∀ i a b level clean drop, cmoForm i = some (a, b, level, clean, drop) →
      let va := ((teamOf s g).sreg a.toNat).toNat
      let n := ((teamOf s g).sreg b.toNat).toNat
      let spans := s.iaSpans w va n
      let keys := spans.flatMap s.keySpans
      (n = 0 → exec i s = .next (eachThread s g fun _ th => th.goOn)) ∧
      (n ≠ 0 → clean = true → level ≠ .l2 → s.cleanReady g (teamOf s g) va n = false → exec i s = .next (waits s g .release)) ∧
      (n ≠ 0 → clean = false ∨ level = .l2 ∨ s.cleanReady g (teamOf s g) va n = true → ∃ t, exec i s = .next t ∧
        (∀ l, l < (teamOf s g).threads.length → inMask g.lanes l = true → (teamOf t g).thread l = ((teamOf s g).thread l).goOn) ∧
        (level ≠ .l2 → ∀ c ∈ t.cwords, c.die = w.die → c.cluster = cl → meetsAny keys (4 * c.word) 4 = true → drop = false ∧ c.dirty = 0) ∧
        (level ≠ .l2 → drop = true → ∀ r ∈ t.roLines, r.die = w.die → r.cluster = cl ∨ r.cluster = 16 →
          meetsAny keys (128 * r.line) 128 = false) ∧
        kept s t ∧ (level ≠ .l2 → clean = true → published s t w.die cl) ∧
        (level ≠ .l2 → ∀ c ∈ s.cwords, c.die = w.die → c.cluster = cl → meetsAny keys (4 * c.word) 4 = true →
          (∀ y ∈ s.cwords, y.word = c.word → y = c) →
          ∀ i, i < 4 → c.dirty.getLsbD i = true → spGet t.mem (4 * c.word + i) = BitVec.ofNat 8 (c.value.toNat / 2 ^ (8 * i))) ∧
        (∀ k, (∃ c ∈ s.cwords, c.die = w.die ∧ c.cluster = cl ∧ c.word = k / 4) →
          drop = false ∨ level = .l2 ∨ meetsAny keys (4 * (k / 4)) 4 = false → t.cachedByte w.die cl k = s.cachedByte w.die cl k) ∧
        (level ≠ .l2 → drop = true → ∀ k, meetsAny keys (4 * (k / 4)) 4 = true → t.cachedByte w.die cl k = spGet t.mem k) ∧
        (level = .l2 → t.cwords = s.cwords ∧ t.mem = s.mem ∧ t.roLines = s.roLines) ∧
        (level ≠ .cluster → drop = true → ∀ x ∈ spans, ∀ f ∈ (t.die x.1).sectors,
          x.2.1 + x.2.2 ≤ 32 * f.sector ∨ 32 * f.sector + 32 ≤ x.2.1))) ∧
    ∀ d a b, (ctxOf s g).auth = 1 →
      let va := ((teamOf s g).sreg a.toNat).toNat
      let n := ((teamOf s g).sreg b.toNat).toNat
      (n = 0 → exec (.tinv d a b) s = .next (answered s s g d 0 0)) ∧
      (n ≠ 0 → ¬ allReleased s g 4 → exec (.tinv d a b) s = .next (waits s g .release)) ∧
      (n ≠ 0 → allReleased s g 4 → ∃ u t, afterRelease s u True (dieAt s g) (clusterAt s g) ∧
        t = { u with trans := t.trans, roLines := t.roLines } ∧
        let on (e : Nat) : Prop := e < 24 ∧ (s.die e).part = some (ctxOf s g).part
        let span (x : IaSpan) : Prop := x ∈ s.iaSpans w va n ∧ x.1 = w.die
        (∀ tr, tr ∈ t.trans ↔ tr ∈ s.trans ∧
          ¬ (on tr.die ∧ ∃ x, span x ∧ tr.ia < x.2.1 + x.2.2 ∧ x.2.1 < tr.ia + 4 * tr.words.length)) ∧
        (∀ r, r ∈ t.roLines ↔ r ∈ s.roLines ∧
          ¬ (on r.iaDie ∧ ∃ x, span x ∧ x.2.1 / 65536 ≤ r.iaPage ∧ r.iaPage ≤ (x.2.1 + x.2.2 - 1) / 65536)) ∧
        ((∃ e x, on e ∧ span x ∧ s.insideCode e x.2.1 (x.2.1 + x.2.2) = true) → exec (.tinv d a b) s = .next (waits t g (.service false))) ∧
        ((∀ e x, on e → span x → s.insideCode e x.2.1 (x.2.1 + x.2.2) = false) → exec (.tinv d a b) s = .next (answered s t g d 0 0)))

/-- BANKMODE, the queue instructions and the launch instructions answer their statuses, and with OK a bank enters its mode zeroed, a
queue takes or gives up its roles, an armed or launched record is accepted, and a cancel reaches a record that is held (R199 to R201, R286,
R291, R293, R295, R364). Which operands QOPEN and QCLOSE find out of order is log 55 (DEDUCED, DESIGN CHOICE), BANKMODE with no mode, which no
word decodes to, log 60, and what stands in the device queue and which record a CANCEL names log 74 (both DEDUCED). -/
def Obligations.BanksQueuesAndLaunchControl : Prop :=
  ∀ (s : State) (g : Group), s.Issues g → (s.wg g.wg).queues.length = 16 → (s.wg g.wg).die < s.dies.length →
    (∀ r ∈ s.recs, r.uid ≠ s.nextId) →
    let w := s.wg g.wg
    let val (a : SReg) : BitVec 64 := (teamOf s g).sreg a.toNat
    let replies (i : Instr) (d : SReg) (code : Nat) : Prop := exec i s = .next (replied s g d (status code 0))
    (∀ d a o, let x := val a
      let named (b : Nat) : Prop := b < 64 ∧ x.getLsbD b = true
      (o = .unnamed ∨ (∃ b, named b ∧ (32 ≤ b ∨ 4 * w.units.length ≤ b)) → replies (.bankmode d a o) d 6) ∧
      (o ≠ .unnamed → (∀ b, named b → b < 32 ∧ b < 4 * w.units.length) →
        ((∃ b, named b ∧ s.bankBusy w b = true) → replies (.bankmode d a o) d 4) ∧
        ((∀ b, named b → s.bankBusy w b = false) → ∃ t, exec (.bankmode d a o) s = .next (replied t g d 0) ∧
          (∀ b, b < 64 → spGet (t.wg g.wg).bankModes b = if x.getLsbD b = true then BitVec.ofNat 8 (modeNumber o) else spGet w.bankModes b) ∧
          ∀ k, spGet (t.wg g.wg).scratch k =
            if bankOf k w.span < 64 ∧ x.getLsbD (bankOf k w.span) = true ∧
              spGet w.bankModes (bankOf k w.span) ≠ BitVec.ofNat 8 (modeNumber o) then 0 else spGet w.scratch k))) ∧
    (∀ d a q, let x := val a
      let old := w.queue q.toNat
      (¬ mayOpen w q x → replies (.qopen d a q) d 6) ∧
      (mayOpen w q x → ∃ t, exec (.qopen d a q) s = .next (replied t g d 0) ∧ t = { s with wgs := t.wgs } ∧
        let new := (t.wg g.wg).queue q.toNat
        new.opened = true ∧ new.bank = field x 0 5 ∧ new.width = 4 * 2 ^ field x 8 2 ∧
        new.slots = (if old.opened = true then old.slots else []) ∧
        (x.getLsbD 10 = true → g.team ∈ new.producers) ∧ (x.getLsbD 11 = true → g.team ∈ new.consumers) ∧
        (old.opened = true → ∀ k, k ≠ g.team → (k ∈ new.producers ↔ k ∈ old.producers) ∧ (k ∈ new.consumers ↔ k ∈ old.consumers))) ∧
      (¬ roleWord x → replies (.qclose d a q) d 6) ∧
      (roleWord x → old.opened = false → replies (.qclose d a q) d 0xC) ∧
      (roleWord x → old.opened = true → ∃ t, exec (.qclose d a q) s = .next (replied t g d 0) ∧ t = { s with wgs := t.wgs } ∧
        let new := (t.wg g.wg).queue q.toNat
        new.producers = (if x.getLsbD 10 = true then old.producers.filter (fun k => k != g.team) else old.producers) ∧
        new.consumers = (if x.getLsbD 11 = true then old.consumers.filter (fun k => k != g.team) else old.consumers) ∧
        (new.opened = false ↔ new.producers = [] ∧ new.consumers = []) ∧
        new.slots = if new.opened = true then old.slots else [])) ∧
    (∀ d q, let old := w.queue q.toNat
      replies (.qtry d q) d (if old.opened = false then 0xC else if old.slots ≠ [] then 0
        else if old.producers.length + old.engineProducers = 0 then 0xB else 0xA)) ∧
    (∀ d a n, let addr := (val a).toNat
      ((∃ x ∈ (dieOf s g).tags, x.tag = n.toNat) → replies (.arm d a n) d 4) ∧
      ((∀ x ∈ (dieOf s g).tags, x.tag ≠ n.toNat) →
        (s.armOk (ctxOf s g) w.die addr = false → replies (.arm d a n) d 6) ∧
        (s.armOk (ctxOf s g) w.die addr = true → ∃ t, exec (.arm d a n) s = .next (replied t g d 0) ∧
          (t.die w.die).tags = (dieOf s g).tags ++ [⟨n.toNat, s.nextId, w.ctx⟩] ∧
          (t.record s.nextId).tag = some n.toNat ∧ (t.record s.nextId).state = 1 ∧ (t.record s.nextId).addr = addr))) ∧
    (∀ d a, let addr := (val a).toNat
      let mine := (dieOf s g).deviceQueue.filter fun u => (s.record u).ctx == w.ctx
      (¬ allReleased s g 3 → exec (.launch d a) s = .next (waits s g .release)) ∧
      (allReleased s g 3 → (dieOf s g).dstate ≠ 0 → replies (.launch d a) d 3) ∧
      (allReleased s g 3 → (dieOf s g).dstate = 0 →
        (s.doorTest (ctxOf s g) w.die addr = none → replies (.launch d a) d 6) ∧
        ∀ kind, s.doorTest (ctxOf s g) w.die addr = some kind →
          (64 ≤ mine.length → replies (.launch d a) d 7) ∧
          (mine.length < 64 → ∃ t, exec (.launch d a) s = .next (replied t g d 0) ∧
            (t.die w.die).deviceQueue = (dieOf s g).deviceQueue ++ [s.nextId] ∧ (t.record s.nextId).state = 1 ∧
            (t.record s.nextId).kind = kind ∧ (t.record s.nextId).addr = addr))) ∧
    ∀ d a l, let found := s.cancelTarget w.ctx w.die (val a).toNat (match levelKind l with | .launch => 1 | .graph => 2 | .phase => 3 | .job => 4)
      (∀ st, found = .error st → exec (.cancel d a l) s = .next (replied s g d st)) ∧
      ∀ u, found = .ok u → ∃ t, exec (.cancel d a l) s = .next (replied t g d 0) ∧
        ((s.record u).state = 2 → (t.record u).cancelled = true ∧ (t.record u).state = 2) ∧
        ((s.record u).state ≠ 2 → (t.record u).state = 3 ∧ (t.record u).code = 2)

/-- FRPT and FOPR deliver a doubleword of the record of an index, which then counts as seen, or zero with NOTFOUND; CNTRD delivers a
counter of the partition, CNTCFG lets a programmable counter count an event from zero (R24, R204, R210, R332 to R335). -/
def Obligations.FaultRecordsAndCountersAreRead : Prop :=
  ∀ (s : State) (g : Group), s.Issues g → (s.wg g.wg).ctx ≠ 0 → (ctxOf s g).uid = (s.wg g.wg).ctx → (s.wg g.wg).die < s.dies.length →
    (ctxOf s g).part < s.parts.length →
    let c := ctxOf s g
    let val (a : SReg) : Nat := ((teamOf s g).sreg a.toNat).toNat
    let said (u : State) (code : Nat) : Prop := (u.ctx c.uid).lstat = (c.lstat &&& 0xFFFFFFFF00000000) ||| (status code 0 &&& 0xFFFF)
    (∀ d a n, c.auth = 1 →
      (∀ r ∈ c.recs, r.index = val a → (∀ q ∈ c.recs, q.index = val a → q = r) → ∃ u,
        exec (.frpt d a n) s = .next (pendsUniform u g [(d.toNat, wordOf r.bits n.toNat)]) ∧ said u 0 ∧
        { r with seen := true } ∈ (u.ctx c.uid).recs ∧ (u.ctx c.uid).recs.map OwnerRec.bits = c.recs.map OwnerRec.bits) ∧
      ((∀ r ∈ c.recs, r.index ≠ val a) → ∃ u, exec (.frpt d a n) s = .next (pendsUniform u g [(d.toNat, 0)]) ∧ said u 0xD ∧
        (u.ctx c.uid).recs = c.recs)) ∧
    (∀ d a n, c.auth = 0 →
      (∀ r ∈ (dieOf s g).opRecs, r.index = val a → (∀ q ∈ (dieOf s g).opRecs, q.index = val a → q = r) → ∃ u,
        exec (.fopr d a n) s = .next (pendsUniform u g [(d.toNat, wordOf r.bits n.toNat)]) ∧ said u 0 ∧
        { r with seen := true } ∈ (u.die (s.wg g.wg).die).opRecs) ∧
      ((∀ r ∈ (dieOf s g).opRecs, r.index ≠ val a) → ∃ u, exec (.fopr d a n) s = .next (pendsUniform u g [(d.toNat, 0)]) ∧ said u 0xD ∧
        (u.die (s.wg g.wg).die).opRecs = (dieOf s g).opRecs)) ∧
    (∀ d n, c.auth = 2 →
      (n.toNat = 0 → exec (.cntrd d n) s = .next (answered s s g d (partOf s g).refcnt 0)) ∧
      ((1 ≤ n.toNat ∧ n.toNat ≤ 5) ∨ (0x010 ≤ n.toNat ∧ n.toNat ≤ 0x01F) →
        exec (.cntrd d n) s = .next (answered s s g d (spGet (partOf s g).counters n.toNat) 0)) ∧
      ((5 < n.toNat ∧ n.toNat < 0x010) ∨ 0x01F < n.toNat →
        ∃ k, exec (.cntrd d n) s = .next (s.raiseGroup g.wg g.team g.lanes k) ∧ k.code = 0x01)) ∧
    ∀ d a b, c.auth = 2 →
      (val a < 0x010 ∨ 0x01F < val a ∨ 11 < val b → exec (.cntcfg d a b) s = .next (answered s s g d (status 6 0) (status 6 0))) ∧
      (0x010 ≤ val a → val a ≤ 0x01F → val b ≤ 11 → exec (.cntcfg d a b) s = .next (answered s
        (s.modPart c.part fun p => { p with counters := spSet p.counters (val a) 0, events := spSet p.events (val a) (BitVec.ofNat 8 (val b)) })
        g d 0 0))

/-- The operator's instructions answer their statuses; with OK, PLACE places the context its descriptor describes, UNPLACE ends it,
PREEMPT reserves the core and freezes a victim that lies on it, MIGRATE seals or binds, RESUME brings the workgroups back with what they
held, CRESET begins the context afresh with its windows. MIGRATE freezes its context and waits until what is outstanding in it has returned, as
RESUME does; CRESET and UNPLACE cancel every record and wait until the cancels have completed, and a context that resets itself goes on to its reset
without the threads that asked for it (R205 to R208, R294, R298, R306, R323, R324, R339 to R344, R364). What CRESET keeps and when its cancels are
done is log 52, the upper half of a handle log 53 (DESIGN CHOICE for PLACE), and the order of the checks, PREEMPT's and MIGRATE's STATE and the
MIGRATE that is under way log 54 (DEDUCED otherwise). -/
def Obligations.OperatorInstructionsManageContexts : Prop :=
  ∀ (s : State) (g : Group), s.Issues g → (ctxOf s g).uid = (s.wg g.wg).ctx → (s.wg g.wg).die < s.dies.length →
    let c := ctxOf s g
    let die := (s.wg g.wg).die
    let val (a : SReg) : BitVec 64 := (teamOf s g).sreg a.toNat
    let replies (i : Instr) (d : SReg) (code : Nat) : Prop := exec i s = .next (answered s s g d (status code 0) (status code 0))
    (∀ d a b, c.auth = 0 → let h := val a
      let read := if (val b).toNat % 256 = 0 ∧ h.toNat < 2 ^ 32 then s.readPlain c die (val b).toNat 256 else none
      (read = none → replies (.place d a b) d 6) ∧
      ∀ x, read = some x →
        (bitsOf x 0 2 = 3 ∨ 24 ≤ bitsOf x 8 5 ∨ 1024 < bitsOf x 32 16 ∨ bitsOf x 64 64 % 8 ≠ 0 ∨ bitsOf x 128 5 < 4 ∨ 16 < bitsOf x 128 5 →
          replies (.place d a b) d 6) ∧
        (s.placeStatus h.toNat x ≠ 0 → exec (.place d a b) s = .next (answered s s g d (s.placeStatus h.toNat x) (s.placeStatus h.toNat x))) ∧
        (s.placeStatus h.toNat x = 0 → ∃ t n, exec (.place d a b) s = .next (answered s t g d 0 0) ∧
          t = { s with ctxs := s.ctxs ++ [n], nextId := s.nextId + 1 } ∧ n.uid = s.nextId ∧ n.handle.toNat = h.toNat ∧
          n.auth = bitsOf x 0 2 ∧ n.cls = bitsOf x 2 2 ∧ (n.urgent = true ↔ bitsOf x 4 1 = 1) ∧ n.part = bitsOf x 8 5 ∧ n.pinq = bitsOf x 32 16 ∧
          n.ring = bitsOf x 64 64 ∧ n.ringlog = bitsOf x 128 5 ∧ n.savea = bitsOf x 192 52 ∧ n.savep = bitsOf x 256 16 ∧
          n.state = .idle ∧ n.lstat = 0 ∧ n.recs = [] ∧ n.cycles = 0 ∧
          (∀ m, m < 8 → n.reg (0x060 + 2 * m) = BitVec.ofNat 64 (bitsOf x (384 + 128 * m) 64) ∧
            n.reg (0x061 + 2 * m) = BitVec.ofNat 64 (bitsOf x (448 + 128 * m) 64)) ∧ ∀ m, m < 16 → n.rangeEnabled m = false)) ∧
    (∀ d a, c.auth = 0 →
      (noContext s g (val a) → replies (.unplace d a) d 5) ∧
      ∀ k, namedContext s g (val a) k → (k.uid = c.uid → replies (.unplace d a) d 8) ∧
        (k.uid ≠ c.uid → recordsCancelled s (s.cancelCtx k.uid) k.uid ∧
          (¬ cancelsDone (s.cancelCtx k.uid) k.uid → exec (.unplace d a) s = .next (waits (s.cancelCtx k.uid) g (.service false))) ∧
          (cancelsDone (s.cancelCtx k.uid) k.uid →
            ∃ t, exec (.unplace d a) s = .next (answered s t g d 0 0) ∧ (∀ q ∈ t.ctxs, q.uid ≠ k.uid) ∧ noWorkgroup t k.uid))) ∧
    (∀ d a b n, c.auth = 0 → let found := s.preemptCheck c.part die n.toNat (val a) (val b)
      (noContext s g (val a) ∨ noContext s g (val b) → replies (.preempt d a b n) d 5) ∧
      (∀ u st, found = (u, .error st) → exec (.preempt d a b n) s = .next (answered s u g d st st)) ∧
      ∀ s1 v x u, found = (s1, .ok (v, x, u)) → ∃ t, exec (.preempt d a b n) s = .next (answered s t g d 0 0) ∧
        (t.die die).preempts = (s1.die die).preempts ++ [⟨die, n.toNat, v, x, u, false⟩] ∧ (t.record u).urgentCore = some n.toNat ∧
        (s1.soleCore v = some (die, n.toNat) → (t.ctx v).state = .frozen ∧ (t.ctx v).bound = some (die, n.toNat)) ∧ t.wgs = s1.wgs) ∧
    (∀ i d a b, (i = .migrate d a b ∧ s.movedBy g = none) ∨ i = .resume d a b → c.auth = 0 →
      (noContext s g (val a) → replies i d 5) ∧
      ∀ st, s.moveCheck c.uid c.part (val a) (val b) = .error st →
        exec i s = .next (answered s (if st = status 1 1 then counted s g else s) g d st st)) ∧
    -- a MIGRATE that has passed its checks goes on
    (∀ d a b k m, c.auth = 0 → s.movedBy g = some (k, m) → let u := s.finishAtomics k
      (u.unfinished k = true → exec (.migrate d a b) s = .next (waits u g (.service false))) ∧
      (u.unfinished k = false → ∃ t, exec (.migrate d a b) s = .next (answered s t g d 0 0) ∧ (t.ctx k).state = .saved ∧
        (t.ctx k).bound = some (m.die, m.core) ∧ noWorkgroup t k)) ∧
    (∀ d a b k e core, c.auth = 0 → s.moveCheck c.uid c.part (val a) (val b) = .ok (k, e, core) → s.ctx k.uid = k →
      let asked := k.moving.any s.moverWaits
      (s.movedBy g = none →
        (s.migratable k = false ∨ asked = true → replies (.migrate d a b) d 8) ∧
        (s.migratable k = true → asked = false → k.state = .saved → s.hasRoom e core k.imageWgs k.imageLog = true →
          ∃ t, exec (.migrate d a b) s = .next (answered s t g d 0 0) ∧ (t.ctx k.uid).state = .saved ∧ (t.ctx k.uid).bound = some (e, core) ∧
            (t.ctx k.uid).image = k.image) ∧
        (s.migratable k = true → asked = false → k.state ≠ .saved → s.saveMapped k = true →
          s.hasRoom e core (s.wgs.filter fun w => w.ctx == k.uid) (s.slog.filter fun x => x.ctx == k.uid).length = true →
          let held := (((s.freezeCtx k.uid).freeVictim k.uid).modCtx k.uid fun y =>
            { y with moving := some ⟨g.wg, g.team, g.pc, e, core⟩ }).finishAtomics k.uid
          (held.unfinished k.uid = true → exec (.migrate d a b) s = .next (waits held g (.service false)) ∧ (held.ctx k.uid).state = .frozen) ∧
          (settledIn s k.uid → ∃ t, exec (.migrate d a b) s = .next (answered s t g d 0 0) ∧ (t.ctx k.uid).state = .saved ∧
            (t.ctx k.uid).bound = some (e, core) ∧ noWorkgroup t k.uid ∧
            ∃ i, (t.ctx k.uid).image = some i ∧ i.intact = true ∧ i.wgs.length = (s.wgs.filter fun w => w.ctx == k.uid).length))) ∧
      (k.state = .idle ∨ k.state = .running → replies (.resume d a b) d 8) ∧
      (∀ i, k.state = .saved → k.image = some i →
        (s.imageSound i = false → ∃ t, exec (.resume d a b) s = .next (answered s t g d (status 8 0) (status 8 0)) ∧ (t.ctx k.uid).image = none ∧
          (t.ctx k.uid).state = .idle) ∧
        (s.imageSound i = true → s.hasRoom e core i.wgs i.slog.length = false → replies (.resume d a b) d 7) ∧
        (s.imageSound i = true → s.hasRoom e core i.wgs i.slog.length = true → ∃ t, exec (.resume d a b) s = .next (answered s t g d 0 0) ∧
          (t.ctx k.uid).image = none ∧ (i.wgs ≠ [] → (t.ctx k.uid).state = .running) ∧ runOn t i.wgs e core)) ∧
      (k.state = .frozen → asked = true ∨ s.soleCore k.uid = none → replies (.resume d a b) d 8) ∧
      (k.state = .frozen → asked = false → s.soleCore k.uid ≠ none →
        State.hasRoom { s with wgs := s.wgs.filter (fun w => w.ctx != k.uid), slog := s.slog.filter fun x => x.ctx != k.uid } e core
          (s.wgs.filter fun w => w.ctx == k.uid) (s.slog.filter fun x => x.ctx == k.uid).length = true →
        ((s.finishAtomics k.uid).unfinished k.uid = true → exec (.resume d a b) s = .next (waits (s.finishAtomics k.uid) g (.service false))) ∧
        (settledIn s k.uid → ∃ t, exec (.resume d a b) s = .next (answered s t g d 0 0) ∧ (t.ctx k.uid).state = .running ∧
          runOn t (s.wgs.filter fun w => w.ctx == k.uid) e core))) ∧
    (∀ d a k, (c.auth = 0 ∧ namedContext s g (val a) k) ∨ (c.auth = 1 ∧ s.ownHandle c (val a) = some k ∧ s.ctx k.uid = k) →
      let u := s.cancelCtx k.uid
      recordsCancelled s u k.uid ∧
      (k.uid = c.uid → ∃ t, exec (.creset d a) s = .next t ∧ (t.ctx k.uid).resetting = true ∧ recordsCancelled s t k.uid ∧
        ∀ l ∈ g.live (teamOf s g), ((teamOf t g).thread l).exited = true) ∧
      (k.uid ≠ c.uid → ¬ cancelsDone u k.uid → exec (.creset d a) s = .next (waits u g (.service false))) ∧
      (k.uid ≠ c.uid → cancelsDone u k.uid → ∃ t, exec (.creset d a) s = .next (answered s t g d 0 0) ∧ noWorkgroup t k.uid ∧
        (t.ctx k.uid).state = .idle ∧ (t.ctx k.uid).lstat = 0 ∧ (t.ctx k.uid).recs = [] ∧ (t.ctx k.uid).handle = k.handle ∧
        (∀ n, n < 16 → (t.ctx k.uid).reg (0x060 + n) = k.reg (0x060 + n)) ∧ ∀ n, n < 16 → (t.ctx k.uid).rangeEnabled n = false)) ∧
    ∀ d a, c.auth = 0 → noContext s g (val a) → replies (.creset d a) d 5

/-- DBG halts a context of the owner's world and lets it go on, reads its selector, and steps one sub-group or all of a team while it is
halted; LDK translates a function ahead of its use and pins it, or refuses an address where no function begins (R211, R212, R221,
R318, R319). A step is a request kept in the target's context, on which the thread that asks waits and is answered (DEDUCED, log 43); where the
text holds a poisoned word the threads leave (DESIGN CHOICE, log 33). -/
def Obligations.DebuggingAndAdvanceTranslation : Prop :=
  ∀ (s : State) (g : Group), s.Issues g → (ctxOf s g).uid = (s.wg g.wg).ctx → (ctxOf s g).auth = 1 →
    let w := s.wg g.wg
    let c := ctxOf s g
    let val (a : SReg) : BitVec 64 := (teamOf s g).sreg a.toNat
    let replies (i : Instr) (d : SReg) (code reason : Nat) : Prop :=
      exec i s = .next (answered s s g d (status code reason) (status code reason))
    -- a request as it stands in `a`: it waits while a sub-group is left, and answers OK, or BUSY where one parked
    let looks (a : State) (k : Ctx) (d : SReg) (r : StepReq) (i : Instr) : Prop :=
      let v := a.stepView r
      let st := if v.parked = true then status 4 1 else 0
      (v.groups ≠ [] → exec i s = .next (waits (a.modCtx k.uid fun y => { y with steps := y.steps.map fun z => if z = r then v else z }) g .percale)) ∧
      (v.groups = [] → exec i s = .next (answered s (a.modCtx k.uid fun y => { y with steps := y.steps.filter fun z => z != r }) g d st st))
    (∀ i d a b, debugForm i = some (d, a, b) →
      (∀ k ∈ s.ctxs, k.part = c.part → k.world = c.world → k.handle.toNat ≠ (val a).toNat) → replies i d 5 0) ∧
    (∀ d a b k, s.ownHandle c (val a) = some k → s.ctx k.uid = k → let x := val b
      exec (.dbgHalt d a b) s = .next (answered s (s.modCtx k.uid fun y => { y with halted := true }) g d 0 0) ∧
      exec (.dbgCont d a b) s = .next (answered s ((s.modCtx k.uid fun y => { y with halted := false, steps := [] }).wakePercale) g d 0 0) ∧
      exec (.dbgRdsel d a b) s = .next (answered s s g d (k.reg 0x006) 0) ∧
      (∀ r, k.askedBy g = some r → looks s k d r (.dbgStep d a b) ∧ looks s k d r (.dbgStepall d a b)) ∧
      (k.askedBy g = none → k.halted = false → replies (.dbgStep d a b) d 8 0 ∧ replies (.dbgStepall d a b) d 8 0) ∧
      (k.askedBy g = none → k.halted = true → s.selected k x = none → replies (.dbgStep d a b) d 6 0 ∧ replies (.dbgStepall d a b) d 6 0) ∧
      ∀ u ti, k.askedBy g = none → k.halted = true → s.selected k x = some (u, ti) →
        let r (pcs : List Nat) : StepReq :=
          ⟨g.wg, g.team, g.pc, u.uid, ti, pcs.map fun n => (BitVec.ofNat 64 n, (u.team ti).subGroup (BitVec.ofNat 64 n)), none, false⟩
        let asked (pcs : List Nat) : State := s.modCtx k.uid fun y =>
          { y with regs := spSet y.regs 0x006 (x &&& 0xFF01FFFF), steps := y.steps ++ [r pcs] }
        (s.subGroupOf u ti x = none → replies (.dbgStep d a b) d 6 0) ∧
        (∀ pc, s.subGroupOf u ti x = some pc → looks (asked [pc]) ((asked [pc]).ctx k.uid) d (r [pc]) (.dbgStep d a b)) ∧
        ((u.team ti).pathPcs = [] → replies (.dbgStepall d a b) d 6 0) ∧
        ((u.team ti).pathPcs ≠ [] → looks (asked (u.team ti).pathPcs) ((asked (u.team ti).pathPcs).ctx k.uid) d (r (u.team ti).pathPcs)
          (.dbgStepall d a b))) ∧
    ∀ d a p, let pc := (val a).toNat
      let plan := s.plan c w.die (s.record w.launch) pc
      let legal : Prop := pc % 4 = 0 ∧ c.inCode pc 4 = true ∧ callable plan.listed pc = true
      let made := s.translateAt w (teamOf s g) plan pc
      (¬ legal → replies (.ldk d a p) d 6 0) ∧
      (legal → plan.missing ≠ [] → ∃ t, exec (.ldk d a p) s = .next t ∧ ∀ l, l < (teamOf s g).threads.length → inMask g.lanes l = true →
        ((teamOf t g).thread l).status = .waiting (.fetch g.id plan.missingPages)) ∧
      (legal → plan.missing = [] → plan.waits = true → exec (.ldk d a p) s = .next (waits s g .percale)) ∧
      (legal → plan.missing = [] → plan.waits = false → ∀ f, plan.foreign = some f → ∃ t,
        exec (.ldk d a p) s = .next (answered s t g d (status 6 1) (status 6 1)) ∧ t.trans = s.trans) ∧
      (legal → plan.missing = [] → plan.waits = false → plan.foreign = none → plan.poisoned ≠ none → ∃ t,
        exec (.ldk d a p) s = .next t ∧ t.trans = s.trans ∧ ∀ l ∈ g.live (teamOf s g), ((teamOf t g).thread l).exited = true) ∧
      (legal → plan.missing = [] → plan.waits = false → plan.foreign = none → plan.poisoned = none →
        (p = 0 → exec (.ldk d a p) s = .next (answered s made g d 0 0)) ∧
        (p = 1 → ∀ t, made.pinFor w (teamOf s g) plan.base 0 none = some t → exec (.ldk d a p) s = .next (answered s t g d 0 0)) ∧
        (p = 1 → made.pinFor w (teamOf s g) plan.base 0 none = none →
          exec (.ldk d a p) s = .next (answered s made g d (status 7 0) (status 7 0))))

/-! ## Obligations: further steps -/

/-- Inside a core: the results of an issue, once all are formed, return to their registers; what was held on an unpublished page is tried again; the side log replays in
order; a write is performed at its scope, the bytes of one to a peer or to the host arriving then (DEDUCED, log 37); a translation is made for those
who need it; a waiting team receives its block; the threads that wait to pop a queue take its slots by ascending team and lane; and a threshold wait
ends, sleeps on or polls (R12, R28, R126, R127, R136, R137, R144, R148, R219, R220, R316, R354). -/
def Obligations.StepsInsideACoreHappen : Prop :=
  ∀ s : State, s.powered = true →
    (∀ id, (s.hasReady id = false → exec (.resultReturn id) s = .refused .noOccasion) ∧
      (s.hasReady id = true → ∃ t, exec (.resultReturn id) s = .next t ∧ t.mem = s.mem ∧ t.hasReady id = false ∧
        ∀ u ti l o, (threadAt s u ti l).outs = [o] → o.id = id → o.ready = true → (threadAt t u ti l).outs = [] ∧
          (threadAt t u ti l).jst = ((threadAt s u ti l).jst ||| o.flags) ∧
          (∀ r x, o.regs = [(r, x)] → (threadAt t u ti l).v32 r = x) ∧ ∀ b, o.p6 = some b → (threadAt t u ti l).pred 6 = b)) ∧
    (∀ id x, x ∈ (s.acc id).lanes → s.unheld (s.acc id) x = true →
      ∃ t, exec (.heldAccessReissue id) s = .next t ∧ { x with verdict := .waiting } ∈ (t.acc id).lanes ∧ t.mem = s.mem) ∧
    (∀ die core e, s.nextReplay die core = some e → ∃ t, exec (.sideLogReplay die core) s = .next t ∧
      t.slog = s.slog.filter (fun x => x.order != e.order) ∧
      (s.verdict e.home e.ia (s.ctx e.ctx).world e.kind .write = .own → t.mem = s.mem) ∧
      ∀ k v, s.verdict e.home e.ia (s.ctx e.ctx).world e.kind .write ≠ .own → e.kind = .lattice → e.join = true →
        s.keyOf e.home e.ia = some k → joinValue e.ltype e.bytes (readLE s.mem k e.bytes) e.data = some v →
        readLE t.mem k e.bytes = v % 2 ^ (8 * e.bytes)) ∧
    (∀ n x, s.unackedAt n = some x → (s.ackable n x = false → exec (.writeAcknowledged n) s = .refused .noOccasion) ∧
      (s.ackable n x = true → ∃ t, exec (.writeAcknowledged n) s = .next t ∧ t.unacked = s.unacked.take n ++ s.unacked.drop (n + 1) ∧
        (x.kind = 0 → kept s t ∧
          ∀ c ∈ t.cwords, c.die = x.die → c.cluster = x.cluster → c.word ∈ wordsOf x.key x.bytes → c.dirty = 0) ∧
        (x.kind = 1 ∨ x.kind = 2 → readLE t.mem x.key x.bytes = x.data % 2 ^ (8 * x.bytes) ∧
          ∀ k, k < x.key ∨ x.key + x.bytes ≤ k → (∀ c ∈ s.cwords, c.word = k / 4 → c.dirty.getLsbD (k % 4) = false) →
            spGet t.mem k = spGet s.mem k))) ∧
    (∀ u ti pc, s.misses u ti pc = true →
      let w := s.wg u
      let c := s.ctx w.ctx
      let needs := (w.team ti).needing pc
      let stand := (w.team ti).standing pc
      let plan := s.plan c w.die (s.record w.launch) pc.toNat
      (c.inCode pc.toNat 4 = false → ∃ t, exec (.twillTranslation u ti pc) s = .next t ∧ t.mem = s.mem ∧
        ∀ l, l < (w.team ti).threads.length → inMask needs l = true → (threadAt s u ti l).outs ≠ [] →
          ∃ k, (threadAt t u ti l).status = .trapping k ∧ k.code = 0x07) ∧
      (c.inCode pc.toNat 4 = true → plan.missing ≠ [] → ∃ t, exec (.twillTranslation u ti pc) s = .next t ∧
        ∀ l, l < (w.team ti).threads.length → inMask stand l = true → ∃ id ps, (threadAt t u ti l).status = .waiting (.fetch id ps)) ∧
      (c.inCode pc.toNat 4 = true → plan.missing = [] → plan.poisoned = none → ∃ t, exec (.twillTranslation u ti pc) s = .next t ∧
        ∀ l, l < (w.team ti).threads.length → inMask needs l = true → (threadAt t u ti l).status = .running)) ∧
    (∀ die core, (s.nextBlock die core = none → exec (.blockGrant die core) s = .refused .noOccasion) ∧
      ∀ u ti, s.nextBlock die core = some (u, ti) → s.active u ti = true → ∃ t, exec (.blockGrant die core) s = .next t ∧ ((t.wg u).team ti).ext = true ∧
        ((t.wg u).team ti).blockTurn = 0 ∧ (∀ l r, 32 ≤ r → r < 64 → (threadAt t u ti l).v32 r = 0) ∧
        ∀ l, (threadAt t u ti l).status ≠ .waiting .block) ∧
    (∀ u (q : BitVec 4), s.active u 0 = true →
      let w := s.wg u
      let queue := w.queue q.toNat
      let served := w.served q.toNat
      (served = [] ∨ (s.ctx w.ctx).halted = true → exec (.queueWake u q) s = .refused .noOccasion) ∧
      (served ≠ [] → (s.ctx w.ctx).halted = false → ∃ t, exec (.queueWake u q) s = .next t ∧
        ∀ d z, let n := match z with | .q32 => 1 | .q64 => 2 | .q128 => 4
          (∀ x ∈ served, s.instrAt w (w.team x.1) ((w.team x.1).thread x.2).pc = some (.qpop d false z q)) →
          q.toNat < w.queues.length → queue.opened = true → queue.width = 4 * n → queue.poison = [] →
          queue.producers ≠ [] ∨ queue.engineProducers ≠ 0 →
          t.mem = s.mem ∧ ((t.wg u).queue q.toNat).slots = queue.slots.drop served.length ∧
          ∀ j x, served[j]? = some x → threadAt t u x.1 x.2 =
            if j < queue.slots.length then
              ((threadAt s u x.1 x.2).addOut ⟨s.nextId, true, dataOut d.toNat (4 * n) (listGet 0 queue.slots j), none, 0⟩).goOn
            else { threadAt s u x.1 x.2 with status := .waiting (.queue q.toNat false) })) ∧
    ∀ id x, x.id = id → x.cell = true → cellWhole s x → (∀ y ∈ s.waiters, y.id = id → y.lane = x.lane → y = x) →
      ((s.waitersOf id true).filter (fun y => !y.polling) = [x] →
        (s.passes x = true → ∃ t, exec (.ldthCellChange id) s = .next t ∧ waitOver s t x) ∧
        (s.passes x = false → ∃ t, exec (.ldthCellChange id) s = .next t ∧ t.waiters = s.waiters ∧ t.mem = s.mem)) ∧
      ((s.waitersOf id true).filter (fun y => y.polling) = [x] →
        ∃ t, exec (.ldthPoll id) s = .next t ∧ t.time = max s.time x.nextPoll ∧ t.mem = s.mem ∧
          let later : Waiter := { x with nextPoll := t.time + 4000 }
          (s.passes x = true → waitOver s t later) ∧ (s.passes x = false → later ∈ t.waiters)) ∧
      ((s.waitersOf id true).filter s.expires = [x] → ∃ t, exec (.ldthWaitExpiry id) s = .next t ∧ waitOver s t x)

/-- The command front end and the dispatcher: a workgroup ends once everything of it is performed; a launch, graph, phase or job
starts, is refused as BADARG, and completes with its code; a workgroup starts on a core with its teams at the entry; a doorbell or a tagged
message brings work in, the messages of one sender in their order (R214, R215, R262, R284, R287, R290 to R292, R295, R358). That an array is read
anew when its record is first examined for dispatch is log 41, and which launches of a context start log 73 (both DEDUCED). -/
def Obligations.LaunchesStartRunAndComplete : Prop :=
  ∀ s : State, s.powered = true →
    -- a record's children were taken up after it
    let rising : Prop := ∀ y ∈ s.recs, y.uid < s.nextId ∧ ∀ k ∈ y.children, y.uid < k
    (∀ u, (s.wgOver u = false → exec (.workgroupEnd u) s = .refused .noOccasion) ∧
      (s.wgOver u = true → let r := s.record (s.wg u).launch
        ∃ t, exec (.workgroupEnd u) s = .next t ∧ (∀ w ∈ t.wgs, w.uid ≠ u) ∧
          ((∀ c ∈ s.ctxs, c.resetting = false) → r.uid = (s.wg u).launch → r ∈ s.recs → (t.record r.uid).done = r.done + 1 ∧ (r.total ≤ r.done + 1 → (t.record r.uid).ending = true)))) ∧
    (∀ u, let r := s.record u
      r.uid = u → u ≠ 0 →
      (r.kind = .launch → r.state = 2 → r.ending = false → exec (.launchCompletion u) s = .refused .noOccasion) ∧
      (r.state = 2 → r.ending = true → (r.kind = .job → s.jobFailed r = none) → (r.kind = .graph → s.graphCycle u = false) →
        ∃ t, exec (.launchCompletion u) s = .next t ∧ (t.record u).state = 3 ∧
          (t.record u).code = if r.kind = .launch then (if r.cancelled = true then 2 else 0) else s.parentCode r)) ∧
    (∀ u, let r := s.record u
      let c := s.ctx r.ctx
      (s.reached u = false → exec (.launchStart u) s = .refused .noOccasion ∧ exec (.phaseStart u) s = .refused .noOccasion) ∧
      (s.reached u = true → r.kind = .launch →
        (s.mayRun c r.die = false ∨ c.urgent = true → exec (.launchStart u) s = .refused .noOccasion) ∧
        (s.mayRun c r.die = true → c.urgent = false → s.examined u = none → ∃ t, exec (.launchStart u) s = .next t ∧
          (t.record u).state = 3 ∧ (t.record u).code = 6) ∧
        ∀ e, s.mayRun c r.die = true → c.urgent = false → s.examined u = some e →
          let cores := e.cores.filter (s.coreExists r.die)
          (e.header.matrix = false ∨ r.lease.held ≠ 0 → ∃ t, exec (.launchStart u) s = .next t ∧ (t.record u).state = 2 ∧
            (t.record u).total = cores.length ∧ (t.record u).done = 0 ∧ (t.record u).next = 0 ∧ (t.record u).units = e.units ∧
            (t.record u).cores = cores ∧ (t.record u).resolution = (s.part c.part).resolve ∧ (t.record u).handlers = [] ∧
            ∀ x ∈ t.cwords, x.die = r.die → x.cluster < 16 → x.owned = true ∨ x.dirty ≠ 0) ∧
          (e.header.matrix = true → r.lease.held = 0 →
            (r.lease.waiting = true → exec (.launchStart u) s = .refused .noOccasion) ∧
            (r.lease.waiting = false → ∃ t, exec (.launchStart u) s = .next t ∧
              (t.record u).lease.waiting = true ∧ (t.record u).lease.asked = e.tokens ∧ (t.record u).state = r.state))) ∧
      (s.reached u = true → r.kind = .graph ∨ r.kind = .job → rising → let s1 := s.takeUp u
        (s1.groupOk u = false → ∃ t, exec (.launchStart u) s = .next t ∧ (t.record u).state = 3 ∧ (t.record u).code = 6) ∧
        (s1.groupOk u = true → ∃ t, exec (.launchStart u) s = .next t ∧ (t.record u).state = 2 ∧
          (t.record u).total = (s1.record u).children.length)) ∧
      (s.reached u = true → r.kind = .phase → rising → let s1 := s.takeUp u
        (s1.groupOk u = false → ∃ t, exec (.phaseStart u) s = .next t ∧ (t.record u).state = 3 ∧ (t.record u).code = 6) ∧
        ∀ x n, s1.groupOk u = true → s1.readPlain c r.die r.addr 64 = some x → s1.readPlain c r.die (bitsOf x 128 64) 8 = some n →
          (s1.select n (s1.record u).children = none → ∃ t, exec (.phaseStart u) s = .next t ∧ (t.record u).state = 3 ∧ (t.record u).code = 0x0E) ∧
          ∀ k, s1.select n (s1.record u).children = some k → ∃ t, exec (.phaseStart u) s = .next t ∧ (t.record u).state = 2 ∧
            (t.record u).chosen = some k)) ∧
    (∀ u core h, (s.record u).header = some h → s.canPlace u core h = true → ∃ t w, exec (.workgroupPlacement u core) s = .next t ∧
      w ∈ t.wgs ∧ (∀ y ∈ s.wgs, y ∈ t.wgs) ∧ w.uid = s.nextId ∧ w.launch = u ∧ w.ctx = (s.record u).ctx ∧ w.die = (s.record u).die ∧ w.core = core ∧
      w.teams.length = h.teams ∧ (t.record u).placed = (s.record u).placed ++ [core] ∧
      ∀ tm ∈ w.teams, tm.threads.length = h.live ∧ tm.jord = h.order ∧ (∀ th ∈ tm.threads, th.pc = h.entry ∧ th.status = .running ∧ th.outs = []) ∧
        ∀ n, n < (s.record u).seeds.length → tm.sreg (n + 1) = listGet 0 (s.record u).seeds n) ∧
    (∀ die (slot : BitVec 10) (value : BitVec 32),
      ((∀ c ∈ s.ctxsOn die, c.handle.toNat % 1024 ≠ slot.toNat) → exec (.doorbellWrite die slot value) s = .next s) ∧
      ∀ c, c ∈ s.ctxsOn die → c.handle.toNat % 1024 = slot.toNat → (∀ q ∈ s.ctxsOn die, q.handle.toNat % 1024 = slot.toNat → q = c) →
        s.ctx c.uid = c →
        (2 ^ c.ringlog ≤ value.toNat → exec (.doorbellWrite die slot value) s = .next s) ∧
        (value.toNat < 2 ^ c.ringlog → c.ringlog ≤ 16 → (spGet c.ringHeads die).toNat < 2 ^ c.ringlog → ∃ t,
          exec (.doorbellWrite die slot value) s = .next t ∧ spGet (t.ctx c.uid).ringTails die = value ∧
          spGet (t.ctx c.uid).ringHeads die = value)) ∧
    ∀ die (m : Msg), m.target = die →
      let fired (t : State) : Prop := (∀ x, s.firedTag m = some x → (s.record x.record).uid = x.record → s.record x.record ∈ s.recs → die < s.dies.length →
        (t.record x.record).fired = true ∧ (t.record x.record).tag = none ∧ ∀ y ∈ (t.die die).tags, y.tag ≠ x.tag)
      (∀ n, s.msgAt n = some m → s.msgFirst n m = true → s.deliverable m = true → ∃ t, exec (.taggedMessage die (.inFlight n)) s = .next t ∧
        t.msgs = s.msgs.take n ++ s.msgs.drop (n + 1) ∧ fired t ∧ (s.firedTag m = none → t.mem = s.mem ∧ t.recs = s.recs)) ∧
      (∀ n, s.msgAt n = some m → s.msgFirst n m = false ∨ s.deliverable m = false →
        exec (.taggedMessage die (.inFlight n)) s = .refused .noOccasion) ∧
      ∀ session, m.source = 24 → m.world = s.sessionWorld die session → ∃ t, exec (.taggedMessage die (.inbox session m.payload)) s = .next t ∧
        let first : Prop := ∀ y ∈ s.msgs, y.source = 24 → y.target ≠ die
        (first → s.deliverable m = true → fired t ∧ t.msgs = s.msgs) ∧
        (¬ first ∨ s.deliverable m = false → t = { s with msgs := s.msgs ++ [m] })

/-- Leases, priority and pre-emption: a token passes on, to the next cluster round the ring at which an MMA of its launch waits; a lease
is granted and its quantum ends; the path whose counter has reached 1,024 issues next; and a pre-emption freezes its victim's workgroups
on the core (R169, R217, R218, R298 to R300, R339). That such a path's issue is put on the agenda is log 2, the tie of equal lease waiters and
what becomes of a token of a pool that has shrunk log 50 (both DESIGN CHOICE). -/
def Obligations.LeasesPriorityAndPreemption : Prop :=
  ∀ s : State, s.powered = true →
    (∀ u cl x, (s.record u).uid = u → x ∈ (s.record u).lease.captured → x.1 = cl → u ≠ 0 → ∃ t, exec (.tokenPass u cl) s = .next t ∧
      let was := (s.record u).lease
      let is := (t.record u).lease
      let shrinks : Prop := (s.die (s.record u).die).pool < s.tokensHeld (s.record u).die
      let next (k : Nat) : Prop := ∃ j, 1 ≤ j ∧ j ≤ 15 ∧ k = (cl + j) % 16 ∧ s.mmaWaitsAt u k = true ∧
        ∀ b, 1 ≤ b → b < j → s.mmaWaitsAt u ((cl + b) % 16) = false
      (∀ y, y ∈ is.captured ↔ (y ∈ was.captured ∧ y.1 ≠ cl) ∨ (¬ shrinks ∧ next y.1 ∧ y = (y.1, t.time, t.time))) ∧ s.time ≤ t.time ∧
      (shrinks → is.held = was.held - 1) ∧ (¬ shrinks → is.held = was.held)) ∧
    (∀ u cl, (∀ x ∈ (s.record u).lease.captured, x.1 ≠ cl) → exec (.tokenPass u cl) s = .refused .noOccasion) ∧
    (∀ u, let r := s.record u
      let k := min r.lease.asked (s.die r.die).pool
      r.uid = u → u ≠ 0 →
      (r.lease.waiting = false → exec (.leaseGrant u) s = .refused .noOccasion) ∧
      (r.lease.waiting = true → (∀ q ∈ s.leaseWaiters r.die, q.uid = u ∨ s.leaseBefore r q = true) → k ≤ s.tokensFree r.die →
        ∃ t, exec (.leaseGrant u) s = .next t ∧ (t.record u).lease.held = k ∧ (t.record u).lease.waiting = false ∧
          (t.record u).lease.quantumEnd = s.time + field (s.part (s.ctx r.ctx).part).pcap 16 16 * 1000) ∧
      (r.lease.held = 0 → exec (.leaseQuantumEnd u) s = .refused .noOccasion) ∧
      (r.lease.held ≠ 0 →
        let rivals : Prop := ∃ q ∈ s.leaseWaiters r.die, (s.ctx r.ctx).cls ≤ (s.ctx q.ctx).cls
        ∃ t, exec (.leaseQuantumEnd u) s = .next t ∧ t.time = max s.time r.lease.quantumEnd ∧
          (rivals → (t.record u).lease.held = 0 ∧ (t.record u).lease.waiting = true ∧ (t.record u).lease.since = t.time) ∧
          (¬ rivals → (t.record u).lease.held = r.lease.held ∧
            (t.record u).lease.quantumEnd = t.time + field (s.part (s.ctx r.ctx).part).pcap 16 16 * 1000))) ∧
    (∀ u ti pc, s.active u ti = true →
      (1024 ≤ ((s.wg u).team ti).age pc.toNat → s.issuePc u ti = some pc.toNat →
        exec (.ageingTopPriority u ti pc) s = .next { s with agenda := .issue u ti :: s.agenda }) ∧
      (((s.wg u).team ti).age pc.toNat < 1024 → exec (.ageingTopPriority u ti pc) s = .refused .noOccasion)) ∧
    ∀ die core, die < s.dies.length → (s.preemptOn die core = none → exec (.preemptFreeze die core) s = .refused .noOccasion) ∧
      ∀ p, s.preemptOn die core = some p → p.frozen = false →
        ((s.record p.record).placed ≠ [] ∨ (s.reached p.record = true ∧ s.examined p.record ≠ none)) → (s.wgs.map Wg.uid).Nodup →
        ∃ t, exec (.preemptFreeze die core) s = .next t ∧
          (∀ w ∈ t.wgs, w.ctx = p.victim → w.die = die → w.core = core → w.urgent = false → w.frozen = true) ∧
          ∀ q ∈ (t.die die).preempts, q.core = core → q.frozen = true

/-- The lattice exchange and the links: a boundary sends every marked line as it stands; a received line joins, is held while its page is
not mapped, or is dropped where its region or its frame is not the sender's; links replay, go down and train again (R237, R272 to R275,
R354, R360, R383). What ROUNDS counts is
log 62, and that every replay makes its port a suspect, both ends of a link change together and a retry moves the clock log 64 (DEDUCED, DESIGN
CHOICE). -/
def Obligations.LinesTravelAndJoin : Prop :=
  ∀ s : State, s.powered = true → wholeModule s →
    (∀ die (e : BitVec 3), (s.boundary die e.toNat = none → exec (.exchangeBoundary die e) s = .refused .noOccasion) ∧
      ∀ b x p peer, die < 24 → s.boundary die e.toNat = some (b, x) → (s.die die).part = some p → s.peerOf die x = some peer →
        (s.sendable die e.toNat).length ≤ 4096 →
        (∀ m ∈ s.sendable die e.toNat, ∀ r k, s.markedLine die m = some (r, k) → s.poisoned k 256 = false) →
        ∃ t, exec (.exchangeBoundary die e) s = .next t ∧ t.time = max s.time b ∧
          t.lines = s.lines ++ (s.sendable die e.toNat).filterMap (fun m => (s.markedLine die m).map fun y =>
            { source := die, target := peer, part := p, region := y.1.id, ltype := y.1.ltype, base := y.1.base, size := y.1.size,
              ia := m.line * 256, data := BitVec.ofNat 2048 (readLE s.mem y.2 256), held := false }) ∧
          (∀ m, m ∈ (t.die die).marks ↔ m ∈ (s.die die).marks ∧ m ∉ s.sendable die e.toNat) ∧
          (t.die die).rounds = (if s.sendable die e.toNat = [] then (s.die die).rounds else (s.die die).rounds + 1) ∧
          (t.die die).backlog = (s.die die).backlog ∧ t.mem = s.mem) ∧
    (∀ n l, s.lines[n]? = some l → ∀ i : Instr, i = .lineJoin n ∨ i = .heldLineJoin n →
      let ready : Prop := (i = .lineJoin n ∧ l.held = false ∧ s.carries l.source l.target = true) ∨
        (i = .heldLineJoin n ∧ l.held = true ∧ s.walk l.target l.ia ≠ .unmapped ∧ s.walk l.target l.ia ≠ .waits)
      (¬ ready → exec i s = .refused .noOccasion) ∧
      (ready → s.lineLives l = false → exec i s = .next { s with lines := dropAt s.lines n }) ∧
      (ready → s.lineLives l = true → s.walk l.target l.ia = .unmapped ∨ s.walk l.target l.ia = .waits →
        exec i s = .next { s with lines := listModify (fun x => { x with held := true }) s.lines n }) ∧
      ∀ d f, ready → s.lineLives l = true → s.walk l.target l.ia = .local d f →
        let k := devKey d (f * 65536 + l.ia % 65536)
        ((s.frameOf d f).owner ≠ (s.part l.part).world → ∃ t, exec i s = .next t ∧ t.lines = dropAt s.lines n ∧ t.mem = s.mem) ∧
        ((s.frameOf d f).owner = (s.part l.part).world → s.poisoned k 256 = false → ∃ t, exec i s = .next t ∧
          t.lines = dropAt s.lines n ∧ (∀ a, a < k ∨ k + 256 ≤ a → spGet t.mem a = spGet s.mem a) ∧
          readLE t.mem k 256 = joinLine l.ltype 256 (readLE s.mem k 256) l.data.toNat % 256 ^ 256 ∧
          ∀ m ∈ (s.die l.target).marks, m ∈ (t.die l.target).marks)) ∧
    (∀ die port, (¬ portUp s die port → exec (.linkReplay die port) s = .refused .noOccasion ∧ exec (.linkDown die port) s = .refused .noOccasion) ∧
      (portUp s die port →
        (∃ t, exec (.linkReplay die port) s = .next t ∧ field (linkst t die port) 16 16 = min 0xFFFF (field (linkst s die port) 16 16 + 1) ∧
          field (linkst t die port) 48 16 = min 0xFFFF (field (linkst s die port) 48 16 + 1) ∧
          field (linkst t die port) 0 16 = field (linkst s die port) 0 16 ∧ .port port.toNat ∈ (t.die die).suspects ∧ t.mem = s.mem) ∧
        (∃ t, exec (.linkDown die port) s = .next t ∧ t.linkState die port.toNat = 0 ∧
          (∀ e, neighbour die port.toNat = some e → t.linkState e (opposite port.toNat) = 0) ∧ t.mem = s.mem))) ∧
    ∀ die (port : BitVec 2), die < 24 → (s.die die).boot = 6 → s.linkState die port.toNat < 2 →
      (∃ t, exec (.linkTrainRetry die port false) s = .next t ∧ t.time % 100000000 = 0 ∧ s.time < t.time ∧ t = { s with time := t.time }) ∧
      (s.canTrain die port.toNat = true → ∃ t, exec (.linkTrainRetry die port true) s = .next t ∧ t.time % 100000000 = 0 ∧ s.time < t.time ∧
        t.linkState die port.toNat = 2 ∧ ∀ e, neighbour die port.toNat = some e → t.linkState e (opposite port.toNat) = 2 ∧
          (t.die die).idlePorts.getLsbD port.toNat = true) ∧
      (s.canTrain die port.toNat = false → exec (.linkTrainRetry die port true) s = .refused .noOccasion)

/-- Soft errors, tests, scrubs, drains and the loss of a die: what is found poisoned is marked, a test follows an error, a failing part
moves to a spare or retires, a waking unit is cleared, a drain flushes, copies frame by frame and takes the die offline, a failing memory or fabric starts a drain,
and a lost die keeps nothing (R236, R237, R279, R345, R361 to R364). What a retired part drops is log 65 (DESIGN CHOICE),
what a lost die loses log 66, and the steps of a drain and of a scrub logs 48 and 67 (DEDUCED). -/
def Obligations.ErrorsDrainsAndLossOfADie : Prop :=
  ∀ s : State, s.powered = true → wholeModule s →
    (∀ k, ∃ t, exec (.softError k) s = .next t ∧ t.mem = s.mem ∧
      (∀ a, k = .poisonMemory a → a / 8 ∈ t.poison) ∧
      (∀ u ti l r, k = .poisonRegister u ti l r → s.active u ti = true → l < ((s.wg u).team ti).threads.length →
        r.toNat ∈ (threadAt t u ti l).poison) ∧
      (∀ u ti r, k = .poisonUniform u ti r → s.active u ti = true → r ≠ 0 → r.toNat ∈ ((t.wg u).team ti).poison) ∧
      (∀ u r, k = .poisonShared u r → (s.wg u).uid = u → u ≠ 0 → r.toNat ∈ (t.wg u).gpoison) ∧
      (∀ u n, k = .poisonScratch u n → (s.wg u).uid = u → u ≠ 0 → n ∈ (t.wg u).poison) ∧
      (∀ d p, k = .corrected d → (s.die d).part = some p → p < s.parts.length →
        spGet (t.part p).counters 5 = spGet (s.part p).counters 5 + 1) ∧
      (∀ d cl a, k = .refetched d cl a → ∀ c ∈ t.cwords, c.die = d → c.cluster = cl → c.word / 32 = a / 128 → c.dirty ≠ 0)) ∧
    (∀ x, (s.testable x = false → exec (.targetedTest x) s = .refused .noOccasion) ∧
      (s.testable x = true → (∃ z ∈ (s.die (testedDie x)).suspects, z.calls x = true) ∧ ∃ t, exec (.targetedTest x) s = .next t ∧
        (∀ d cl b, x = .bankRow d cl b true → t = s.answerSuspect x) ∧ (∀ d n, x = .sliceRow d n true → t = s.answerSuspect x) ∧
        (∀ d n, x = .registerFile d n true → t = s.answerSuspect x) ∧ (∀ d p, x = .port d p 0 → t = s.answerSuspect x) ∧
        (∀ d cl, x = .readOnlyRow d cl true → t = s.answerSuspect x) ∧ (∀ d cl, x = .translationRow d cl true → t = s.answerSuspect x) ∧
        (∀ d cl, x = .readOnlyRow d cl false → 8 ≤ (spGet (s.die d).spareRows (0x3000 + cl)).toNat →
          (t.die d).retired = (s.die d).retired ++ [.bank cl 32] ∧ ∀ r ∈ t.roLines, r.die = d → r.cluster ≠ cl ∧ r.cluster ≠ 16) ∧
        (∀ d cl, x = .translationRow d cl false → 8 ≤ (spGet (s.die d).spareRows (0x4000 + cl)).toNat →
          (t.die d).retired = (s.die d).retired ++ [.bank cl 33] ∧ ∀ r ∈ t.trans, r.die = d → r.stored = false) ∧
        (∀ d cl b, x = .bankRow d cl b false →
          ((spGet (s.die d).spareRows (64 * cl + b)).toNat < 8 → (t.die d).retired = (s.die d).retired ++ [.row]) ∧
          (8 ≤ (spGet (s.die d).spareRows (64 * cl + b)).toNat → (t.die d).retired = (s.die d).retired ++ [.bank cl b] ∧
            ∀ c ∈ t.cwords, c.die = d → c.cluster ≠ cl)) ∧
        (∀ d n, x = .sliceRow d n false → 8 ≤ (spGet (s.die d).spareRows (0x1000 + n)).toNat → (t.die d).retired = (s.die d).retired ++ [.slice n]) ∧
        ∀ d n, x = .registerFile d n false → 4 ≤ (spGet (s.die d).spareRows (0x2000 + n)).toNat → (∀ w ∈ s.wgs, ∃ c ∈ s.ctxs, c.uid = w.ctx) →
          (∀ a ∈ s.accs, ∀ w ∈ s.wgs, w.die = d → w.core = n → (s.wg a.wg).ctx ≠ w.ctx) →
          t.coreExists d n = false ∧ ∀ w ∈ t.wgs, ¬ (w.die = d ∧ w.core = n))) ∧
    (∀ die cl, (s.scrubDue die cl = false → exec (.unitWakeScrub die cl) s = .refused .noOccasion) ∧
      (s.scrubDue die cl = true → ∃ t, exec (.unitWakeScrub die cl) s = .next t ∧ (∀ c ∈ t.cwords, ¬ (c.die = die ∧ c.cluster = cl)) ∧
        (∀ r ∈ t.roLines, ¬ (r.die = die ∧ r.cluster = cl)) ∧ t.scrubDue die cl = false)) ∧
    (∀ die, die < 24 →
      ((s.die die).dstate ≠ 1 → exec (.drainFrameCopy die) s = .refused .noOccasion) ∧
      ((s.die die).dstate = 1 → s.drainStalled die = false → s.toSeal die ≠ [] →
        ∃ t, exec (.drainFrameCopy die) s = .next t ∧ (t.die die).dstate = 1) ∧
      ((s.die die).dstate = 1 → s.drainStalled die = false → s.toSeal die = [] →
        ((s.die die).marks ≠ [] ∨ s.replicaPages die ≠ [] → ∃ t, exec (.drainFrameCopy die) s = .next t ∧ (t.die die).marks = [] ∧
          ∀ m ∈ (t.die die).published, m ∈ (s.die die).published ∧ m ∉ s.replicaPages die) ∧
        ((s.die die).marks = [] → s.replicaPages die = [] →
          (s.framesLeft die = [] → ∃ t, exec (.drainFrameCopy die) s = .next t ∧ (t.die die).dstate = 2 ∧ (t.die die).paused = false ∧
            (t.die die).short = 0) ∧
          ∀ d m rest, s.framesLeft die = (d, m) :: rest →
            (s.drainTarget die = none → ∃ t, exec (.drainFrameCopy die) s = .next t ∧ (t.die die).paused = true ∧
              (t.die die).short = BitVec.ofNat 32 (s.framesLeft die).length ∧ (t.die die).dstate = 1) ∧
            ∀ spot, s.drainTarget die = some spot →
              (m.copying = false → ∃ t, exec (.drainFrameCopy die) s = .next t ∧
                { m with copying := true } ∈ (t.die d).published ∧ t.mem = s.mem) ∧
              (m.copying = true → ∃ t, exec (.drainFrameCopy die) s = .next t ∧
                { m with moved := some spot, copying := false } ∈ (t.die d).published ∧
                (∀ e, e < 24 → ∀ y ∈ (t.die e).published, y.spot e ≠ m.spot d) ∧
                (t.die die).dstate = 1)))) ∧
    (∀ die, die < 24 → ((s.die die).dstate = 2 → exec (.hbmOrFabricTestFailure die) s = .refused .noOccasion) ∧
      ((s.die die).dstate ≠ 2 → ∃ t, exec (.hbmOrFabricTestFailure die) s = .next t ∧ (t.die die).req = true ∧
        ((s.die die).dstate = 0 → (t.die die).dstate = 1) ∧ ((s.die die).dstate ≠ 0 → (t.die die).dstate = (s.die die).dstate))) ∧
    ∀ die, die < 24 → ((s.die die).boot ≠ 6 → exec (.dieLostWithoutEvacuation die) s = .refused .noOccasion) ∧
      ((s.die die).boot = 6 → ∃ t, exec (.dieLostWithoutEvacuation die) s = .next t ∧ (t.die die).boot = 0 ∧ (t.die die).dstate = 2 ∧
        ((∀ c ∈ s.ctxs, c.resetting = false) → (∀ a, a < 2 ^ 64 → spGet t.mem (devKey die a) = 0) ∧
          ∀ k, k < devKey die 0 ∨ devKey die (2 ^ 64) ≤ k → spGet t.mem k = spGet s.mem k) ∧
        (∀ w ∈ t.wgs, w.die ≠ die) ∧ (∀ r ∈ t.recs, r.die ≠ die) ∧ (∀ r ∈ t.trans, r.die ≠ die) ∧ (t.die die).published = [])

/-- The module and its management: without power nothing happens but a reset release, which brings up every die that verifies; power
off ends the power-on span and host memory stays; a cap frame counts when it is valid, newer and authentic; protection lowers clocks; and
the configuration service answers every request of an established session of the management port, acting on those it accepts, and no other
(R2, R376 to R380, R382, R384 to R387). Which bytes a MAC covers and that a request outside a session is not answered are the model's
reading (logs 11 and 61); that a die whose bring-up halts stands in DSTATE 2 and what a configuration and a dissolution leave is log 69. -/
def Obligations.TheModuleIsManaged : Prop :=
  (∀ (s : State) (i : Instr), poweredStep i = true → s.powered = false → exec i s = .fault .poweredOff) ∧
  (∀ (s : State) (b : BootOutcome), ∃ t, exec (.moduleResetRelease b) s = .next t ∧ t.powered = true ∧ t.ctxs = [] ∧ t.recs = [] ∧ t.wgs = [] ∧
    t.hallkey = 0 ∧ t.hallgrp = 0 ∧ t.time = 0 ∧ (∀ p, (t.part p).configured = false) ∧
    (∀ d, d < 24 → (t.die d).boot = (if b.verified.getLsbD d = true then 6 else 2) ∧
      (t.die d).dstate = (if b.verified.getLsbD d = true then 0 else 2) ∧ (t.die d).part = none ∧
      (∀ k, (d, k) ∈ b.failedCores → .core k ∈ (t.die d).retired) ∧ (∀ c k, (d, c, k) ∈ b.failedBanks → .bank c k ∈ (t.die d).retired) ∧
      (∀ k, (d, k) ∈ b.failedMemory → ∀ f, frameStack f = k → (t.die d).absentFrame f = true) ∧
      ∀ p, portMissing d p = true → p < 4 → t.linkState d p = 3) ∧
    (∀ k, spGet t.mem k = if k < 2 ^ 64 then spGet s.mem k else 0)) ∧
  ∀ s : State, s.powered = true →
    (∃ t, exec .modulePowerOff s = .next t ∧ t.powered = false ∧ t.ctxs = [] ∧ t.wgs = [] ∧
      ∀ k, spGet t.mem k = if k < 2 ^ 64 then spGet s.mem k else 0) ∧
    (∀ f, ((s.die s.mgmtDie).boot = 6 ∧ field f 0 32 = 0x4C4C4148 ∧ field f 32 16 = 1 ∧ field f 48 8 ≤ 15 ∧ field f 56 8 = 0 ∧ field f 176 208 = 0 ∧
        (BitVec.ofNat 32 (field f 128 32)).getLsbD s.hallgrp.toNat = true ∧ s.hallseq.toNat < field f 64 64 ∧
        BitVec.ofNat 128 (field f 384 128) = leNum 128 ((hmacSha256 (leBytes 32 s.hallkey.toNat) (leBytes 48 f.toNat)).take 16) →
        ∃ t, exec (.capFrame f) s = .next t ∧ t.hallCap = some (BitVec.ofNat 16 (field f 160 16), BitVec.ofNat 4 (field f 48 8)) ∧
          t.hallseq.toNat = field f 64 64) ∧
      ((s.die s.mgmtDie).boot ≠ 6 ∨ field f 0 32 ≠ 0x4C4C4148 ∨ field f 64 64 ≤ s.hallseq.toNat → exec (.capFrame f) s = .next s)) ∧
    (∀ die reached, die < 24 → die < s.dies.length → ∃ t, exec (.thermalProtection die reached) s = .next t ∧ (t.die die).therm = reached ∧
      (reached = true → (t.die die).mhz ≤ (s.die die).mhz) ∧ ∀ e, e ≠ die → t.die e = s.die e) ∧
    (∀ reached, ∃ t, exec (.electricalProtection reached) s = .next t ∧ t.elec = reached ∧
      (reached = true → ∀ d, d < s.dies.length → (t.die d).mhz ≤ (s.die d).mhz)) ∧
    (∀ h : CfgHeader, ¬ inManagement s h → (∀ key, exec (.setHallKey h key) s = .next s) ∧ (∀ r, exec (.configure h r) s = .next s) ∧
      (∀ p, exec (.dissolve h p) s = .next s) ∧ exec (.query h) s = .next s ∧ (∀ m x, exec (.setMgmt h m x) s = .next s) ∧
      ∀ n, exec (.configUnsupported h n) s = .next s) ∧
    ∀ h : CfgHeader, (s.die s.mgmtDie).boot = 6 → inManagement s h →
      (∀ i code ops, (∃ key, i = .setHallKey h key ∧ code = 1 ∧ ops = leBytes 32 key.toNat) ∨ (∃ r, i = .configure h r ∧ code = 2 ∧ ops = configureBytes r) ∨
          (∃ p, i = .dissolve h p ∧ code = 3 ∧ ops = leBytes 1 p) ∨ (i = .query h ∧ code = 4 ∧ ops = []) ∨
          (∃ (m : BitVec 128) (x : BitVec 5), i = .setMgmt h m x ∧ code = 5 ∧ ops = leBytes 16 m.toNat ++ leBytes 1 x.toNat) ∨
          (∃ n : BitVec 8, i = .configUnsupported h n ∧ code = n.toNat ∧ ops = []) →
        ¬ accepts s code h ops → ∃ t, exec i s = .next t ∧ t = { s with answers := t.answers } ∧ serviceSays s t h 1 []) ∧
      (∀ key, accepts s 1 h (leBytes 32 key.toNat) → ∃ t, exec (.setHallKey h key) s = .next t ∧ t.hallkey = key ∧ t.hallseq = 0 ∧ t.cfgseq = 0 ∧
        serviceSays s t h 0 []) ∧
      (∀ m x, accepts s 5 h (leBytes 16 m.toNat ++ leBytes 1 x.toNat) → ∃ t, exec (.setMgmt h m x) s = .next t ∧ t.mcast = m ∧ t.hallgrp = x ∧
        t.cfgseq = h.seq ∧ serviceSays s t h 0 []) ∧
      (accepts s 4 h [] → ∃ t, exec (.query h) s = .next t ∧ t = { s with cfgseq := h.seq, answers := t.answers } ∧ serviceSays s t h 0 s.queryBody) ∧
      (∀ code, accepts s code.toNat h [] → ∃ t, exec (.configUnsupported h code) s = .next t ∧ t = { s with answers := t.answers } ∧
        serviceSays s t h 0x0F []) ∧
      (∀ r, accepts s 2 h (configureBytes r) →
        let s1 : State := { s with cfgseq := h.seq }
        (s1.configureOk r = false → ∃ t, exec (.configure h r) s = .next t ∧ t = { s1 with answers := t.answers } ∧ serviceSays s t h 6 []) ∧
        ((s1.configure r).2.1 = 0 → s.parts.length = 24 → ∃ t, exec (.configure h r) s = .next t ∧ serviceSays s t h 0 [] ∧ (t.part r.part).configured = true ∧
          (t.part r.part).world = r.world ∧ (t.part r.part).ifstate = .unlocked ∧ (t.part r.part).prank = r.rank ∧
          ∀ d, d < 24 → r.mask.getLsbD d = true → (t.die d).part = some r.part)) ∧
      ∀ p, accepts s 3 h (leBytes 1 p) →
        (24 ≤ p ∨ (s.part p).configured = false → ∃ t, exec (.dissolve h p) s = .next t ∧ t = { s with cfgseq := h.seq, answers := t.answers } ∧
          serviceSays s t h 6 []) ∧
        (p < 24 → (s.part p).configured = true → ∃ t, exec (.dissolve h p) s = .next t ∧ serviceSays s t h 0 [] ∧ (t.part p).configured = false ∧
          (∀ c ∈ t.ctxs, c.part ≠ p) ∧ (∀ m ∈ t.msgs, m.world ≠ (s.part p).world) ∧ ∀ d, (t.die d).part ≠ some p)

/-- Attestation and the partition interface: every SPDM request that is heard and every TDISP message that is heard inside an established
session is answered; a session opens, is established and ends; a certificate slot is rewritten, and not while a signed response naming it stands out;
a signed request naming a slot whose rewrite is in progress is answered Busy; and the interface is locked with a fresh nonce, started by that
nonce, and stopped with the world's frames released (R365 to R375). The code points and what the standards' bodies hold are log 11 (PRESUMED);
when a response counts as awaited, when a rewrite ends and what the buffers take is log 71. -/
def Obligations.AttestationAndInterface : Prop :=
  ∀ (s : State) (die : Nat), s.powered = true → die < s.dies.length → s.parts.length = 24 → s.dies.length = 24 →
    (∀ tr, ¬ heard s die tr → ∀ i, i ∈ [Instr.getVersion die tr, .getCapabilities die tr, .negotiateAlgorithms die tr, .getDigests die tr] →
      exec i s = .next s) ∧
    (∀ tr, heard s die tr →
      (∃ t, exec (.getVersion die tr) s = .next t ∧ spdmSays s t die tr 0x04 (Config.standardBody die 0) ∧
        (t.die die).request = if tr = .window then [0x84] else (s.die die).request) ∧
      (∃ t, exec (.getCapabilities die tr) s = .next t ∧ spdmSays s t die tr 0x61 (Config.standardBody die 1)) ∧
      (∃ t, exec (.negotiateAlgorithms die tr) s = .next t ∧ spdmSays s t die tr 0x63 (Config.standardBody die 2)) ∧
      (∃ t body, exec (.getDigests die tr) s = .next t ∧ spdmSays s t die tr 0x01 body ∧
        ∃ rest, body = sha384 (Config.identityChain die) ++ rest) ∧
      (∀ (slot : BitVec 3) off len, ∃ t body, exec (.getCertificate die tr slot off len) s = .next t ∧
        (s.chain die slot.toNat = none → spdmSays s t die tr 0x7F [0x01]) ∧
        ∀ c, s.chain die slot.toNat = some c → off < c.length → body = (c.drop off).take len ∧ spdmSays s t die tr 0x02 body) ∧
      (∀ (slot : BitVec 3) nonce, slot ≠ 0 → (s.die die).cert slot.toNat = none → ∃ t, exec (.challenge die tr slot nonce) s = .next t ∧
        spdmSays s t die tr 0x7F [0x01]) ∧
      (∀ nonce, (s.die die).cert 0 = none → ∃ t text, exec (.challenge die tr 0 nonce) s = .next t ∧
        spdmSays s t die tr 0x03 (text ++ Config.signature die text) ∧ text = sha384 (Config.identityChain die) ++ leBytes 32 nonce.toNat ∧
        t.awaiting die 0 = true) ∧
      (∀ index : BitVec 8, ∃ t, exec (.getMeasurements die tr none index) s = .next t ∧
        (10 < index.toNat → index.toNat ≠ 0xFF → spdmSays s t die tr 0x7F [0x01]) ∧
        (1 ≤ index.toNat → index.toNat ≤ 10 → spdmSays s t die tr 0x60 (s.measurementBytes die index.toNat) ∧
          ∀ nonce, (s.die die).cert 0 = none → ∃ u text, exec (.getMeasurements die tr (some (0, nonce)) index) s = .next u ∧
            text = s.measurementBytes die index.toNat ++ leBytes 32 nonce.toNat ∧ spdmSays s u die tr 0x60 (text ++ Config.signature die text) ∧
            u.awaiting die 0 = true)) ∧
      (∀ (slot : BitVec 3) nonce, s.rewriting die slot.toNat = true → ∃ t, exec (.challenge die tr slot nonce) s = .next t ∧
        if stillBusy s (8 + slot.toNat) then spdmSays s t die tr 0x7F [0x03]
        else ∀ c, s.chain die slot.toNat = some c → let text := sha384 c ++ leBytes 32 nonce.toNat
          spdmSays s t die tr 0x03 (text ++ Config.signature die text)) ∧
      (∀ req : KeyExchangeReq, ¬ fits tr (34 + req.exchange.length) → exec (.keyExchange die tr req) s = .next s) ∧
      (∀ req : KeyExchangeReq, fits tr (34 + req.exchange.length) → ∃ t, exec (.keyExchange die tr req) s = .next t ∧
        (s.chain die req.slot.toNat ≠ none → ⟨s.nextId, tr, false, none⟩ ∈ (t.die die).sessions ∧ t.nextId = s.nextId + 1 ∧
          ∃ own, own.take 4 = leBytes 4 s.nextId ∧
            spdmSays s t die tr 0x64 (own ++ Config.signature die (req.exchange ++ leBytes 32 req.nonce.toNat ++ own))) ∧
        (s.chain die req.slot.toNat = none → spdmSays s t die tr 0x7F [0x01])) ∧
      (∀ id, ∃ t, exec (.finish die tr id) s = .next t ∧
        (s.hasSession die tr id false = true → ∃ x ∈ (t.die die).sessions, x.id = id ∧ x.established = true) ∧
        (s.hasSession die tr id false = false → spdmSays s t die tr 0x7F [0x04])) ∧
      (∀ id, ∃ t, exec (.endSession die tr id) s = .next t ∧
        (s.hasSession die tr id true = true → ∀ x ∈ (t.die die).sessions, x.id ≠ id) ∧
        (s.hasSession die tr id true = false → spdmSays s t die tr 0x7F [0x04])) ∧
      (∀ id (slot : BitVec 3) chain, ¬ fits tr (6 + chain.length) → exec (.setCertificate die tr id slot chain) s = .next s) ∧
      (∀ id (slot : BitVec 3) chain, fits tr (6 + chain.length) → ∃ t, exec (.setCertificate die tr id slot chain) s = .next t ∧
        (s.hasSession die tr id true = false → spdmSays s t die tr 0x7F [0x04]) ∧
        (s.hasSession die tr id true = true → slot = 0 → spdmSays s t die tr 0x7F [0x01]) ∧
        (s.hasSession die tr id true = true → slot ≠ 0 →
          if s.awaiting die slot.toNat = true ∧ stillBusy s slot.toNat then
            spdmSays s t die tr 0x7F [0x03] ∧ t.chain die slot.toNat = s.chain die slot.toNat
          else spdmSays s t die tr 0x6E [BitVec.ofNat 8 slot.toNat] ∧
            t.chain die slot.toNat = if chain = [] then none else some chain)) ∧
      ∀ code : BitVec 8, ∃ t, exec (.spdmUnsupportedRequest die tr code) s = .next t ∧ spdmSays s t die tr 0x7F [0x07, code]) ∧
    (∃ t, exec (.spdmResponseRelease die) s = .next t ∧
      ((s.die die).boot = 6 → s.linkState die 0 = 2 → (t.die die).response = []) ∧ t.mem = s.mem ∧ t.answers = s.answers) ∧
    (∀ id, (∀ x ∈ (s.die die).sessions, x.id = id → x.established = false) ∨ (∃ tr, inSession s die id tr ∧ ¬ heard s die tr) →
      ∀ i, i ∈ [Instr.getTdispVersion die id, .getTdispCapabilities die id] → exec i s = .next s) ∧
    ∀ id tr, inSession s die id tr → heard s die tr →
      (∃ t, exec (.getTdispVersion die id) s = .next t ∧ tdispSays s t die id tr 0x01 (Config.standardBody die 4)) ∧
      (∃ t, exec (.getTdispCapabilities die id) s = .next t ∧ tdispSays s t die id tr 0x02 (Config.standardBody die 5)) ∧
      (∀ code : BitVec 8, ∃ t, exec (.tdispUnsupportedRequest die id code) s = .next t ∧ tdispSays s t die id tr 0x7F [0x07, code]) ∧
      ∀ p, p < 24 →
        ((s.part p).configured = false → ∀ nonce off len, ∀ i, i ∈ [Instr.lockInterfaceRequest die id p, .getDeviceInterfaceReport die id p off len,
            .getDeviceInterfaceState die id p, .startInterfaceRequest die id p nonce, .stopInterfaceRequest die id p] →
          ∃ t, exec i s = .next t ∧ tdispSays s t die id tr 0x7F [0x01]) ∧
        ((s.part p).configured = true →
          (∃ t, exec (.getDeviceInterfaceState die id p) s = .next t ∧ tdispSays s t die id tr 0x05
            [match (s.part p).ifstate with | .unlocked => 0 | .locked => 1 | .run => 2 | .error => 3]) ∧
          (∀ off len, ∃ t, exec (.getDeviceInterfaceReport die id p off len) s = .next t ∧
            (off < (s.report p).length → tdispSays s t die id tr 0x04 (((s.report p).drop off).take len)) ∧
            ((s.report p).length ≤ off → tdispSays s t die id tr 0x7F [0x01])) ∧
          (∃ t, exec (.lockInterfaceRequest die id p) s = .next t ∧
            ((s.part p).ifstate ≠ .unlocked → tdispSays s t die id tr 0x7F [0x04]) ∧
            ((s.part p).ifstate = .unlocked → (∀ d ∈ s.diesOf p, (s.die d).dstate = 0) → tdispSays s t die id tr 0x03 (leBytes 32 (Config.random s.draws).toNat) ∧
              (t.part p).ifstate = .locked ∧ (t.part p).locks = (s.part p).locks + 1 ∧ (t.part p).nonce = Config.random s.draws ∧
              (t.part p).boundSession = some id)) ∧
          (∀ nonce, ∃ t, exec (.startInterfaceRequest die id p nonce) s = .next t ∧
            ((s.part p).ifstate ≠ .locked → tdispSays s t die id tr 0x7F [0x04] ∧ (t.part p) = s.part p) ∧
            ((s.part p).ifstate = .locked → (s.part p).nonce ≠ nonce → tdispSays s t die id tr 0x7F [0x02] ∧ (t.part p) = s.part p) ∧
            ((s.part p).ifstate = .locked → (s.part p).nonce = nonce → tdispSays s t die id tr 0x06 [] ∧ (t.part p).ifstate = .run)) ∧
          ∃ t, exec (.stopInterfaceRequest die id p) s = .next t ∧
            ((s.part p).ifstate = .unlocked → tdispSays s t die id tr 0x7F [0x04]) ∧
            ((s.part p).ifstate ≠ .unlocked → (t.part p).ifstate = .unlocked ∧ (t.part p).keygen = (s.part p).keygen + 1 ∧
              (t.part p).boundSession = none) ∧
            ((s.part p).ifstate = .locked ∨ (s.part p).ifstate = .run → (s.part p).world ≠ 0 → ∀ d ∈ s.diesOf p, ∀ n,
              (s.frameOf d n).owner = (s.part p).world → (t.frameOf d n).owner = 0 ∧ (t.frameOf d n).scrubp = true))

/-! ## Obligations: the machine as a whole -/

/-- A step whose turn is an issue fetches the word at the program counter of the team's path; where no path at top priority comes before
it, the word decodes to an instruction that does not stall for a token, and no poisoned uniform register is read, the step is the
instruction's meaning at the state in which its group executes, each of its threads under the loop bodies of its translation, followed by
the end of the issue; an MMA without a token asks for the lease and does not issue; a turn that names a further step is that step, the
counters of halted teams follow their threads (R221), and time passes (R168, R170, R216 to R218, R25 and log 2 for the agenda, which is the model's own). -/
def Obligations.StepRunsTheDecodedInstruction : Prop :=
  ∀ (s : State) (rest : List Turn),
    (∀ u ti p x, s.agenda = .issue u ti :: rest → s.powered = true →
      let s0 : State := { s with agenda := rest }
      let pc := BitVec.ofNat 64 p
      let tm := (s0.wg u).team ti
      s0.issuePc u ti = some p → s0.fetchAt (s0.wg u) tm pc = some (x, 0) →
      (s0.outranked u ti = true → step s = .refused .notReady) ∧
      (s0.outranked u ti = false → s0.stallsMma u x 0 = true → step s = .next (s0.askLease (s0.wg u)).pass) ∧
      ∀ i, s0.outranked u ti = false → s0.stallsMma u x 0 = false → decode x = .instr i →
        let s1 := s0.beginIssue u ti pc x
        let lanes := s0.issueLanes u ti pc
        s1.consumesUniform u ti i = false →
        s1.cur = some ⟨u, ti, lanes, pc, s.nextId⟩ ∧ s1.mem = s.mem ∧ s1.Issues ⟨u, ti, lanes, pc, s.nextId⟩ ∧
        (∀ l, l < tm.threads.length → (threadAt s1 u ti l) =
          { tm.thread l with bodies := if inMask lanes l = true then s0.loopsAt (s0.wg u) tm pc else (tm.thread l).bodies }) ∧
        step s = match exec i s1 with
          | .next t => .next (t.endIssue u ti pc lanes s.nextId x)
          | .fault e => .fault e
          | .refused e => .refused e) ∧
    (∀ i, s.agenda = .event i :: rest → step s = match exec i { s with agenda := rest } with
      | .next t => .next (t.follow { s with agenda := rest }).pass
      | .fault e => .fault e
      | .refused e => .refused e) ∧
    (∀ u ti, s.agenda = .issue u ti :: rest → s.powered = false → step s = .fault .poweredOff) ∧
    ∀ u ti, s.agenda = .issue u ti :: rest → s.powered = true → State.issuePc { s with agenda := rest } u ti = none → step s = .refused .notReady

/-- Words written from the encodings of spec/02, one or more of every family, decode to the instructions they stand for, and a word of no
instruction is refused by name (R26, R40 to R44). -/
def Obligations.WrittenWordsDecode : Prop :=
  (∀ p ∈ writtenLaneWords ++ writtenMemoryWords ++ writtenUniformWords, decode p.1 = .instr p.2) ∧ ∀ w ∈ unwrittenWords, ∃ e, decode w = .nonInstr e

/-- Every well-formed instruction that has an encoding is what its word decodes to, with every operand and with the switch marker as it
was given (R26, R33, R40 to R42). -/
def Obligations.DecodeOfEncode : Prop :=
  ∀ (m : Bool) (i : Instr) (w : Word), i.wellFormed = true → encode m i = some w → decode w = .instr i ∧ wM w = m

/-- The machine at reset: memory in its canonical form and nothing listed, no context, record or workgroup, no partition configured and
every interface unlocked, and on every die the registers at the reset values of their maps, a missing port retired (R2, R70, R268 to R270, R328,
R329, R349, R360, R363, R373, R376, R382). That the clocks stand at 1,400 MHz and the pools at 16 tokens before the first budget is the
model's choice (log 12). -/
def Obligations.ResetLeavesTheStatedValues : Prop :=
  let s := State.reset
  s.Inv ∧ s.powered = true ∧ s.time = 0 ∧ (∀ k, spGet s.mem k = 0) ∧ s.ctxs = [] ∧ s.recs = [] ∧ s.wgs = [] ∧ s.trans = [] ∧
    s.hallgrp = 0 ∧ s.hallseq = 0 ∧ s.hallkey = 0 ∧ s.elec = false ∧ s.dies.length = 24 ∧ s.parts.length = 24 ∧
    (∀ p, (s.part p).configured = false ∧ (s.part p).ifstate = .unlocked ∧ (s.part p).locks = 0 ∧ (s.part p).prank = 0 ∧
      field (s.part p).pcap 0 16 = 0xFFFF ∧ field (s.part p).pcap 16 16 = 64) ∧
    ∀ d, d < 24 → (s.die d).dstate = 0 ∧ (s.die d).req = false ∧ (s.die d).paused = false ∧ (s.die d).short = 0 ∧ (s.die d).evachb = 0 ∧
      (s.die d).evachn = 0 ∧ (s.die d).ptroot = 0 ∧ (s.die d).backlog = 0 ∧ (s.die d).rounds = 0 ∧ (s.die d).retired = [] ∧
      (∀ n, n < 8 → spGet (s.die d).xsched n = 0x80000) ∧ (s.die d).xbound = 0x80004 ∧
      (∀ n, spGet (s.die d).fmt n = 0) ∧ (∀ f, (s.die d).frame f = ⟨f, 0, 0, true, false, false, false⟩) ∧
      (∀ p, p < 4 → listGet 0 (s.die d).links p = if portMissing d p = true then 3 else 0) ∧
      (s.die d).mhz = 1400 ∧ (s.die d).pool = 16

/-- Every step, whatever it runs and whatever its agenda names, keeps memory in its canonical form, so that equal memories are equal data
(the invariant of log 27; R224, R238). -/
def Obligations.EveryStepKeepsTheInvariant : Prop :=
  ∀ s t : State, s.Inv → step s = .next t → t.Inv
end

