-- ==== Sys2Proof/Laws/State.lean ====
section
/-!
SUPPORT. What the shared updates leave alone: one lemma per field and update, each true by definition, so that no later
proof unfolds a record update.
-/
namespace Sys2Proof.Machine


/-! ### `State.modWg` -/

@[simp] theorem State.modWg_time (s : State) (u : Nat) (f : Wg → Wg) : (s.modWg u f).time = s.time := rfl
@[simp] theorem State.modWg_draws (s : State) (u : Nat) (f : Wg → Wg) : (s.modWg u f).draws = s.draws := rfl
@[simp] theorem State.modWg_agenda (s : State) (u : Nat) (f : Wg → Wg) : (s.modWg u f).agenda = s.agenda := rfl
@[simp] theorem State.modWg_cur (s : State) (u : Nat) (f : Wg → Wg) : (s.modWg u f).cur = s.cur := rfl
@[simp] theorem State.modWg_nextId (s : State) (u : Nat) (f : Wg → Wg) : (s.modWg u f).nextId = s.nextId := rfl
@[simp] theorem State.modWg_powered (s : State) (u : Nat) (f : Wg → Wg) : (s.modWg u f).powered = s.powered := rfl
@[simp] theorem State.modWg_mem (s : State) (u : Nat) (f : Wg → Wg) : (s.modWg u f).mem = s.mem := rfl
@[simp] theorem State.modWg_poison (s : State) (u : Nat) (f : Wg → Wg) : (s.modWg u f).poison = s.poison := rfl
@[simp] theorem State.modWg_hostFrames (s : State) (u : Nat) (f : Wg → Wg) : (s.modWg u f).hostFrames = s.hostFrames := rfl
@[simp] theorem State.modWg_dies (s : State) (u : Nat) (f : Wg → Wg) : (s.modWg u f).dies = s.dies := rfl
@[simp] theorem State.modWg_parts (s : State) (u : Nat) (f : Wg → Wg) : (s.modWg u f).parts = s.parts := rfl
@[simp] theorem State.modWg_ctxs (s : State) (u : Nat) (f : Wg → Wg) : (s.modWg u f).ctxs = s.ctxs := rfl
@[simp] theorem State.modWg_recs (s : State) (u : Nat) (f : Wg → Wg) : (s.modWg u f).recs = s.recs := rfl
@[simp] theorem State.modWg_accs (s : State) (u : Nat) (f : Wg → Wg) : (s.modWg u f).accs = s.accs := rfl
@[simp] theorem State.modWg_waiters (s : State) (u : Nat) (f : Wg → Wg) : (s.modWg u f).waiters = s.waiters := rfl
@[simp] theorem State.modWg_unacked (s : State) (u : Nat) (f : Wg → Wg) : (s.modWg u f).unacked = s.unacked := rfl
@[simp] theorem State.modWg_cwords (s : State) (u : Nat) (f : Wg → Wg) : (s.modWg u f).cwords = s.cwords := rfl
@[simp] theorem State.modWg_roLines (s : State) (u : Nat) (f : Wg → Wg) : (s.modWg u f).roLines = s.roLines := rfl
@[simp] theorem State.modWg_slog (s : State) (u : Nat) (f : Wg → Wg) : (s.modWg u f).slog = s.slog := rfl
@[simp] theorem State.modWg_trans (s : State) (u : Nat) (f : Wg → Wg) : (s.modWg u f).trans = s.trans := rfl
@[simp] theorem State.modWg_lines (s : State) (u : Nat) (f : Wg → Wg) : (s.modWg u f).lines = s.lines := rfl
@[simp] theorem State.modWg_msgs (s : State) (u : Nat) (f : Wg → Wg) : (s.modWg u f).msgs = s.msgs := rfl
@[simp] theorem State.modWg_hallgrp (s : State) (u : Nat) (f : Wg → Wg) : (s.modWg u f).hallgrp = s.hallgrp := rfl
@[simp] theorem State.modWg_hallseq (s : State) (u : Nat) (f : Wg → Wg) : (s.modWg u f).hallseq = s.hallseq := rfl
@[simp] theorem State.modWg_hallkey (s : State) (u : Nat) (f : Wg → Wg) : (s.modWg u f).hallkey = s.hallkey := rfl
@[simp] theorem State.modWg_cfgseq (s : State) (u : Nat) (f : Wg → Wg) : (s.modWg u f).cfgseq = s.cfgseq := rfl
@[simp] theorem State.modWg_mcast (s : State) (u : Nat) (f : Wg → Wg) : (s.modWg u f).mcast = s.mcast := rfl
@[simp] theorem State.modWg_hallCap (s : State) (u : Nat) (f : Wg → Wg) : (s.modWg u f).hallCap = s.hallCap := rfl
@[simp] theorem State.modWg_elec (s : State) (u : Nat) (f : Wg → Wg) : (s.modWg u f).elec = s.elec := rfl
@[simp] theorem State.modWg_debugWord (s : State) (u : Nat) (f : Wg → Wg) : (s.modWg u f).debugWord = s.debugWord := rfl
@[simp] theorem State.modWg_answers (s : State) (u : Nat) (f : Wg → Wg) : (s.modWg u f).answers = s.answers := rfl

/-! ### `State.modCtx` -/

@[simp] theorem State.modCtx_time (s : State) (u : Nat) (f : Ctx → Ctx) : (s.modCtx u f).time = s.time := rfl
@[simp] theorem State.modCtx_draws (s : State) (u : Nat) (f : Ctx → Ctx) : (s.modCtx u f).draws = s.draws := rfl
@[simp] theorem State.modCtx_agenda (s : State) (u : Nat) (f : Ctx → Ctx) : (s.modCtx u f).agenda = s.agenda := rfl
@[simp] theorem State.modCtx_cur (s : State) (u : Nat) (f : Ctx → Ctx) : (s.modCtx u f).cur = s.cur := rfl
@[simp] theorem State.modCtx_nextId (s : State) (u : Nat) (f : Ctx → Ctx) : (s.modCtx u f).nextId = s.nextId := rfl
@[simp] theorem State.modCtx_powered (s : State) (u : Nat) (f : Ctx → Ctx) : (s.modCtx u f).powered = s.powered := rfl
@[simp] theorem State.modCtx_mem (s : State) (u : Nat) (f : Ctx → Ctx) : (s.modCtx u f).mem = s.mem := rfl
@[simp] theorem State.modCtx_poison (s : State) (u : Nat) (f : Ctx → Ctx) : (s.modCtx u f).poison = s.poison := rfl
@[simp] theorem State.modCtx_hostFrames (s : State) (u : Nat) (f : Ctx → Ctx) : (s.modCtx u f).hostFrames = s.hostFrames := rfl
@[simp] theorem State.modCtx_dies (s : State) (u : Nat) (f : Ctx → Ctx) : (s.modCtx u f).dies = s.dies := rfl
@[simp] theorem State.modCtx_parts (s : State) (u : Nat) (f : Ctx → Ctx) : (s.modCtx u f).parts = s.parts := rfl
@[simp] theorem State.modCtx_recs (s : State) (u : Nat) (f : Ctx → Ctx) : (s.modCtx u f).recs = s.recs := rfl
@[simp] theorem State.modCtx_wgs (s : State) (u : Nat) (f : Ctx → Ctx) : (s.modCtx u f).wgs = s.wgs := rfl
@[simp] theorem State.modCtx_accs (s : State) (u : Nat) (f : Ctx → Ctx) : (s.modCtx u f).accs = s.accs := rfl
@[simp] theorem State.modCtx_waiters (s : State) (u : Nat) (f : Ctx → Ctx) : (s.modCtx u f).waiters = s.waiters := rfl
@[simp] theorem State.modCtx_unacked (s : State) (u : Nat) (f : Ctx → Ctx) : (s.modCtx u f).unacked = s.unacked := rfl
@[simp] theorem State.modCtx_cwords (s : State) (u : Nat) (f : Ctx → Ctx) : (s.modCtx u f).cwords = s.cwords := rfl
@[simp] theorem State.modCtx_roLines (s : State) (u : Nat) (f : Ctx → Ctx) : (s.modCtx u f).roLines = s.roLines := rfl
@[simp] theorem State.modCtx_slog (s : State) (u : Nat) (f : Ctx → Ctx) : (s.modCtx u f).slog = s.slog := rfl
@[simp] theorem State.modCtx_trans (s : State) (u : Nat) (f : Ctx → Ctx) : (s.modCtx u f).trans = s.trans := rfl
@[simp] theorem State.modCtx_lines (s : State) (u : Nat) (f : Ctx → Ctx) : (s.modCtx u f).lines = s.lines := rfl
@[simp] theorem State.modCtx_msgs (s : State) (u : Nat) (f : Ctx → Ctx) : (s.modCtx u f).msgs = s.msgs := rfl
@[simp] theorem State.modCtx_hallgrp (s : State) (u : Nat) (f : Ctx → Ctx) : (s.modCtx u f).hallgrp = s.hallgrp := rfl
@[simp] theorem State.modCtx_hallseq (s : State) (u : Nat) (f : Ctx → Ctx) : (s.modCtx u f).hallseq = s.hallseq := rfl
@[simp] theorem State.modCtx_hallkey (s : State) (u : Nat) (f : Ctx → Ctx) : (s.modCtx u f).hallkey = s.hallkey := rfl
@[simp] theorem State.modCtx_cfgseq (s : State) (u : Nat) (f : Ctx → Ctx) : (s.modCtx u f).cfgseq = s.cfgseq := rfl
@[simp] theorem State.modCtx_mcast (s : State) (u : Nat) (f : Ctx → Ctx) : (s.modCtx u f).mcast = s.mcast := rfl
@[simp] theorem State.modCtx_hallCap (s : State) (u : Nat) (f : Ctx → Ctx) : (s.modCtx u f).hallCap = s.hallCap := rfl
@[simp] theorem State.modCtx_elec (s : State) (u : Nat) (f : Ctx → Ctx) : (s.modCtx u f).elec = s.elec := rfl
@[simp] theorem State.modCtx_debugWord (s : State) (u : Nat) (f : Ctx → Ctx) : (s.modCtx u f).debugWord = s.debugWord := rfl
@[simp] theorem State.modCtx_answers (s : State) (u : Nat) (f : Ctx → Ctx) : (s.modCtx u f).answers = s.answers := rfl

/-! ### `State.modRec` -/

@[simp] theorem State.modRec_time (s : State) (u : Nat) (f : Rec → Rec) : (s.modRec u f).time = s.time := rfl
@[simp] theorem State.modRec_draws (s : State) (u : Nat) (f : Rec → Rec) : (s.modRec u f).draws = s.draws := rfl
@[simp] theorem State.modRec_agenda (s : State) (u : Nat) (f : Rec → Rec) : (s.modRec u f).agenda = s.agenda := rfl
@[simp] theorem State.modRec_cur (s : State) (u : Nat) (f : Rec → Rec) : (s.modRec u f).cur = s.cur := rfl
@[simp] theorem State.modRec_nextId (s : State) (u : Nat) (f : Rec → Rec) : (s.modRec u f).nextId = s.nextId := rfl
@[simp] theorem State.modRec_powered (s : State) (u : Nat) (f : Rec → Rec) : (s.modRec u f).powered = s.powered := rfl
@[simp] theorem State.modRec_mem (s : State) (u : Nat) (f : Rec → Rec) : (s.modRec u f).mem = s.mem := rfl
@[simp] theorem State.modRec_poison (s : State) (u : Nat) (f : Rec → Rec) : (s.modRec u f).poison = s.poison := rfl
@[simp] theorem State.modRec_hostFrames (s : State) (u : Nat) (f : Rec → Rec) : (s.modRec u f).hostFrames = s.hostFrames := rfl
@[simp] theorem State.modRec_dies (s : State) (u : Nat) (f : Rec → Rec) : (s.modRec u f).dies = s.dies := rfl
@[simp] theorem State.modRec_parts (s : State) (u : Nat) (f : Rec → Rec) : (s.modRec u f).parts = s.parts := rfl
@[simp] theorem State.modRec_ctxs (s : State) (u : Nat) (f : Rec → Rec) : (s.modRec u f).ctxs = s.ctxs := rfl
@[simp] theorem State.modRec_wgs (s : State) (u : Nat) (f : Rec → Rec) : (s.modRec u f).wgs = s.wgs := rfl
@[simp] theorem State.modRec_accs (s : State) (u : Nat) (f : Rec → Rec) : (s.modRec u f).accs = s.accs := rfl
@[simp] theorem State.modRec_waiters (s : State) (u : Nat) (f : Rec → Rec) : (s.modRec u f).waiters = s.waiters := rfl
@[simp] theorem State.modRec_unacked (s : State) (u : Nat) (f : Rec → Rec) : (s.modRec u f).unacked = s.unacked := rfl
@[simp] theorem State.modRec_cwords (s : State) (u : Nat) (f : Rec → Rec) : (s.modRec u f).cwords = s.cwords := rfl
@[simp] theorem State.modRec_roLines (s : State) (u : Nat) (f : Rec → Rec) : (s.modRec u f).roLines = s.roLines := rfl
@[simp] theorem State.modRec_slog (s : State) (u : Nat) (f : Rec → Rec) : (s.modRec u f).slog = s.slog := rfl
@[simp] theorem State.modRec_trans (s : State) (u : Nat) (f : Rec → Rec) : (s.modRec u f).trans = s.trans := rfl
@[simp] theorem State.modRec_lines (s : State) (u : Nat) (f : Rec → Rec) : (s.modRec u f).lines = s.lines := rfl
@[simp] theorem State.modRec_msgs (s : State) (u : Nat) (f : Rec → Rec) : (s.modRec u f).msgs = s.msgs := rfl
@[simp] theorem State.modRec_hallgrp (s : State) (u : Nat) (f : Rec → Rec) : (s.modRec u f).hallgrp = s.hallgrp := rfl
@[simp] theorem State.modRec_hallseq (s : State) (u : Nat) (f : Rec → Rec) : (s.modRec u f).hallseq = s.hallseq := rfl
@[simp] theorem State.modRec_hallkey (s : State) (u : Nat) (f : Rec → Rec) : (s.modRec u f).hallkey = s.hallkey := rfl
@[simp] theorem State.modRec_cfgseq (s : State) (u : Nat) (f : Rec → Rec) : (s.modRec u f).cfgseq = s.cfgseq := rfl
@[simp] theorem State.modRec_mcast (s : State) (u : Nat) (f : Rec → Rec) : (s.modRec u f).mcast = s.mcast := rfl
@[simp] theorem State.modRec_hallCap (s : State) (u : Nat) (f : Rec → Rec) : (s.modRec u f).hallCap = s.hallCap := rfl
@[simp] theorem State.modRec_elec (s : State) (u : Nat) (f : Rec → Rec) : (s.modRec u f).elec = s.elec := rfl
@[simp] theorem State.modRec_debugWord (s : State) (u : Nat) (f : Rec → Rec) : (s.modRec u f).debugWord = s.debugWord := rfl
@[simp] theorem State.modRec_answers (s : State) (u : Nat) (f : Rec → Rec) : (s.modRec u f).answers = s.answers := rfl

/-! ### `State.modDie` -/

@[simp] theorem State.modDie_time (s : State) (d : Nat) (f : Die → Die) : (s.modDie d f).time = s.time := rfl
@[simp] theorem State.modDie_draws (s : State) (d : Nat) (f : Die → Die) : (s.modDie d f).draws = s.draws := rfl
@[simp] theorem State.modDie_agenda (s : State) (d : Nat) (f : Die → Die) : (s.modDie d f).agenda = s.agenda := rfl
@[simp] theorem State.modDie_cur (s : State) (d : Nat) (f : Die → Die) : (s.modDie d f).cur = s.cur := rfl
@[simp] theorem State.modDie_nextId (s : State) (d : Nat) (f : Die → Die) : (s.modDie d f).nextId = s.nextId := rfl
@[simp] theorem State.modDie_powered (s : State) (d : Nat) (f : Die → Die) : (s.modDie d f).powered = s.powered := rfl
@[simp] theorem State.modDie_mem (s : State) (d : Nat) (f : Die → Die) : (s.modDie d f).mem = s.mem := rfl
@[simp] theorem State.modDie_poison (s : State) (d : Nat) (f : Die → Die) : (s.modDie d f).poison = s.poison := rfl
@[simp] theorem State.modDie_hostFrames (s : State) (d : Nat) (f : Die → Die) : (s.modDie d f).hostFrames = s.hostFrames := rfl
@[simp] theorem State.modDie_parts (s : State) (d : Nat) (f : Die → Die) : (s.modDie d f).parts = s.parts := rfl
@[simp] theorem State.modDie_ctxs (s : State) (d : Nat) (f : Die → Die) : (s.modDie d f).ctxs = s.ctxs := rfl
@[simp] theorem State.modDie_recs (s : State) (d : Nat) (f : Die → Die) : (s.modDie d f).recs = s.recs := rfl
@[simp] theorem State.modDie_wgs (s : State) (d : Nat) (f : Die → Die) : (s.modDie d f).wgs = s.wgs := rfl
@[simp] theorem State.modDie_accs (s : State) (d : Nat) (f : Die → Die) : (s.modDie d f).accs = s.accs := rfl
@[simp] theorem State.modDie_waiters (s : State) (d : Nat) (f : Die → Die) : (s.modDie d f).waiters = s.waiters := rfl
@[simp] theorem State.modDie_unacked (s : State) (d : Nat) (f : Die → Die) : (s.modDie d f).unacked = s.unacked := rfl
@[simp] theorem State.modDie_cwords (s : State) (d : Nat) (f : Die → Die) : (s.modDie d f).cwords = s.cwords := rfl
@[simp] theorem State.modDie_roLines (s : State) (d : Nat) (f : Die → Die) : (s.modDie d f).roLines = s.roLines := rfl
@[simp] theorem State.modDie_slog (s : State) (d : Nat) (f : Die → Die) : (s.modDie d f).slog = s.slog := rfl
@[simp] theorem State.modDie_trans (s : State) (d : Nat) (f : Die → Die) : (s.modDie d f).trans = s.trans := rfl
@[simp] theorem State.modDie_lines (s : State) (d : Nat) (f : Die → Die) : (s.modDie d f).lines = s.lines := rfl
@[simp] theorem State.modDie_msgs (s : State) (d : Nat) (f : Die → Die) : (s.modDie d f).msgs = s.msgs := rfl
@[simp] theorem State.modDie_hallgrp (s : State) (d : Nat) (f : Die → Die) : (s.modDie d f).hallgrp = s.hallgrp := rfl
@[simp] theorem State.modDie_hallseq (s : State) (d : Nat) (f : Die → Die) : (s.modDie d f).hallseq = s.hallseq := rfl
@[simp] theorem State.modDie_hallkey (s : State) (d : Nat) (f : Die → Die) : (s.modDie d f).hallkey = s.hallkey := rfl
@[simp] theorem State.modDie_cfgseq (s : State) (d : Nat) (f : Die → Die) : (s.modDie d f).cfgseq = s.cfgseq := rfl
@[simp] theorem State.modDie_mcast (s : State) (d : Nat) (f : Die → Die) : (s.modDie d f).mcast = s.mcast := rfl
@[simp] theorem State.modDie_hallCap (s : State) (d : Nat) (f : Die → Die) : (s.modDie d f).hallCap = s.hallCap := rfl
@[simp] theorem State.modDie_elec (s : State) (d : Nat) (f : Die → Die) : (s.modDie d f).elec = s.elec := rfl
@[simp] theorem State.modDie_debugWord (s : State) (d : Nat) (f : Die → Die) : (s.modDie d f).debugWord = s.debugWord := rfl
@[simp] theorem State.modDie_answers (s : State) (d : Nat) (f : Die → Die) : (s.modDie d f).answers = s.answers := rfl

/-! ### `State.modPart` -/

@[simp] theorem State.modPart_time (s : State) (p : Nat) (f : Part → Part) : (s.modPart p f).time = s.time := rfl
@[simp] theorem State.modPart_draws (s : State) (p : Nat) (f : Part → Part) : (s.modPart p f).draws = s.draws := rfl
@[simp] theorem State.modPart_agenda (s : State) (p : Nat) (f : Part → Part) : (s.modPart p f).agenda = s.agenda := rfl
@[simp] theorem State.modPart_cur (s : State) (p : Nat) (f : Part → Part) : (s.modPart p f).cur = s.cur := rfl
@[simp] theorem State.modPart_nextId (s : State) (p : Nat) (f : Part → Part) : (s.modPart p f).nextId = s.nextId := rfl
@[simp] theorem State.modPart_powered (s : State) (p : Nat) (f : Part → Part) : (s.modPart p f).powered = s.powered := rfl
@[simp] theorem State.modPart_mem (s : State) (p : Nat) (f : Part → Part) : (s.modPart p f).mem = s.mem := rfl
@[simp] theorem State.modPart_poison (s : State) (p : Nat) (f : Part → Part) : (s.modPart p f).poison = s.poison := rfl
@[simp] theorem State.modPart_hostFrames (s : State) (p : Nat) (f : Part → Part) : (s.modPart p f).hostFrames = s.hostFrames := rfl
@[simp] theorem State.modPart_dies (s : State) (p : Nat) (f : Part → Part) : (s.modPart p f).dies = s.dies := rfl
@[simp] theorem State.modPart_ctxs (s : State) (p : Nat) (f : Part → Part) : (s.modPart p f).ctxs = s.ctxs := rfl
@[simp] theorem State.modPart_recs (s : State) (p : Nat) (f : Part → Part) : (s.modPart p f).recs = s.recs := rfl
@[simp] theorem State.modPart_wgs (s : State) (p : Nat) (f : Part → Part) : (s.modPart p f).wgs = s.wgs := rfl
@[simp] theorem State.modPart_accs (s : State) (p : Nat) (f : Part → Part) : (s.modPart p f).accs = s.accs := rfl
@[simp] theorem State.modPart_waiters (s : State) (p : Nat) (f : Part → Part) : (s.modPart p f).waiters = s.waiters := rfl
@[simp] theorem State.modPart_unacked (s : State) (p : Nat) (f : Part → Part) : (s.modPart p f).unacked = s.unacked := rfl
@[simp] theorem State.modPart_cwords (s : State) (p : Nat) (f : Part → Part) : (s.modPart p f).cwords = s.cwords := rfl
@[simp] theorem State.modPart_roLines (s : State) (p : Nat) (f : Part → Part) : (s.modPart p f).roLines = s.roLines := rfl
@[simp] theorem State.modPart_slog (s : State) (p : Nat) (f : Part → Part) : (s.modPart p f).slog = s.slog := rfl
@[simp] theorem State.modPart_trans (s : State) (p : Nat) (f : Part → Part) : (s.modPart p f).trans = s.trans := rfl
@[simp] theorem State.modPart_lines (s : State) (p : Nat) (f : Part → Part) : (s.modPart p f).lines = s.lines := rfl
@[simp] theorem State.modPart_msgs (s : State) (p : Nat) (f : Part → Part) : (s.modPart p f).msgs = s.msgs := rfl
@[simp] theorem State.modPart_hallgrp (s : State) (p : Nat) (f : Part → Part) : (s.modPart p f).hallgrp = s.hallgrp := rfl
@[simp] theorem State.modPart_hallseq (s : State) (p : Nat) (f : Part → Part) : (s.modPart p f).hallseq = s.hallseq := rfl
@[simp] theorem State.modPart_hallkey (s : State) (p : Nat) (f : Part → Part) : (s.modPart p f).hallkey = s.hallkey := rfl
@[simp] theorem State.modPart_cfgseq (s : State) (p : Nat) (f : Part → Part) : (s.modPart p f).cfgseq = s.cfgseq := rfl
@[simp] theorem State.modPart_mcast (s : State) (p : Nat) (f : Part → Part) : (s.modPart p f).mcast = s.mcast := rfl
@[simp] theorem State.modPart_hallCap (s : State) (p : Nat) (f : Part → Part) : (s.modPart p f).hallCap = s.hallCap := rfl
@[simp] theorem State.modPart_elec (s : State) (p : Nat) (f : Part → Part) : (s.modPart p f).elec = s.elec := rfl
@[simp] theorem State.modPart_debugWord (s : State) (p : Nat) (f : Part → Part) : (s.modPart p f).debugWord = s.debugWord := rfl
@[simp] theorem State.modPart_answers (s : State) (p : Nat) (f : Part → Part) : (s.modPart p f).answers = s.answers := rfl

/-! ### `State.modTeam` -/

@[simp] theorem State.modTeam_time (s : State) (u t : Nat) (f : Team → Team) : (s.modTeam u t f).time = s.time := rfl
@[simp] theorem State.modTeam_draws (s : State) (u t : Nat) (f : Team → Team) : (s.modTeam u t f).draws = s.draws := rfl
@[simp] theorem State.modTeam_agenda (s : State) (u t : Nat) (f : Team → Team) : (s.modTeam u t f).agenda = s.agenda := rfl
@[simp] theorem State.modTeam_cur (s : State) (u t : Nat) (f : Team → Team) : (s.modTeam u t f).cur = s.cur := rfl
@[simp] theorem State.modTeam_nextId (s : State) (u t : Nat) (f : Team → Team) : (s.modTeam u t f).nextId = s.nextId := rfl
@[simp] theorem State.modTeam_powered (s : State) (u t : Nat) (f : Team → Team) : (s.modTeam u t f).powered = s.powered := rfl
@[simp] theorem State.modTeam_mem (s : State) (u t : Nat) (f : Team → Team) : (s.modTeam u t f).mem = s.mem := rfl
@[simp] theorem State.modTeam_poison (s : State) (u t : Nat) (f : Team → Team) : (s.modTeam u t f).poison = s.poison := rfl
@[simp] theorem State.modTeam_hostFrames (s : State) (u t : Nat) (f : Team → Team) : (s.modTeam u t f).hostFrames = s.hostFrames := rfl
@[simp] theorem State.modTeam_dies (s : State) (u t : Nat) (f : Team → Team) : (s.modTeam u t f).dies = s.dies := rfl
@[simp] theorem State.modTeam_parts (s : State) (u t : Nat) (f : Team → Team) : (s.modTeam u t f).parts = s.parts := rfl
@[simp] theorem State.modTeam_ctxs (s : State) (u t : Nat) (f : Team → Team) : (s.modTeam u t f).ctxs = s.ctxs := rfl
@[simp] theorem State.modTeam_recs (s : State) (u t : Nat) (f : Team → Team) : (s.modTeam u t f).recs = s.recs := rfl
@[simp] theorem State.modTeam_accs (s : State) (u t : Nat) (f : Team → Team) : (s.modTeam u t f).accs = s.accs := rfl
@[simp] theorem State.modTeam_waiters (s : State) (u t : Nat) (f : Team → Team) : (s.modTeam u t f).waiters = s.waiters := rfl
@[simp] theorem State.modTeam_unacked (s : State) (u t : Nat) (f : Team → Team) : (s.modTeam u t f).unacked = s.unacked := rfl
@[simp] theorem State.modTeam_cwords (s : State) (u t : Nat) (f : Team → Team) : (s.modTeam u t f).cwords = s.cwords := rfl
@[simp] theorem State.modTeam_roLines (s : State) (u t : Nat) (f : Team → Team) : (s.modTeam u t f).roLines = s.roLines := rfl
@[simp] theorem State.modTeam_slog (s : State) (u t : Nat) (f : Team → Team) : (s.modTeam u t f).slog = s.slog := rfl
@[simp] theorem State.modTeam_trans (s : State) (u t : Nat) (f : Team → Team) : (s.modTeam u t f).trans = s.trans := rfl
@[simp] theorem State.modTeam_lines (s : State) (u t : Nat) (f : Team → Team) : (s.modTeam u t f).lines = s.lines := rfl
@[simp] theorem State.modTeam_msgs (s : State) (u t : Nat) (f : Team → Team) : (s.modTeam u t f).msgs = s.msgs := rfl
@[simp] theorem State.modTeam_hallgrp (s : State) (u t : Nat) (f : Team → Team) : (s.modTeam u t f).hallgrp = s.hallgrp := rfl
@[simp] theorem State.modTeam_hallseq (s : State) (u t : Nat) (f : Team → Team) : (s.modTeam u t f).hallseq = s.hallseq := rfl
@[simp] theorem State.modTeam_hallkey (s : State) (u t : Nat) (f : Team → Team) : (s.modTeam u t f).hallkey = s.hallkey := rfl
@[simp] theorem State.modTeam_cfgseq (s : State) (u t : Nat) (f : Team → Team) : (s.modTeam u t f).cfgseq = s.cfgseq := rfl
@[simp] theorem State.modTeam_mcast (s : State) (u t : Nat) (f : Team → Team) : (s.modTeam u t f).mcast = s.mcast := rfl
@[simp] theorem State.modTeam_hallCap (s : State) (u t : Nat) (f : Team → Team) : (s.modTeam u t f).hallCap = s.hallCap := rfl
@[simp] theorem State.modTeam_elec (s : State) (u t : Nat) (f : Team → Team) : (s.modTeam u t f).elec = s.elec := rfl
@[simp] theorem State.modTeam_debugWord (s : State) (u t : Nat) (f : Team → Team) : (s.modTeam u t f).debugWord = s.debugWord := rfl
@[simp] theorem State.modTeam_answers (s : State) (u t : Nat) (f : Team → Team) : (s.modTeam u t f).answers = s.answers := rfl

/-! ### `State.modThread` -/

@[simp] theorem State.modThread_time (s : State) (u t l : Nat) (f : Thread → Thread) : (s.modThread u t l f).time = s.time := rfl
@[simp] theorem State.modThread_draws (s : State) (u t l : Nat) (f : Thread → Thread) : (s.modThread u t l f).draws = s.draws := rfl
@[simp] theorem State.modThread_agenda (s : State) (u t l : Nat) (f : Thread → Thread) : (s.modThread u t l f).agenda = s.agenda := rfl
@[simp] theorem State.modThread_cur (s : State) (u t l : Nat) (f : Thread → Thread) : (s.modThread u t l f).cur = s.cur := rfl
@[simp] theorem State.modThread_nextId (s : State) (u t l : Nat) (f : Thread → Thread) : (s.modThread u t l f).nextId = s.nextId := rfl
@[simp] theorem State.modThread_powered (s : State) (u t l : Nat) (f : Thread → Thread) : (s.modThread u t l f).powered = s.powered := rfl
@[simp] theorem State.modThread_mem (s : State) (u t l : Nat) (f : Thread → Thread) : (s.modThread u t l f).mem = s.mem := rfl
@[simp] theorem State.modThread_poison (s : State) (u t l : Nat) (f : Thread → Thread) : (s.modThread u t l f).poison = s.poison := rfl
@[simp] theorem State.modThread_hostFrames (s : State) (u t l : Nat) (f : Thread → Thread) : (s.modThread u t l f).hostFrames = s.hostFrames := rfl
@[simp] theorem State.modThread_dies (s : State) (u t l : Nat) (f : Thread → Thread) : (s.modThread u t l f).dies = s.dies := rfl
@[simp] theorem State.modThread_parts (s : State) (u t l : Nat) (f : Thread → Thread) : (s.modThread u t l f).parts = s.parts := rfl
@[simp] theorem State.modThread_ctxs (s : State) (u t l : Nat) (f : Thread → Thread) : (s.modThread u t l f).ctxs = s.ctxs := rfl
@[simp] theorem State.modThread_recs (s : State) (u t l : Nat) (f : Thread → Thread) : (s.modThread u t l f).recs = s.recs := rfl
@[simp] theorem State.modThread_accs (s : State) (u t l : Nat) (f : Thread → Thread) : (s.modThread u t l f).accs = s.accs := rfl
@[simp] theorem State.modThread_waiters (s : State) (u t l : Nat) (f : Thread → Thread) : (s.modThread u t l f).waiters = s.waiters := rfl
@[simp] theorem State.modThread_unacked (s : State) (u t l : Nat) (f : Thread → Thread) : (s.modThread u t l f).unacked = s.unacked := rfl
@[simp] theorem State.modThread_cwords (s : State) (u t l : Nat) (f : Thread → Thread) : (s.modThread u t l f).cwords = s.cwords := rfl
@[simp] theorem State.modThread_roLines (s : State) (u t l : Nat) (f : Thread → Thread) : (s.modThread u t l f).roLines = s.roLines := rfl
@[simp] theorem State.modThread_slog (s : State) (u t l : Nat) (f : Thread → Thread) : (s.modThread u t l f).slog = s.slog := rfl
@[simp] theorem State.modThread_trans (s : State) (u t l : Nat) (f : Thread → Thread) : (s.modThread u t l f).trans = s.trans := rfl
@[simp] theorem State.modThread_lines (s : State) (u t l : Nat) (f : Thread → Thread) : (s.modThread u t l f).lines = s.lines := rfl
@[simp] theorem State.modThread_msgs (s : State) (u t l : Nat) (f : Thread → Thread) : (s.modThread u t l f).msgs = s.msgs := rfl
@[simp] theorem State.modThread_hallgrp (s : State) (u t l : Nat) (f : Thread → Thread) : (s.modThread u t l f).hallgrp = s.hallgrp := rfl
@[simp] theorem State.modThread_hallseq (s : State) (u t l : Nat) (f : Thread → Thread) : (s.modThread u t l f).hallseq = s.hallseq := rfl
@[simp] theorem State.modThread_hallkey (s : State) (u t l : Nat) (f : Thread → Thread) : (s.modThread u t l f).hallkey = s.hallkey := rfl
@[simp] theorem State.modThread_cfgseq (s : State) (u t l : Nat) (f : Thread → Thread) : (s.modThread u t l f).cfgseq = s.cfgseq := rfl
@[simp] theorem State.modThread_mcast (s : State) (u t l : Nat) (f : Thread → Thread) : (s.modThread u t l f).mcast = s.mcast := rfl
@[simp] theorem State.modThread_hallCap (s : State) (u t l : Nat) (f : Thread → Thread) : (s.modThread u t l f).hallCap = s.hallCap := rfl
@[simp] theorem State.modThread_elec (s : State) (u t l : Nat) (f : Thread → Thread) : (s.modThread u t l f).elec = s.elec := rfl
@[simp] theorem State.modThread_debugWord (s : State) (u t l : Nat) (f : Thread → Thread) : (s.modThread u t l f).debugWord = s.debugWord := rfl
@[simp] theorem State.modThread_answers (s : State) (u t l : Nat) (f : Thread → Thread) : (s.modThread u t l f).answers = s.answers := rfl

/-! ### `State.modLanes` -/

@[simp] theorem State.modLanes_time (s : State) (u t : Nat) (m : BitVec 64) (f : Nat → Thread → Thread) : (s.modLanes u t m f).time = s.time := rfl
@[simp] theorem State.modLanes_draws (s : State) (u t : Nat) (m : BitVec 64) (f : Nat → Thread → Thread) : (s.modLanes u t m f).draws = s.draws := rfl
@[simp] theorem State.modLanes_agenda (s : State) (u t : Nat) (m : BitVec 64) (f : Nat → Thread → Thread) : (s.modLanes u t m f).agenda = s.agenda := rfl
@[simp] theorem State.modLanes_cur (s : State) (u t : Nat) (m : BitVec 64) (f : Nat → Thread → Thread) : (s.modLanes u t m f).cur = s.cur := rfl
@[simp] theorem State.modLanes_nextId (s : State) (u t : Nat) (m : BitVec 64) (f : Nat → Thread → Thread) : (s.modLanes u t m f).nextId = s.nextId := rfl
@[simp] theorem State.modLanes_powered (s : State) (u t : Nat) (m : BitVec 64) (f : Nat → Thread → Thread) : (s.modLanes u t m f).powered = s.powered := rfl
@[simp] theorem State.modLanes_mem (s : State) (u t : Nat) (m : BitVec 64) (f : Nat → Thread → Thread) : (s.modLanes u t m f).mem = s.mem := rfl
@[simp] theorem State.modLanes_poison (s : State) (u t : Nat) (m : BitVec 64) (f : Nat → Thread → Thread) : (s.modLanes u t m f).poison = s.poison := rfl
@[simp] theorem State.modLanes_hostFrames (s : State) (u t : Nat) (m : BitVec 64) (f : Nat → Thread → Thread) : (s.modLanes u t m f).hostFrames = s.hostFrames := rfl
@[simp] theorem State.modLanes_dies (s : State) (u t : Nat) (m : BitVec 64) (f : Nat → Thread → Thread) : (s.modLanes u t m f).dies = s.dies := rfl
@[simp] theorem State.modLanes_parts (s : State) (u t : Nat) (m : BitVec 64) (f : Nat → Thread → Thread) : (s.modLanes u t m f).parts = s.parts := rfl
@[simp] theorem State.modLanes_ctxs (s : State) (u t : Nat) (m : BitVec 64) (f : Nat → Thread → Thread) : (s.modLanes u t m f).ctxs = s.ctxs := rfl
@[simp] theorem State.modLanes_recs (s : State) (u t : Nat) (m : BitVec 64) (f : Nat → Thread → Thread) : (s.modLanes u t m f).recs = s.recs := rfl
@[simp] theorem State.modLanes_accs (s : State) (u t : Nat) (m : BitVec 64) (f : Nat → Thread → Thread) : (s.modLanes u t m f).accs = s.accs := rfl
@[simp] theorem State.modLanes_waiters (s : State) (u t : Nat) (m : BitVec 64) (f : Nat → Thread → Thread) : (s.modLanes u t m f).waiters = s.waiters := rfl
@[simp] theorem State.modLanes_unacked (s : State) (u t : Nat) (m : BitVec 64) (f : Nat → Thread → Thread) : (s.modLanes u t m f).unacked = s.unacked := rfl
@[simp] theorem State.modLanes_cwords (s : State) (u t : Nat) (m : BitVec 64) (f : Nat → Thread → Thread) : (s.modLanes u t m f).cwords = s.cwords := rfl
@[simp] theorem State.modLanes_roLines (s : State) (u t : Nat) (m : BitVec 64) (f : Nat → Thread → Thread) : (s.modLanes u t m f).roLines = s.roLines := rfl
@[simp] theorem State.modLanes_slog (s : State) (u t : Nat) (m : BitVec 64) (f : Nat → Thread → Thread) : (s.modLanes u t m f).slog = s.slog := rfl
@[simp] theorem State.modLanes_trans (s : State) (u t : Nat) (m : BitVec 64) (f : Nat → Thread → Thread) : (s.modLanes u t m f).trans = s.trans := rfl
@[simp] theorem State.modLanes_lines (s : State) (u t : Nat) (m : BitVec 64) (f : Nat → Thread → Thread) : (s.modLanes u t m f).lines = s.lines := rfl
@[simp] theorem State.modLanes_msgs (s : State) (u t : Nat) (m : BitVec 64) (f : Nat → Thread → Thread) : (s.modLanes u t m f).msgs = s.msgs := rfl
@[simp] theorem State.modLanes_hallgrp (s : State) (u t : Nat) (m : BitVec 64) (f : Nat → Thread → Thread) : (s.modLanes u t m f).hallgrp = s.hallgrp := rfl
@[simp] theorem State.modLanes_hallseq (s : State) (u t : Nat) (m : BitVec 64) (f : Nat → Thread → Thread) : (s.modLanes u t m f).hallseq = s.hallseq := rfl
@[simp] theorem State.modLanes_hallkey (s : State) (u t : Nat) (m : BitVec 64) (f : Nat → Thread → Thread) : (s.modLanes u t m f).hallkey = s.hallkey := rfl
@[simp] theorem State.modLanes_cfgseq (s : State) (u t : Nat) (m : BitVec 64) (f : Nat → Thread → Thread) : (s.modLanes u t m f).cfgseq = s.cfgseq := rfl
@[simp] theorem State.modLanes_mcast (s : State) (u t : Nat) (m : BitVec 64) (f : Nat → Thread → Thread) : (s.modLanes u t m f).mcast = s.mcast := rfl
@[simp] theorem State.modLanes_hallCap (s : State) (u t : Nat) (m : BitVec 64) (f : Nat → Thread → Thread) : (s.modLanes u t m f).hallCap = s.hallCap := rfl
@[simp] theorem State.modLanes_elec (s : State) (u t : Nat) (m : BitVec 64) (f : Nat → Thread → Thread) : (s.modLanes u t m f).elec = s.elec := rfl
@[simp] theorem State.modLanes_debugWord (s : State) (u t : Nat) (m : BitVec 64) (f : Nat → Thread → Thread) : (s.modLanes u t m f).debugWord = s.debugWord := rfl
@[simp] theorem State.modLanes_answers (s : State) (u t : Nat) (m : BitVec 64) (f : Nat → Thread → Thread) : (s.modLanes u t m f).answers = s.answers := rfl

/-! ### `State.drawn` -/

@[simp] theorem State.drawn_time (s : State) : (s.drawn).time = s.time := rfl
@[simp] theorem State.drawn_agenda (s : State) : (s.drawn).agenda = s.agenda := rfl
@[simp] theorem State.drawn_cur (s : State) : (s.drawn).cur = s.cur := rfl
@[simp] theorem State.drawn_nextId (s : State) : (s.drawn).nextId = s.nextId := rfl
@[simp] theorem State.drawn_powered (s : State) : (s.drawn).powered = s.powered := rfl
@[simp] theorem State.drawn_mem (s : State) : (s.drawn).mem = s.mem := rfl
@[simp] theorem State.drawn_poison (s : State) : (s.drawn).poison = s.poison := rfl
@[simp] theorem State.drawn_hostFrames (s : State) : (s.drawn).hostFrames = s.hostFrames := rfl
@[simp] theorem State.drawn_dies (s : State) : (s.drawn).dies = s.dies := rfl
@[simp] theorem State.drawn_parts (s : State) : (s.drawn).parts = s.parts := rfl
@[simp] theorem State.drawn_ctxs (s : State) : (s.drawn).ctxs = s.ctxs := rfl
@[simp] theorem State.drawn_recs (s : State) : (s.drawn).recs = s.recs := rfl
@[simp] theorem State.drawn_wgs (s : State) : (s.drawn).wgs = s.wgs := rfl
@[simp] theorem State.drawn_accs (s : State) : (s.drawn).accs = s.accs := rfl
@[simp] theorem State.drawn_waiters (s : State) : (s.drawn).waiters = s.waiters := rfl
@[simp] theorem State.drawn_unacked (s : State) : (s.drawn).unacked = s.unacked := rfl
@[simp] theorem State.drawn_cwords (s : State) : (s.drawn).cwords = s.cwords := rfl
@[simp] theorem State.drawn_roLines (s : State) : (s.drawn).roLines = s.roLines := rfl
@[simp] theorem State.drawn_slog (s : State) : (s.drawn).slog = s.slog := rfl
@[simp] theorem State.drawn_trans (s : State) : (s.drawn).trans = s.trans := rfl
@[simp] theorem State.drawn_lines (s : State) : (s.drawn).lines = s.lines := rfl
@[simp] theorem State.drawn_msgs (s : State) : (s.drawn).msgs = s.msgs := rfl
@[simp] theorem State.drawn_hallgrp (s : State) : (s.drawn).hallgrp = s.hallgrp := rfl
@[simp] theorem State.drawn_hallseq (s : State) : (s.drawn).hallseq = s.hallseq := rfl
@[simp] theorem State.drawn_hallkey (s : State) : (s.drawn).hallkey = s.hallkey := rfl
@[simp] theorem State.drawn_cfgseq (s : State) : (s.drawn).cfgseq = s.cfgseq := rfl
@[simp] theorem State.drawn_mcast (s : State) : (s.drawn).mcast = s.mcast := rfl
@[simp] theorem State.drawn_hallCap (s : State) : (s.drawn).hallCap = s.hallCap := rfl
@[simp] theorem State.drawn_elec (s : State) : (s.drawn).elec = s.elec := rfl
@[simp] theorem State.drawn_debugWord (s : State) : (s.drawn).debugWord = s.debugWord := rfl
@[simp] theorem State.drawn_answers (s : State) : (s.drawn).answers = s.answers := rfl

/-! ### `State.numbered` -/

@[simp] theorem State.numbered_time (s : State) : (s.numbered).time = s.time := rfl
@[simp] theorem State.numbered_draws (s : State) : (s.numbered).draws = s.draws := rfl
@[simp] theorem State.numbered_agenda (s : State) : (s.numbered).agenda = s.agenda := rfl
@[simp] theorem State.numbered_cur (s : State) : (s.numbered).cur = s.cur := rfl
@[simp] theorem State.numbered_powered (s : State) : (s.numbered).powered = s.powered := rfl
@[simp] theorem State.numbered_mem (s : State) : (s.numbered).mem = s.mem := rfl
@[simp] theorem State.numbered_poison (s : State) : (s.numbered).poison = s.poison := rfl
@[simp] theorem State.numbered_hostFrames (s : State) : (s.numbered).hostFrames = s.hostFrames := rfl
@[simp] theorem State.numbered_dies (s : State) : (s.numbered).dies = s.dies := rfl
@[simp] theorem State.numbered_parts (s : State) : (s.numbered).parts = s.parts := rfl
@[simp] theorem State.numbered_ctxs (s : State) : (s.numbered).ctxs = s.ctxs := rfl
@[simp] theorem State.numbered_recs (s : State) : (s.numbered).recs = s.recs := rfl
@[simp] theorem State.numbered_wgs (s : State) : (s.numbered).wgs = s.wgs := rfl
@[simp] theorem State.numbered_accs (s : State) : (s.numbered).accs = s.accs := rfl
@[simp] theorem State.numbered_waiters (s : State) : (s.numbered).waiters = s.waiters := rfl
@[simp] theorem State.numbered_unacked (s : State) : (s.numbered).unacked = s.unacked := rfl
@[simp] theorem State.numbered_cwords (s : State) : (s.numbered).cwords = s.cwords := rfl
@[simp] theorem State.numbered_roLines (s : State) : (s.numbered).roLines = s.roLines := rfl
@[simp] theorem State.numbered_slog (s : State) : (s.numbered).slog = s.slog := rfl
@[simp] theorem State.numbered_trans (s : State) : (s.numbered).trans = s.trans := rfl
@[simp] theorem State.numbered_lines (s : State) : (s.numbered).lines = s.lines := rfl
@[simp] theorem State.numbered_msgs (s : State) : (s.numbered).msgs = s.msgs := rfl
@[simp] theorem State.numbered_hallgrp (s : State) : (s.numbered).hallgrp = s.hallgrp := rfl
@[simp] theorem State.numbered_hallseq (s : State) : (s.numbered).hallseq = s.hallseq := rfl
@[simp] theorem State.numbered_hallkey (s : State) : (s.numbered).hallkey = s.hallkey := rfl
@[simp] theorem State.numbered_cfgseq (s : State) : (s.numbered).cfgseq = s.cfgseq := rfl
@[simp] theorem State.numbered_mcast (s : State) : (s.numbered).mcast = s.mcast := rfl
@[simp] theorem State.numbered_hallCap (s : State) : (s.numbered).hallCap = s.hallCap := rfl
@[simp] theorem State.numbered_elec (s : State) : (s.numbered).elec = s.elec := rfl
@[simp] theorem State.numbered_debugWord (s : State) : (s.numbered).debugWord = s.debugWord := rfl
@[simp] theorem State.numbered_answers (s : State) : (s.numbered).answers = s.answers := rfl

/-! ### `State.setLstat` -/

@[simp] theorem State.setLstat_time (s : State) (c : Nat) (st : BitVec 64) : (s.setLstat c st).time = s.time := rfl
@[simp] theorem State.setLstat_draws (s : State) (c : Nat) (st : BitVec 64) : (s.setLstat c st).draws = s.draws := rfl
@[simp] theorem State.setLstat_agenda (s : State) (c : Nat) (st : BitVec 64) : (s.setLstat c st).agenda = s.agenda := rfl
@[simp] theorem State.setLstat_cur (s : State) (c : Nat) (st : BitVec 64) : (s.setLstat c st).cur = s.cur := rfl
@[simp] theorem State.setLstat_nextId (s : State) (c : Nat) (st : BitVec 64) : (s.setLstat c st).nextId = s.nextId := rfl
@[simp] theorem State.setLstat_powered (s : State) (c : Nat) (st : BitVec 64) : (s.setLstat c st).powered = s.powered := rfl
@[simp] theorem State.setLstat_mem (s : State) (c : Nat) (st : BitVec 64) : (s.setLstat c st).mem = s.mem := rfl
@[simp] theorem State.setLstat_poison (s : State) (c : Nat) (st : BitVec 64) : (s.setLstat c st).poison = s.poison := rfl
@[simp] theorem State.setLstat_hostFrames (s : State) (c : Nat) (st : BitVec 64) : (s.setLstat c st).hostFrames = s.hostFrames := rfl
@[simp] theorem State.setLstat_dies (s : State) (c : Nat) (st : BitVec 64) : (s.setLstat c st).dies = s.dies := rfl
@[simp] theorem State.setLstat_parts (s : State) (c : Nat) (st : BitVec 64) : (s.setLstat c st).parts = s.parts := rfl
@[simp] theorem State.setLstat_recs (s : State) (c : Nat) (st : BitVec 64) : (s.setLstat c st).recs = s.recs := rfl
@[simp] theorem State.setLstat_wgs (s : State) (c : Nat) (st : BitVec 64) : (s.setLstat c st).wgs = s.wgs := rfl
@[simp] theorem State.setLstat_accs (s : State) (c : Nat) (st : BitVec 64) : (s.setLstat c st).accs = s.accs := rfl
@[simp] theorem State.setLstat_waiters (s : State) (c : Nat) (st : BitVec 64) : (s.setLstat c st).waiters = s.waiters := rfl
@[simp] theorem State.setLstat_unacked (s : State) (c : Nat) (st : BitVec 64) : (s.setLstat c st).unacked = s.unacked := rfl
@[simp] theorem State.setLstat_cwords (s : State) (c : Nat) (st : BitVec 64) : (s.setLstat c st).cwords = s.cwords := rfl
@[simp] theorem State.setLstat_roLines (s : State) (c : Nat) (st : BitVec 64) : (s.setLstat c st).roLines = s.roLines := rfl
@[simp] theorem State.setLstat_slog (s : State) (c : Nat) (st : BitVec 64) : (s.setLstat c st).slog = s.slog := rfl
@[simp] theorem State.setLstat_trans (s : State) (c : Nat) (st : BitVec 64) : (s.setLstat c st).trans = s.trans := rfl
@[simp] theorem State.setLstat_lines (s : State) (c : Nat) (st : BitVec 64) : (s.setLstat c st).lines = s.lines := rfl
@[simp] theorem State.setLstat_msgs (s : State) (c : Nat) (st : BitVec 64) : (s.setLstat c st).msgs = s.msgs := rfl
@[simp] theorem State.setLstat_hallgrp (s : State) (c : Nat) (st : BitVec 64) : (s.setLstat c st).hallgrp = s.hallgrp := rfl
@[simp] theorem State.setLstat_hallseq (s : State) (c : Nat) (st : BitVec 64) : (s.setLstat c st).hallseq = s.hallseq := rfl
@[simp] theorem State.setLstat_hallkey (s : State) (c : Nat) (st : BitVec 64) : (s.setLstat c st).hallkey = s.hallkey := rfl
@[simp] theorem State.setLstat_cfgseq (s : State) (c : Nat) (st : BitVec 64) : (s.setLstat c st).cfgseq = s.cfgseq := rfl
@[simp] theorem State.setLstat_mcast (s : State) (c : Nat) (st : BitVec 64) : (s.setLstat c st).mcast = s.mcast := rfl
@[simp] theorem State.setLstat_hallCap (s : State) (c : Nat) (st : BitVec 64) : (s.setLstat c st).hallCap = s.hallCap := rfl
@[simp] theorem State.setLstat_elec (s : State) (c : Nat) (st : BitVec 64) : (s.setLstat c st).elec = s.elec := rfl
@[simp] theorem State.setLstat_debugWord (s : State) (c : Nat) (st : BitVec 64) : (s.setLstat c st).debugWord = s.debugWord := rfl
@[simp] theorem State.setLstat_answers (s : State) (c : Nat) (st : BitVec 64) : (s.setLstat c st).answers = s.answers := rfl

/-! ### Threads -/

@[simp] theorem Thread.setV_pc (th : Thread) (r : Nat) (x : BitVec 32) : (th.setV r x).pc = th.pc := rfl
@[simp] theorem Thread.setV_preds (th : Thread) (r : Nat) (x : BitVec 32) : (th.setV r x).preds = th.preds := rfl
@[simp] theorem Thread.setV_lc (th : Thread) (r : Nat) (x : BitVec 32) : (th.setV r x).lc = th.lc := rfl
@[simp] theorem Thread.setV_lr (th : Thread) (r : Nat) (x : BitVec 32) : (th.setV r x).lr = th.lr := rfl
@[simp] theorem Thread.setV_jst (th : Thread) (r : Nat) (x : BitVec 32) : (th.setV r x).jst = th.jst := rfl
@[simp] theorem Thread.setV_tcause (th : Thread) (r : Nat) (x : BitVec 32) : (th.setV r x).tcause = th.tcause := rfl
@[simp] theorem Thread.setV_tepc (th : Thread) (r : Nat) (x : BitVec 32) : (th.setV r x).tepc = th.tepc := rfl
@[simp] theorem Thread.setV_clkhi (th : Thread) (r : Nat) (x : BitVec 32) : (th.setV r x).clkhi = th.clkhi := rfl
@[simp] theorem Thread.setV_status (th : Thread) (r : Nat) (x : BitVec 32) : (th.setV r x).status = th.status := rfl
@[simp] theorem Thread.setV_outs (th : Thread) (r : Nat) (x : BitVec 32) : (th.setV r x).outs = th.outs := rfl
@[simp] theorem Thread.setV_arrived (th : Thread) (r : Nat) (x : BitVec 32) : (th.setV r x).arrived = th.arrived := rfl
@[simp] theorem Thread.setV_bodies (th : Thread) (r : Nat) (x : BitVec 32) : (th.setV r x).bodies = th.bodies := rfl
@[simp] theorem Thread.setPred_pc (th : Thread) (p : Nat) (b : Bool) : (th.setPred p b).pc = th.pc := rfl
@[simp] theorem Thread.setPred_v (th : Thread) (p : Nat) (b : Bool) : (th.setPred p b).v = th.v := rfl
@[simp] theorem Thread.setPred_lc (th : Thread) (p : Nat) (b : Bool) : (th.setPred p b).lc = th.lc := rfl
@[simp] theorem Thread.setPred_lr (th : Thread) (p : Nat) (b : Bool) : (th.setPred p b).lr = th.lr := rfl
@[simp] theorem Thread.setPred_jst (th : Thread) (p : Nat) (b : Bool) : (th.setPred p b).jst = th.jst := rfl
@[simp] theorem Thread.setPred_tcause (th : Thread) (p : Nat) (b : Bool) : (th.setPred p b).tcause = th.tcause := rfl
@[simp] theorem Thread.setPred_tepc (th : Thread) (p : Nat) (b : Bool) : (th.setPred p b).tepc = th.tepc := rfl
@[simp] theorem Thread.setPred_clkhi (th : Thread) (p : Nat) (b : Bool) : (th.setPred p b).clkhi = th.clkhi := rfl
@[simp] theorem Thread.setPred_status (th : Thread) (p : Nat) (b : Bool) : (th.setPred p b).status = th.status := rfl
@[simp] theorem Thread.setPred_outs (th : Thread) (p : Nat) (b : Bool) : (th.setPred p b).outs = th.outs := rfl
@[simp] theorem Thread.setPred_arrived (th : Thread) (p : Nat) (b : Bool) : (th.setPred p b).arrived = th.arrived := rfl
@[simp] theorem Thread.setPred_poison (th : Thread) (p : Nat) (b : Bool) : (th.setPred p b).poison = th.poison := rfl
@[simp] theorem Thread.setPred_bodies (th : Thread) (p : Nat) (b : Bool) : (th.setPred p b).bodies = th.bodies := rfl
@[simp] theorem Thread.addOut_pc (th : Thread) (o : Out) : (th.addOut o).pc = th.pc := rfl
@[simp] theorem Thread.addOut_v (th : Thread) (o : Out) : (th.addOut o).v = th.v := rfl
@[simp] theorem Thread.addOut_preds (th : Thread) (o : Out) : (th.addOut o).preds = th.preds := rfl
@[simp] theorem Thread.addOut_lc (th : Thread) (o : Out) : (th.addOut o).lc = th.lc := rfl
@[simp] theorem Thread.addOut_lr (th : Thread) (o : Out) : (th.addOut o).lr = th.lr := rfl
@[simp] theorem Thread.addOut_jst (th : Thread) (o : Out) : (th.addOut o).jst = th.jst := rfl
@[simp] theorem Thread.addOut_tcause (th : Thread) (o : Out) : (th.addOut o).tcause = th.tcause := rfl
@[simp] theorem Thread.addOut_tepc (th : Thread) (o : Out) : (th.addOut o).tepc = th.tepc := rfl
@[simp] theorem Thread.addOut_clkhi (th : Thread) (o : Out) : (th.addOut o).clkhi = th.clkhi := rfl
@[simp] theorem Thread.addOut_status (th : Thread) (o : Out) : (th.addOut o).status = th.status := rfl
@[simp] theorem Thread.addOut_arrived (th : Thread) (o : Out) : (th.addOut o).arrived = th.arrived := rfl
@[simp] theorem Thread.addOut_poison (th : Thread) (o : Out) : (th.addOut o).poison = th.poison := rfl
@[simp] theorem Thread.addOut_bodies (th : Thread) (o : Out) : (th.addOut o).bodies = th.bodies := rfl

/-! ### Teams -/

@[simp] theorem Team.modLanes_s (t : Team) (m : BitVec 64) (f : Nat → Thread → Thread) : (t.modLanes m f).s = t.s := rfl
@[simp] theorem Team.modThread_s (t : Team) (l : Nat) (f : Thread → Thread) : (t.modThread l f).s = t.s := rfl
@[simp] theorem Team.modLanes_xpat (t : Team) (m : BitVec 64) (f : Nat → Thread → Thread) : (t.modLanes m f).xpat = t.xpat := rfl
@[simp] theorem Team.modThread_xpat (t : Team) (l : Nat) (f : Thread → Thread) : (t.modThread l f).xpat = t.xpat := rfl
@[simp] theorem Team.modLanes_jord (t : Team) (m : BitVec 64) (f : Nat → Thread → Thread) : (t.modLanes m f).jord = t.jord := rfl
@[simp] theorem Team.modThread_jord (t : Team) (l : Nat) (f : Thread → Thread) : (t.modThread l f).jord = t.jord := rfl
@[simp] theorem Team.modLanes_waitlim (t : Team) (m : BitVec 64) (f : Nat → Thread → Thread) : (t.modLanes m f).waitlim = t.waitlim := rfl
@[simp] theorem Team.modThread_waitlim (t : Team) (l : Nat) (f : Thread → Thread) : (t.modThread l f).waitlim = t.waitlim := rfl
@[simp] theorem Team.modLanes_ext (t : Team) (m : BitVec 64) (f : Nat → Thread → Thread) : (t.modLanes m f).ext = t.ext := rfl
@[simp] theorem Team.modThread_ext (t : Team) (l : Nat) (f : Thread → Thread) : (t.modThread l f).ext = t.ext := rfl
@[simp] theorem Team.modLanes_extReserved (t : Team) (m : BitVec 64) (f : Nat → Thread → Thread) : (t.modLanes m f).extReserved = t.extReserved := rfl
@[simp] theorem Team.modThread_extReserved (t : Team) (l : Nat) (f : Thread → Thread) : (t.modThread l f).extReserved = t.extReserved := rfl
@[simp] theorem Team.modLanes_uouts (t : Team) (m : BitVec 64) (f : Nat → Thread → Thread) : (t.modLanes m f).uouts = t.uouts := rfl
@[simp] theorem Team.modThread_uouts (t : Team) (l : Nat) (f : Thread → Thread) : (t.modThread l f).uouts = t.uouts := rfl
@[simp] theorem Team.modLanes_ages (t : Team) (m : BitVec 64) (f : Nat → Thread → Thread) : (t.modLanes m f).ages = t.ages := rfl
@[simp] theorem Team.modThread_ages (t : Team) (l : Nat) (f : Thread → Thread) : (t.modThread l f).ages = t.ages := rfl
@[simp] theorem Team.modLanes_blockTurn (t : Team) (m : BitVec 64) (f : Nat → Thread → Thread) : (t.modLanes m f).blockTurn = t.blockTurn := rfl
@[simp] theorem Team.modThread_blockTurn (t : Team) (l : Nat) (f : Thread → Thread) : (t.modThread l f).blockTurn = t.blockTurn := rfl
@[simp] theorem Team.modLanes_poison (t : Team) (m : BitVec 64) (f : Nat → Thread → Thread) : (t.modLanes m f).poison = t.poison := rfl
@[simp] theorem Team.modThread_poison (t : Team) (l : Nat) (f : Thread → Thread) : (t.modThread l f).poison = t.poison := rfl
@[simp] theorem Team.modLanes_sOrder (t : Team) (m : BitVec 64) (f : Nat → Thread → Thread) : (t.modLanes m f).sOrder = t.sOrder := rfl
@[simp] theorem Team.modThread_sOrder (t : Team) (l : Nat) (f : Thread → Thread) : (t.modThread l f).sOrder = t.sOrder := rfl

/-! ### Workgroups -/

@[simp] theorem Wg.modTeam_uid (w : Wg) (t : Nat) (f : Team → Team) : (w.modTeam t f).uid = w.uid := rfl
@[simp] theorem Wg.mapThreads_uid (w : Wg) (f : Team → Thread → Thread) : (w.mapThreads f).uid = w.uid := rfl
@[simp] theorem Wg.modTeam_ctx (w : Wg) (t : Nat) (f : Team → Team) : (w.modTeam t f).ctx = w.ctx := rfl
@[simp] theorem Wg.mapThreads_ctx (w : Wg) (f : Team → Thread → Thread) : (w.mapThreads f).ctx = w.ctx := rfl
@[simp] theorem Wg.modTeam_launch (w : Wg) (t : Nat) (f : Team → Team) : (w.modTeam t f).launch = w.launch := rfl
@[simp] theorem Wg.mapThreads_launch (w : Wg) (f : Team → Thread → Thread) : (w.mapThreads f).launch = w.launch := rfl
@[simp] theorem Wg.modTeam_wgid (w : Wg) (t : Nat) (f : Team → Team) : (w.modTeam t f).wgid = w.wgid := rfl
@[simp] theorem Wg.mapThreads_wgid (w : Wg) (f : Team → Thread → Thread) : (w.mapThreads f).wgid = w.wgid := rfl
@[simp] theorem Wg.modTeam_nwg (w : Wg) (t : Nat) (f : Team → Team) : (w.modTeam t f).nwg = w.nwg := rfl
@[simp] theorem Wg.mapThreads_nwg (w : Wg) (f : Team → Thread → Thread) : (w.mapThreads f).nwg = w.nwg := rfl
@[simp] theorem Wg.modTeam_lcore (w : Wg) (t : Nat) (f : Team → Team) : (w.modTeam t f).lcore = w.lcore := rfl
@[simp] theorem Wg.mapThreads_lcore (w : Wg) (f : Team → Thread → Thread) : (w.mapThreads f).lcore = w.lcore := rfl
@[simp] theorem Wg.modTeam_ldie (w : Wg) (t : Nat) (f : Team → Team) : (w.modTeam t f).ldie = w.ldie := rfl
@[simp] theorem Wg.mapThreads_ldie (w : Wg) (f : Team → Thread → Thread) : (w.mapThreads f).ldie = w.ldie := rfl
@[simp] theorem Wg.modTeam_ndie (w : Wg) (t : Nat) (f : Team → Team) : (w.modTeam t f).ndie = w.ndie := rfl
@[simp] theorem Wg.mapThreads_ndie (w : Wg) (f : Team → Thread → Thread) : (w.mapThreads f).ndie = w.ndie := rfl
@[simp] theorem Wg.modTeam_die (w : Wg) (t : Nat) (f : Team → Team) : (w.modTeam t f).die = w.die := rfl
@[simp] theorem Wg.mapThreads_die (w : Wg) (f : Team → Thread → Thread) : (w.mapThreads f).die = w.die := rfl
@[simp] theorem Wg.modTeam_core (w : Wg) (t : Nat) (f : Team → Team) : (w.modTeam t f).core = w.core := rfl
@[simp] theorem Wg.mapThreads_core (w : Wg) (f : Team → Thread → Thread) : (w.mapThreads f).core = w.core := rfl
@[simp] theorem Wg.modTeam_nlive (w : Wg) (t : Nat) (f : Team → Team) : (w.modTeam t f).nlive = w.nlive := rfl
@[simp] theorem Wg.mapThreads_nlive (w : Wg) (f : Team → Thread → Thread) : (w.mapThreads f).nlive = w.nlive := rfl
@[simp] theorem Wg.modTeam_g (w : Wg) (t : Nat) (f : Team → Team) : (w.modTeam t f).g = w.g := rfl
@[simp] theorem Wg.mapThreads_g (w : Wg) (f : Team → Thread → Thread) : (w.mapThreads f).g = w.g := rfl
@[simp] theorem Wg.modTeam_barriers (w : Wg) (t : Nat) (f : Team → Team) : (w.modTeam t f).barriers = w.barriers := rfl
@[simp] theorem Wg.mapThreads_barriers (w : Wg) (f : Team → Thread → Thread) : (w.mapThreads f).barriers = w.barriers := rfl
@[simp] theorem Wg.modTeam_shapes (w : Wg) (t : Nat) (f : Team → Team) : (w.modTeam t f).shapes = w.shapes := rfl
@[simp] theorem Wg.mapThreads_shapes (w : Wg) (f : Team → Thread → Thread) : (w.mapThreads f).shapes = w.shapes := rfl
@[simp] theorem Wg.modTeam_scratch (w : Wg) (t : Nat) (f : Team → Team) : (w.modTeam t f).scratch = w.scratch := rfl
@[simp] theorem Wg.mapThreads_scratch (w : Wg) (f : Team → Thread → Thread) : (w.mapThreads f).scratch = w.scratch := rfl
@[simp] theorem Wg.modTeam_units (w : Wg) (t : Nat) (f : Team → Team) : (w.modTeam t f).units = w.units := rfl
@[simp] theorem Wg.mapThreads_units (w : Wg) (f : Team → Thread → Thread) : (w.mapThreads f).units = w.units := rfl
@[simp] theorem Wg.modTeam_span (w : Wg) (t : Nat) (f : Team → Team) : (w.modTeam t f).span = w.span := rfl
@[simp] theorem Wg.mapThreads_span (w : Wg) (f : Team → Thread → Thread) : (w.mapThreads f).span = w.span := rfl
@[simp] theorem Wg.modTeam_bankModes (w : Wg) (t : Nat) (f : Team → Team) : (w.modTeam t f).bankModes = w.bankModes := rfl
@[simp] theorem Wg.mapThreads_bankModes (w : Wg) (f : Team → Thread → Thread) : (w.mapThreads f).bankModes = w.bankModes := rfl
@[simp] theorem Wg.modTeam_queues (w : Wg) (t : Nat) (f : Team → Team) : (w.modTeam t f).queues = w.queues := rfl
@[simp] theorem Wg.mapThreads_queues (w : Wg) (f : Team → Thread → Thread) : (w.mapThreads f).queues = w.queues := rfl
@[simp] theorem Wg.modTeam_urgent (w : Wg) (t : Nat) (f : Team → Team) : (w.modTeam t f).urgent = w.urgent := rfl
@[simp] theorem Wg.mapThreads_urgent (w : Wg) (f : Team → Thread → Thread) : (w.mapThreads f).urgent = w.urgent := rfl
@[simp] theorem Wg.modTeam_frozen (w : Wg) (t : Nat) (f : Team → Team) : (w.modTeam t f).frozen = w.frozen := rfl
@[simp] theorem Wg.mapThreads_frozen (w : Wg) (f : Team → Thread → Thread) : (w.mapThreads f).frozen = w.frozen := rfl
@[simp] theorem Wg.modTeam_poison (w : Wg) (t : Nat) (f : Team → Team) : (w.modTeam t f).poison = w.poison := rfl
@[simp] theorem Wg.mapThreads_poison (w : Wg) (f : Team → Thread → Thread) : (w.mapThreads f).poison = w.poison := rfl
@[simp] theorem Wg.modTeam_gpoison (w : Wg) (t : Nat) (f : Team → Team) : (w.modTeam t f).gpoison = w.gpoison := rfl
@[simp] theorem Wg.mapThreads_gpoison (w : Wg) (f : Team → Thread → Thread) : (w.mapThreads f).gpoison = w.gpoison := rfl

/-! ### Uniform registers -/

/-- A write of a uniform register leaves every other field of the team. -/
theorem Team.setS_rest (t : Team) (r : Nat) (x : BitVec 64) :
    (t.setS r x).threads = t.threads ∧ (t.setS r x).xpat = t.xpat ∧ (t.setS r x).jord = t.jord
      ∧ (t.setS r x).waitlim = t.waitlim ∧ (t.setS r x).ext = t.ext := by
  unfold Team.setS
  split <;> exact ⟨rfl, rfl, rfl, rfl, rfl⟩
@[simp] theorem Team.setS_threads (t : Team) (r : Nat) (x : BitVec 64) : (t.setS r x).threads = t.threads :=
  (t.setS_rest r x).1
@[simp] theorem Team.setS_xpat (t : Team) (r : Nat) (x : BitVec 64) : (t.setS r x).xpat = t.xpat := (t.setS_rest r x).2.1
@[simp] theorem Team.setS_jord (t : Team) (r : Nat) (x : BitVec 64) : (t.setS r x).jord = t.jord := (t.setS_rest r x).2.2.1
@[simp] theorem Team.setS_waitlim (t : Team) (r : Nat) (x : BitVec 64) : (t.setS r x).waitlim = t.waitlim :=
  (t.setS_rest r x).2.2.2.1
@[simp] theorem Team.setS_ext (t : Team) (r : Nat) (x : BitVec 64) : (t.setS r x).ext = t.ext := (t.setS_rest r x).2.2.2.2

/-! ### Outcomes of parts of the state that an update does not reach -/

@[simp] theorem State.ctx_modWg (s : State) (u : Nat) (f : Wg → Wg) (c : Nat) : (s.modWg u f).ctx c = s.ctx c := rfl
@[simp] theorem State.ctx_modTeam (s : State) (u t : Nat) (f : Team → Team) (c : Nat) : (s.modTeam u t f).ctx c = s.ctx c := rfl
@[simp] theorem State.ctx_modThread (s : State) (u t l : Nat) (f : Thread → Thread) (c : Nat) :
    (s.modThread u t l f).ctx c = s.ctx c := rfl
@[simp] theorem State.ctx_modLanes (s : State) (u t : Nat) (m : BitVec 64) (f : Nat → Thread → Thread) (c : Nat) :
    (s.modLanes u t m f).ctx c = s.ctx c := rfl
@[simp] theorem State.record_modWg (s : State) (u : Nat) (f : Wg → Wg) (r : Nat) : (s.modWg u f).record r = s.record r := rfl
@[simp] theorem State.record_modTeam (s : State) (u t : Nat) (f : Team → Team) (r : Nat) :
    (s.modTeam u t f).record r = s.record r := rfl
@[simp] theorem State.record_modThread (s : State) (u t l : Nat) (f : Thread → Thread) (r : Nat) :
    (s.modThread u t l f).record r = s.record r := rfl
@[simp] theorem State.record_modLanes (s : State) (u t : Nat) (m : BitVec 64) (f : Nat → Thread → Thread) (r : Nat) :
    (s.modLanes u t m f).record r = s.record r := rfl
@[simp] theorem State.wg_modCtx (s : State) (c : Nat) (f : Ctx → Ctx) (u : Nat) : (s.modCtx c f).wg u = s.wg u := rfl
@[simp] theorem State.wg_modRec (s : State) (r : Nat) (f : Rec → Rec) (u : Nat) : (s.modRec r f).wg u = s.wg u := rfl
@[simp] theorem State.wg_modDie (s : State) (d : Nat) (f : Die → Die) (u : Nat) : (s.modDie d f).wg u = s.wg u := rfl
@[simp] theorem State.wg_modPart (s : State) (p : Nat) (f : Part → Part) (u : Nat) : (s.modPart p f).wg u = s.wg u := rfl

end Sys2Proof.Machine
end

