-- ==== Sys2Proof/Laws/Store.lean ====
section
/-!
SUPPORT. Sparse stores: a read after a write, a write elsewhere, and the canonical form, which every write keeps.
-/
namespace Sys2Proof.Machine

variable {w : Nat}

/-! ## Reads -/

theorem spGet_spDel (m : Sparse w) (k j : Nat) : spGet (spDel m k) j = if j = k then 0 else spGet m j := by
  induction m with
  | nil => simp [spDel, spGet]
  | cons e t ih =>
    obtain ⟨a, v⟩ := e
    by_cases ha : a = k
    · by_cases hj : j = k
      · subst hj
        simpa [spDel, ha] using ih
      · have hk : ¬ k = j := fun h => hj h.symm
        simp [spDel, spGet, ha, ih, hj, hk]
    · by_cases hj : a = j
      · have hk : ¬ j = k := fun h => ha (hj.trans h)
        simp [spDel, spGet, hj, hk]
      · simp [spDel, spGet, ha, hj, ih]

theorem spGet_spIns (m : Sparse w) (k j : Nat) (v : BitVec w) :
    spGet (spIns m k v) j = if j = k then v else spGet m j := by
  induction m with
  | nil =>
    by_cases h : j = k
    · simp [spIns, spGet, h]
    · have h' : ¬ k = j := fun e => h e.symm
      simp [spIns, spGet, h, h']
  | cons e t ih =>
    obtain ⟨a, x⟩ := e
    unfold spIns
    split
    · by_cases h : j = k
      · simp [spGet, h]
      · have h' : ¬ k = j := fun e => h e.symm
        simp [spGet, h, h']
    · split
      · rename_i h1 h2
        by_cases h : j = k
        · simp [spGet, h]
        · have h' : ¬ k = j := fun e => h e.symm
          simp [spGet, h, h', h2]
      · rename_i h1 h2
        by_cases ha : a = j
        · have h' : ¬ j = k := fun e => h2 (ha.trans e)
          simp [spGet, ha, h']
        · simp [spGet, ha, ih]

/-- A read of a key gives what was written there last. -/
theorem spGet_spSet (m : Sparse w) (k j : Nat) (v : BitVec w) :
    spGet (spSet m k v) j = if j = k then v else spGet m j := by
  unfold spSet
  split
  · rename_i h
    rw [spGet_spDel, h]
  · exact spGet_spIns m k j v

@[simp] theorem spGet_spSet_same (m : Sparse w) (k : Nat) (v : BitVec w) : spGet (spSet m k v) k = v := by
  simp [spGet_spSet]
theorem spGet_spSet_other (m : Sparse w) {k j : Nat} (h : j ≠ k) (v : BitVec w) : spGet (spSet m k v) j = spGet m j := by
  simp [spGet_spSet, h]

theorem spGet_spClear (m : Sparse w) (lo hi j : Nat) :
    spGet (spClear m lo hi) j = if lo ≤ j ∧ j < hi then 0 else spGet m j := by
  induction m with
  | nil => simp [spClear, spGet]
  | cons e t ih =>
    obtain ⟨a, v⟩ := e
    by_cases ha : lo ≤ a ∧ a < hi
    · by_cases hj : a = j
      · subst hj
        simp [spClear, ha, ih]
      · simp [spClear, ha, ih, spGet, hj]
    · by_cases hj : a = j
      · subst hj
        simp [spClear, ha, spGet]
      · simp [spClear, ha, spGet, hj, ih]

/-! ## Bytes in little-endian order (R122) -/

/-- A write of `n` bytes leaves every byte outside them. -/
theorem spGet_writeLE_outside (n : Nat) : ∀ (m : Sparse 8) (a v j : Nat), j < a ∨ a + n ≤ j →
    spGet (writeLE m a n v) j = spGet m j := by
  induction n with
  | zero => intro m a v j _; rfl
  | succ k ih =>
    intro m a v j h
    rw [writeLE, ih _ _ _ _ (by omega), spGet_spSet_other _ (by omega)]

theorem readLE_writeLE_outside (n k : Nat) : ∀ (m : Sparse 8) (a v b : Nat), b + k ≤ a ∨ a + n ≤ b →
    readLE (writeLE m a n v) b k = readLE m b k := by
  induction k with
  | zero => intro m a v b _; rfl
  | succ k ih =>
    intro m a v b h
    rw [readLE, readLE, spGet_writeLE_outside _ _ _ _ _ (by omega), ih _ _ _ _ (by omega)]

/-- `n` bytes written at an address read back there. -/
theorem readLE_writeLE (n : Nat) : ∀ (m : Sparse 8) (a v : Nat), readLE (writeLE m a n v) a n = v % 256 ^ n := by
  induction n with
  | zero => intro m a v; simp [readLE, Nat.mod_one]
  | succ k ih =>
    intro m a v
    rw [readLE, writeLE, spGet_writeLE_outside _ _ _ _ _ (by omega), spGet_spSet_same, ih]
    rw [BitVec.toNat_ofNat, Nat.pow_succ' (n := k)]
    exact (Nat.mod_mul (x := v) (a := 256) (b := 256 ^ k)).symm

theorem readLE_lt (n : Nat) : ∀ (m : Sparse 8) (a : Nat), readLE m a n < 256 ^ n := by
  induction n with
  | zero => intro m a; simp [readLE]
  | succ k ih =>
    intro m a
    have h1 := ih m (a + 1)
    have h2 := (spGet m a).isLt
    rw [readLE, Nat.pow_succ']
    omega

/-! ## The canonical form -/

theorem spWfFrom_mono (m : Sparse w) {lo lo' : Nat} (h : lo' ≤ lo) (hw : spWfFrom lo m = true) : spWfFrom lo' m = true := by
  cases m with
  | nil => rfl
  | cons e t =>
    obtain ⟨k, v⟩ := e
    simp only [spWfFrom, Bool.and_eq_true, decide_eq_true_eq, bne_iff_ne] at hw ⊢
    exact ⟨⟨by omega, hw.1.2⟩, hw.2⟩

/-- Dropping entries keeps the form. -/
theorem spWfFrom_filter (p : Nat × BitVec w → Bool) (m : Sparse w) : ∀ lo, spWfFrom lo m = true →
    spWfFrom lo (m.filter p) = true := by
  induction m with
  | nil => intro lo _; rfl
  | cons e t ih =>
    obtain ⟨k, v⟩ := e
    intro lo h
    simp only [spWfFrom, Bool.and_eq_true, decide_eq_true_eq] at h
    rw [List.filter_cons]
    split
    · simp only [spWfFrom, Bool.and_eq_true, decide_eq_true_eq]
      exact ⟨h.1, ih _ h.2⟩
    · exact spWfFrom_mono _ (by omega) (ih _ h.2)

theorem spDel_eq_filter (m : Sparse w) (k : Nat) : spDel m k = m.filter fun e => e.1 != k := by
  induction m with
  | nil => rfl
  | cons e t ih =>
    obtain ⟨a, v⟩ := e
    by_cases h : a = k <;> simp [spDel, h, ih]

theorem spClear_eq_filter (m : Sparse w) (lo hi : Nat) :
    spClear m lo hi = m.filter fun e => !(decide (lo ≤ e.1) && decide (e.1 < hi)) := by
  induction m with
  | nil => rfl
  | cons e t ih =>
    obtain ⟨a, v⟩ := e
    rw [List.filter_cons]
    by_cases h : lo ≤ a ∧ a < hi
    · simp [spClear, h, ih]
    · have h' : (!(decide (lo ≤ a) && decide (a < hi))) = true := by simpa [← Bool.decide_and] using h
      simp only [spClear, h, if_false, h', if_true, ih]

theorem spWfFrom_spIns (m : Sparse w) (k : Nat) (v : BitVec w) (hv : v ≠ 0) : ∀ lo, lo ≤ k → spWfFrom lo m = true →
    spWfFrom lo (spIns m k v) = true := by
  induction m with
  | nil =>
    intro lo hl _
    simp only [spIns, spWfFrom, Bool.and_eq_true, decide_eq_true_eq, bne_iff_ne]
    exact ⟨⟨hl, hv⟩, trivial⟩
  | cons e t ih =>
    obtain ⟨a, x⟩ := e
    intro lo hl h
    simp only [spWfFrom, Bool.and_eq_true, decide_eq_true_eq] at h
    unfold spIns
    split
    · rename_i hk
      simp only [spWfFrom, Bool.and_eq_true, decide_eq_true_eq, bne_iff_ne]
      exact ⟨⟨hl, hv⟩, ⟨by omega, by simpa using h.1.2⟩, h.2⟩
    · split
      · rename_i hk ha
        subst ha
        simp only [spWfFrom, Bool.and_eq_true, decide_eq_true_eq, bne_iff_ne]
        exact ⟨⟨hl, hv⟩, h.2⟩
      · rename_i hk ha
        simp only [spWfFrom, Bool.and_eq_true, decide_eq_true_eq]
        exact ⟨h.1, ih _ (by omega) h.2⟩

theorem spWf_filter {m : Sparse w} (h : spWf m = true) (p : Nat × BitVec w → Bool) : spWf (m.filter p) = true :=
  spWfFrom_filter p m 0 h
theorem spWf_spDel {m : Sparse w} (h : spWf m = true) (k : Nat) : spWf (spDel m k) = true := by
  rw [spDel_eq_filter]; exact spWf_filter h _
theorem spWf_spClear {m : Sparse w} (h : spWf m = true) (lo hi : Nat) : spWf (spClear m lo hi) = true := by
  rw [spClear_eq_filter]; exact spWf_filter h _
/-- A write of one key keeps the form. -/
theorem spWf_spSet {m : Sparse w} (h : spWf m = true) (k : Nat) (v : BitVec w) : spWf (spSet m k v) = true := by
  unfold spSet
  split
  · exact spWf_spDel h k
  · rename_i hv
    exact spWfFrom_spIns m k v hv 0 (Nat.zero_le k) h
theorem spWfFrom_append (b : Sparse w) (k : Nat) (hb : spWfFrom k b = true) : ∀ (a : Sparse w) (lo : Nat), lo ≤ k →
    spWfFrom lo a = true → (∀ e ∈ a, e.1 < k) → spWfFrom lo (a ++ b) = true := by
  intro a
  induction a with
  | nil => intro lo hl _ _; exact spWfFrom_mono b hl hb
  | cons e t ih =>
    intro lo hl h hk
    simp only [List.cons_append, spWfFrom, Bool.and_eq_true, decide_eq_true_eq] at h ⊢
    exact ⟨h.1, ih _ (hk e List.mem_cons_self) h.2 fun x hx => hk x (List.mem_cons_of_mem e hx)⟩

theorem spWfFrom_spRun (f : Nat → BitVec w) (k : Nat) (b : Sparse w) (n : Nat) : ∀ i, spWfFrom (k + i + n) b = true →
    spWfFrom (k + i) (spRun f k i n ++ b) = true := by
  induction n with
  | zero => intro i hb; exact hb
  | succ n ih =>
    intro i hb
    have h := ih (i + 1) (by rw [show k + (i + 1) + n = k + i + (n + 1) by omega]; exact hb)
    unfold spRun
    split
    · exact spWfFrom_mono _ (by omega) h
    · rename_i hf
      simp only [List.cons_append, spWfFrom, Bool.and_eq_true, decide_eq_true_eq, bne_iff_ne]
      exact ⟨⟨Nat.le_refl _, hf⟩, h⟩

/-- The entries from a key on, as entries of a store that begins there. -/
theorem spWfFrom_above (m : Sparse w) (k : Nat) : ∀ lo, spWfFrom lo m = true →
    spWfFrom k (m.filter fun e => decide (k ≤ e.1)) = true := by
  induction m with
  | nil => intro lo _; rfl
  | cons e t ih =>
    intro lo h
    simp only [spWfFrom, Bool.and_eq_true, decide_eq_true_eq] at h
    rw [List.filter_cons]
    split
    · rename_i hk
      simp only [spWfFrom, Bool.and_eq_true, decide_eq_true_eq]
      exact ⟨⟨of_decide_eq_true hk, h.1.2⟩, spWfFrom_filter _ t _ h.2⟩
    · exact ih _ h.2

/-- Giving a run of keys the values of a function keeps the form. -/
theorem spWf_spFill {m : Sparse w} (h : spWf m = true) (k n : Nat) (f : Nat → BitVec w) : spWf (spFill m k n f) = true := by
  unfold spFill
  rw [List.append_assoc]
  refine spWfFrom_append _ k (spWfFrom_spRun f k _ n 0 ?_) _ 0 (Nat.zero_le k) (spWfFrom_filter _ m 0 h) fun e he => ?_
  · exact spWfFrom_above m (k + n) 0 h
  · exact of_decide_eq_true (List.mem_filter.mp he).2

/-- A write of bytes keeps the form. -/
theorem spWf_writeLE (n : Nat) : ∀ {m : Sparse 8} (_ : spWf m = true) (a v : Nat), spWf (writeLE m a n v) = true := by
  induction n with
  | zero => intro m h a v; exact h
  | succ k ih => intro m h a v; exact ih (spWf_spSet h a _) _ _

/-! ## Lists by index -/

theorem listGet_listModify {α : Type} (d : α) (f : α → α) : ∀ (l : List α) (n k : Nat),
    listGet d (listModify f l n) k = if k = n ∧ n < l.length then f (listGet d l k) else listGet d l k := by
  intro l
  induction l with
  | nil => intro n k; simp [listModify, listGet]
  | cons x t ih =>
    intro n k
    cases n with
    | zero => cases k <;> simp [listModify, listGet]
    | succ n => cases k <;> simp [listModify, listGet, ih]

@[simp] theorem length_listModify {α : Type} (f : α → α) : ∀ (l : List α) (n : Nat), (listModify f l n).length = l.length := by
  intro l
  induction l with
  | nil => intro n; rfl
  | cons x t ih => intro n; cases n <;> simp [listModify, ih]

@[simp] theorem length_mapIdxFrom {α β : Type} (f : Nat → α → β) : ∀ (l : List α) (n : Nat),
    (mapIdxFrom f n l).length = l.length := by
  intro l
  induction l with
  | nil => intro n; rfl
  | cons x t ih => intro n; simp [mapIdxFrom, ih]

theorem listGet_mapIdxFrom {α : Type} (d : α) (f : Nat → α → α) : ∀ (l : List α) (n k : Nat), k < l.length →
    listGet d (mapIdxFrom f n l) k = f (n + k) (listGet d l k) := by
  intro l
  induction l with
  | nil => intro n k h; simp at h
  | cons x t ih =>
    intro n k h
    cases k with
    | zero => rfl
    | succ k =>
      simp only [mapIdxFrom, listGet]
      rw [ih (n + 1) k (by simpa using h)]
      congr 1
      omega

@[simp] theorem length_mapWhere {α : Type} (p : α → Bool) (f : α → α) (l : List α) : (mapWhere p f l).length = l.length := by
  induction l with
  | nil => rfl
  | cons x t ih => simp [mapWhere, ih]

/-- The first element that passes a test, after the elements that pass it were changed into ones that still pass. -/
theorem findFirst_mapWhere {α : Type} (p : α → Bool) (f : α → α) (hf : ∀ x, p x = true → p (f x) = true) (l : List α) :
    findFirst p (mapWhere p f l) = (findFirst p l).map f := by
  induction l with
  | nil => rfl
  | cons x t ih =>
    by_cases h : p x = true
    · simp [mapWhere, findFirst, h, hf x h]
    · simp [mapWhere, findFirst, h, ih]

/-- A test that changed elements never pass nor passed finds what it found. -/
theorem findFirst_mapWhere_other {α : Type} (p q : α → Bool) (f : α → α) (hq : ∀ x, p x = true → q x = false ∧ q (f x) = false)
    (l : List α) : findFirst q (mapWhere p f l) = findFirst q l := by
  induction l with
  | nil => rfl
  | cons x t ih =>
    by_cases h : p x = true
    · simp [mapWhere, findFirst, h, (hq x h).1, (hq x h).2, ih]
    · simp [mapWhere, findFirst, h, ih]

end Sys2Proof.Machine
end

