-- ==== Sys2Proof/Laws/Memory.lean ====
section
/-!
SUPPORT. Memory: every operation that writes memory keeps its canonical form, and what a write leaves alone. An operation
that does not write memory keeps the form because it keeps memory (`State.Inv.of_mem`).
-/
namespace Sys2Proof.Machine

/-! ## The invariant -/

theorem State.Inv.of_mem {s s' : State} (h : s.Inv) (e : s'.mem = s.mem) : s'.Inv := by
  unfold State.Inv at *
  rw [e]; exact h

theorem reset_mem_wf : Memory.wf State.reset.mem = true := rfl

/-- A fold of steps that keep the invariant keeps it. -/
theorem State.Inv.foldl {α : Type} {f : State → α → State} (hf : ∀ s a, s.Inv → (f s a).Inv) (l : List α) :
    ∀ {s : State}, s.Inv → (l.foldl f s).Inv := by
  induction l with
  | nil => intro s h; exact h
  | cons x t ih => intro s h; exact ih (hf s x h)

/-- A fold over a store of steps that keep its form keeps it. -/
theorem spWf_foldl {α : Type} {w : Nat} {f : Sparse w → α → Sparse w} (hf : ∀ m a, spWf m = true → spWf (f m a) = true)
    (l : List α) : ∀ {m : Sparse w}, spWf m = true → spWf (l.foldl f m) = true := by
  induction l with
  | nil => intro m h; exact h
  | cons x t ih => intro m h; exact ih (hf m x h)

/-! ## Cluster caches and the point of coherence -/

theorem mergeDirty_wf {m : Sparse 8} (h : spWf m = true) (c : CWord) : spWf (mergeDirty m c) = true := by
  unfold mergeDirty
  refine spWf_foldl (fun m i hm => ?_) _ h
  split
  · exact spWf_spSet hm _ _
  · exact hm

theorem State.Inv.flush {s : State} (h : s.Inv) (p : CWord → Bool) : (s.flush p).Inv := by
  refine spWf_foldl (fun m c hm => ?_) s.cwords h
  split
  · exact mergeDirty_wf hm c
  · exact hm

theorem State.Inv.recall {s : State} (h : s.Inv) (w d c : Nat) : (s.recall w d c).Inv := (h.flush _).of_mem rfl
theorem State.Inv.writeBack {s : State} (h : s.Inv) (d c w : Nat) : (s.writeBack d c w).Inv :=
  ((h.recall w d c).flush fun x => x.at d c w || x.at d c (pairOf w)).of_mem rfl

theorem State.Inv.writeBackAll {s : State} (h : s.Inv) (p : CWord → Bool) : (s.writeBackAll p).Inv :=
  State.Inv.foldl (f := fun a (c : CWord) => a.writeBack c.die c.cluster c.word) (fun _ c ha => ha.writeBack _ _ c.word) _ h

theorem State.Inv.dropWords {s : State} (h : s.Inv) (p : CWord → Bool) : (s.dropWords p).Inv := (h.writeBackAll p).of_mem rfl

theorem State.Inv.publishCluster {s : State} (h : s.Inv) (d c k : Nat) : (s.publishCluster d c k).Inv := by
  unfold State.publishCluster
  split
  · exact h.writeBackAll _
  · exact h

theorem State.Inv.l2Write {s : State} (h : s.Inv) (k n v : Nat) : (s.l2Write k n v).Inv :=
  spWf_writeLE n (State.Inv.foldl (f := fun a w => a.recall w 24 0) (fun _ w ha => ha.recall w 24 0) (wordsOf k n) h) k v

theorem State.Inv.l2Read {s : State} (h : s.Inv) (k n : Nat) : (s.l2Read k n).1.Inv := h.flush _

theorem State.Inv.refresh {s : State} (h : s.Inv) (p : CWord → Bool) : (s.refresh p).Inv :=
  (h.flush fun c => s.inOwnedPair c && s.cwords.any fun d => p d && (d.word == c.word || d.word == pairOf c.word)).of_mem rfl

theorem State.Inv.trimSet {s : State} (h : s.Inv) (d c w : Nat) : (s.trimSet d c w).Inv := by
  unfold State.trimSet
  dsimp only
  split
  · exact h
  · exact h.dropWords _

theorem State.Inv.enterWord {s : State} (h : s.Inv) (d c w : Nat) (x : BitVec 32) (p : Bool) : (s.enterWord d c w x p).Inv :=
  State.Inv.trimSet (s := { s with cwords := s.cwords ++ [CWord.mk d c w x 0 false p] }) h d c w

theorem State.Inv.fillWord {s : State} (h : s.Inv) (d c : Nat) (p : Bool) (w : Nat) : (s.fillWord d c p w).Inv := by
  unfold State.fillWord
  split
  · exact h
  · exact ((h.flush _).enterWord d c w _ p).refresh _

theorem State.Inv.fillWords {s : State} (h : s.Inv) (d c : Nat) (p : Bool) (ws : List Nat) :
    (ws.foldl (fun a w => a.fillWord d c p w) s).Inv :=
  State.Inv.foldl (f := fun a w => a.fillWord d c p w) (fun _ w ha => ha.fillWord d c p w) ws h

theorem State.Inv.noccLoad {s : State} (h : s.Inv) (d c k n : Nat) : (s.noccLoad d c k n).1.Inv := (h.dropWords _).l2Read k n

theorem State.Inv.clusterLoad {s : State} (h : s.Inv) (d c : Nat) (p : Bool) (k n : Nat) : (s.clusterLoad d c p k n).1.Inv := by
  unfold State.clusterLoad
  split
  · exact h.noccLoad d c k n
  · exact h.fillWords d c p _

theorem State.Inv.clusterStore {s : State} (h : s.Inv) (d c k n v : Nat) : (s.clusterStore d c k n v).Inv := by
  unfold State.clusterStore
  split
  · exact h.l2Write k n v
  · exact (h.fillWords d c false (wordsOf k n)).of_mem rfl

theorem State.Inv.throughStore {s : State} (h : s.Inv) (d c k n v : Nat) : (s.throughStore d c k n v).Inv :=
  (h.l2Write k n v).of_mem rfl

theorem State.Inv.acquire {s : State} (h : s.Inv) (d c : Nat) : (s.acquire d c).Inv := by
  unfold State.acquire
  dsimp only
  exact State.Inv.refresh (s := { s with cwords := s.cwords.filter fun x =>
    !((x.die == d && x.cluster == c && !x.owned) && x.dirty == 0) }) h _

theorem State.Inv.land {s : State} (h : s.Inv) (x : Unacked) : (s.land x).Inv := by
  unfold State.land
  split
  · exact h.throughStore _ _ _ _ _
  · split
    · exact h.l2Write _ _ _
    · exact h

theorem State.Inv.landWhere {s : State} (h : s.Inv) (p : Unacked → Bool) : (s.landWhere p).Inv :=
  State.Inv.of_mem (State.Inv.foldl (f := State.land) (fun _ x ha => ha.land x)
    (s.unacked.filter fun x => (x.kind == 1 || x.kind == 2) && p x) h) rfl

theorem State.Inv.enterRo {s : State} (h : s.Inv) (r : RoLine) : (s.enterRo r).Inv := h.of_mem rfl

theorem State.Inv.roLoad {s : State} (h : s.Inv) (d c k n : Nat) (o : Bool) (i p : Nat) : (s.roLoad d c k n o i p).1.Inv := by
  unfold State.roLoad
  dsimp only
  split
  · exact h
  · dsimp only
    split
    · exact h
    · exact h.enterRo _
  · have h2 := h.l2Read (k / 128 * 128) 128
    generalize (s.l2Read (k / 128 * 128) 128) = x at h2 ⊢
    dsimp only
    repeat' split
    all_goals exact h2

theorem State.Inv.writeVa {s : State} (h : s.Inv) (c : Ctx) (d va n v : Nat) : (s.writeVa c d va n v).Inv := by
  unfold State.writeVa
  split
  · split
    · exact h.l2Write _ n v
    · exact h
  · exact h

theorem State.Inv.latticeWrite {s : State} (h : s.Inv) (d ia k n v : Nat) : (s.latticeWrite d ia k n v).Inv := by
  unfold State.latticeWrite
  split
  · exact h
  · exact State.Inv.of_mem (s := { s with mem := writeLE s.mem k n v, poison := unpoison s.poison k n })
      (spWf_writeLE n h k v) rfl

/-! ## Folds that leave memory alone -/

/-- A fold of steps that leave memory alone leaves it alone. -/
theorem State.foldl_mem {α : Type} {f : State → α → State} (hf : ∀ s a, (f s a).mem = s.mem) (l : List α) :
    ∀ s : State, (l.foldl f s).mem = s.mem := by
  induction l with
  | nil => intro s; rfl
  | cons x t ih => intro s; exact (ih (f s x)).trans (hf s x)

theorem State.settleAgain_mem (s : State) (u t l : Nat) : (s.settleAgain u t l).mem = s.mem := rfl

theorem State.reissueWaits_mem (s : State) (xs : List Waiter) : (s.reissueWaits xs).mem = s.mem := by
  unfold State.reissueWaits
  split
  · rfl
  · dsimp only
    exact List.foldlRecOn (motive := fun a : State => a.mem = s.mem) _ _ rfl fun _ ha _ _ => ha

theorem State.reissueWhere_mem (s : State) (p : Waiter → Bool) : (s.reissueWhere p).mem = s.mem := by
  unfold State.reissueWhere
  exact State.foldl_mem (fun a _ => a.reissueWaits_mem _) _ _

theorem State.restartWaits_mem (s : State) (u : Nat) : (s.restartWaits u).mem = s.mem := s.reissueWhere_mem _

/-! ## Frames -/

theorem State.Inv.zeroFrame {s : State} (h : s.Inv) (d f : Nat) : (s.zeroFrame d f).Inv := by
  unfold State.Inv Memory.wf State.zeroFrame
  exact spWf_spClear h _ _

theorem State.Inv.bottomFrame {s : State} (h : s.Inv) (d f ty : Nat) : (s.bottomFrame d f ty).Inv := by
  unfold State.bottomFrame
  dsimp only
  split
  · exact h.zeroFrame d f
  · exact spWf_spFill (h.zeroFrame d f) _ _ _

/-- A frame of a save area that takes an image keeps the form (R342). -/
theorem State.Inv.scrawlFrame {s : State} (h : s.Inv) (d f : Nat) : (s.scrawlFrame d f).Inv :=
  spWf_spFill (h.zeroFrame d f) _ _ _

theorem State.Inv.cipherPage {s : State} (h : s.Inv) (p : Nat) : (s.cipherPage p).Inv :=
  spWf_spFill (spWf_spClear h _ _) _ _ _

theorem State.Inv.putEntry {s : State} (h : s.Inv) (d t i v : Nat) : (s.putEntry d t i v).Inv := spWf_writeLE 8 h _ v

theorem State.Inv.joinAt {s : State} (h : s.Inv) (l : Line) (k : Nat) : (s.joinAt l k).Inv := by
  unfold State.joinAt
  dsimp only
  split
  · exact h
  · unfold State.Inv Memory.wf
    rw [State.modDie_mem]
    dsimp only
    generalize 256 = n
    exact spWf_writeLE n h k _

theorem hostBytes_wf {m : Sparse 8} (h : spWf m = true) : spWf (hostBytes m) = true := spWf_filter h _

theorem State.Inv.dropPages {s : State} (h : s.Inv) (d lo hi : Nat) (old : List Mapping) : (s.dropPages d lo hi old).Inv :=
  ((h.landWhere _).dropWords _).of_mem (State.reissueWhere_mem _ _)

theorem State.Inv.dropSpot {s : State} (h : s.Inv) (x : Option Nat × Nat) : (s.dropSpot x).Inv := by
  unfold State.dropSpot
  refine List.foldlRecOn (motive := State.Inv) _ _ h fun acc ha d _ => ?_
  exact List.foldlRecOn (motive := State.Inv) _ _ ha fun a hb m _ => hb.dropPages d m.page (m.page + 1) [m]

theorem State.modFrameOf_mem (s : State) (d f : Nat) (g : FrameEntry → FrameEntry) : (s.modFrameOf d f g).mem = s.mem := by
  unfold State.modFrameOf
  split <;> rfl

theorem State.Inv.moveBytes {s : State} (h : s.Inv) (a b : Nat) : (s.moveBytes a b).Inv :=
  spWf_spClear (spWf_foldl (fun _ _ hm => spWf_spSet hm _ _) _ (spWf_spClear h _ _)) _ _

theorem State.Inv.moveFrame {s : State} (h : s.Inv) (d f : Nat) (x : Option Nat × Nat) : (s.moveFrame d f x).Inv := by
  unfold State.moveFrame
  dsimp only
  have h2 := (h.dropSpot (some d, f)).moveBytes (devKey d (f * 65536)) (spotKey x)
  revert h2
  generalize (s.dropSpot (some d, f)).moveBytes (devKey d (f * 65536)) (spotKey x) = s2
  intro h2
  obtain ⟨_ | e, g⟩ := x
  · exact h2
  · dsimp only
    split
    · exact State.Inv.cipherPage (s := (s2.modFrameOf e g _).modDie d _) (h2.of_mem (s2.modFrameOf_mem e g _)) g
    · exact h2.of_mem (s2.modFrameOf_mem e g _)

/-! ## Operations that leave memory alone -/

@[simp] theorem State.ownerRecord_mem (s : State) (c : Nat) (o : OwnerInfo) : (s.ownerRecord c o).mem = s.mem := rfl
@[simp] theorem State.operatorRecord_mem (s : State) (d c k x n p : Nat) : (s.operatorRecord d c k x n p).mem = s.mem := rfl
@[simp] theorem State.countRefusal_mem (s : State) (c : Nat) : (s.countRefusal c).mem = s.mem := rfl
@[simp] theorem State.goOn_mem (s : State) (g : Group) : (s.goOn g).mem = s.mem := rfl
@[simp] theorem State.park_mem (s : State) (g : Group) (x : Status) : (s.park g x).mem = s.mem := rfl
@[simp] theorem State.status_mem (s : State) (g : Group) (w : Wg) (d : Nat) (x : BitVec 64) :
    (s.status g w d x).mem = s.mem := rfl
@[simp] theorem State.answer_mem (s : State) (g : Group) (d : SReg) (x : BitVec 64) :
    (s.answer g d x).mem = s.mem := rfl
@[simp] theorem State.refuse_mem (s : State) (g : Group) (w : Wg) (d : Nat) : (s.refuse g w d).mem = s.mem := rfl
@[simp] theorem State.pendUniform_mem (s : State) (g : Group) (r : List (Nat × BitVec 64)) :
    (s.pendUniform g r).mem = s.mem := rfl
@[simp] theorem State.laneLocal_mem (s : State) (g : Group) (w : Wg) (t : Team) (m : BitVec 64) (o : LaneOp) :
    (s.laneLocal g w t m o).mem = s.mem := rfl
@[simp] theorem State.arrive_mem (s : State) (g : Group) (w : Wg) (t : Team) (m x : BitVec 64) :
    (s.arrive g w t m x).mem = s.mem := rfl
@[simp] theorem State.completePhase_mem (s : State) (u b : Nat) : (s.completePhase u b).mem = s.mem := rfl

theorem State.barrierExit_mem (s : State) (u b l : Nat) : (s.barrierExit u b l).mem = s.mem := by
  unfold State.barrierExit
  dsimp only
  split
  · rfl
  · repeat' split
    all_goals rfl

theorem State.thawWg_mem (s : State) (u : Nat) : (s.thawWg u).mem = s.mem := State.restartWaits_mem _ u

/-- The victims of an urgent workgroup go on without a write to memory (R206, R323). -/
theorem State.continueVictim_mem (s : State) (d c : Nat) : (s.continueVictim d c).mem = s.mem := by
  unfold State.continueVictim
  split
  · rfl
  · exact State.foldl_mem State.thawWg_mem _ _

theorem State.urgentOver_mem (s : State) (u : Nat) : (s.urgentOver u).mem = s.mem := by
  unfold State.urgentOver
  split
  · exact s.continueVictim_mem _ _
  · rfl

theorem State.settleTeam_mem (s : State) (u t : Nat) : (s.settleTeam u t).mem = s.mem := by
  unfold State.settleTeam
  split
  · exact State.urgentOver_mem _ u
  · rfl

/-- A thread that leaves writes no memory. -/
theorem State.leave_mem (s : State) (u t l : Nat) : (s.leave u t l).mem = s.mem := by
  unfold State.leave
  rw [State.settleTeam_mem]
  generalize upFrom 0 16 = bs
  exact State.foldl_mem (fun x b => State.barrierExit_mem x u b _) bs _

/-- Delivering a trap writes no memory (R203). -/
theorem State.deliver_mem (s : State) (u t l : Nat) (k : TrapInfo) : (s.deliver u t l k).mem = s.mem := by
  unfold State.deliver
  dsimp only
  split
  · rw [State.leave_mem]
    split <;> rfl
  · rfl

/-- Raising a fault writes no memory. -/
theorem State.raise_mem (s : State) (u t l : Nat) (k : TrapInfo) : (s.raise u t l k).mem = s.mem := by
  unfold State.raise
  split
  · exact State.deliver_mem s u t l k
  · rfl

theorem State.raiseEach_mem (u t : Nat) (f : Nat → TrapInfo) (ls : List Nat) : ∀ s : State,
    (s.raiseEach u t ls f).mem = s.mem := by
  induction ls with
  | nil => intro s; rfl
  | cons l ls ih =>
    intro s
    show ((s.raise u t l (f l)).raiseEach u t ls f).mem = s.mem
    rw [ih, State.raise_mem]

theorem State.raiseGroup_mem (s : State) (u t : Nat) (m : BitVec 64) (k : TrapInfo) : (s.raiseGroup u t m k).mem = s.mem :=
  State.raiseEach_mem u t _ _ s

end Sys2Proof.Machine
end

