-- ==== Sys2Proof/Laws/Shared.lean ====
section
/-!
SUPPORT. One lemma for each shared operation that meanings run through, saying everything it can answer, and what one
thread is after a change of the lanes of its team.
-/
namespace Sys2Proof.Machine

/-! ## The issue group -/

/-- With an issue group, a meaning answers the next state its body gives. -/
theorem State.withGroup_eq {s : State} {g : Group} (h : s.Issues g) (f : Group → Wg → Team → State) :
    s.withGroup f = .next (f g (s.wg g.wg) ((s.wg g.wg).team g.team)) := by
  obtain ⟨h1, h2, h3, h4⟩ := h
  unfold State.withGroup
  rw [h1]
  simp [h2, h3, h4]

/-- A meaning answers a next state only for an issue group; it never faults. -/
theorem State.withGroup_next {s s' : State} {f : Group → Wg → Team → State} (h : s.withGroup f = .next s') :
    ∃ g, s.Issues g ∧ s' = f g (s.wg g.wg) ((s.wg g.wg).team g.team) := by
  unfold State.withGroup at h
  split at h
  · cases h
  · rename_i g hg
    split at h
    · rename_i hc
      simp only [Bool.and_eq_true, beq_iff_eq, decide_eq_true_eq] at hc
      cases h
      exact ⟨g, ⟨hg, hc.1.1, hc.1.2, hc.2⟩, rfl⟩
    · cases h

/-- Without one it is refused. -/
theorem State.withGroup_none {s : State} (h : s.cur = none) (f : Group → Wg → Team → State) :
    s.withGroup f = .refused .noIssueGroup := by
  unfold State.withGroup
  rw [h]

theorem State.withGroup_no_fault (s : State) (f : Group → Wg → Team → State) (e : Fault) : s.withGroup f ≠ .fault e := by
  unfold State.withGroup
  split
  · intro h; cases h
  · split <;> intro h <;> cases h

/-- A uniform instruction with one result (R174). -/
theorem State.scalar_eq {s : State} {g : Group} (h : s.Issues g) (d : SReg) (f : Team → BitVec 64) :
    s.scalar d f = .next ((s.modTeam g.wg g.team fun x => x.setS d.toNat (f ((s.wg g.wg).team g.team))).goOn g) := State.withGroup_eq h _

/-- A privileged instruction (R18, R19). -/
theorem State.privileged_eq {s : State} {g : Group} (h : s.Issues g) (r : Rights) (d : Nat) (f : Group → Wg → Team → State) :
    s.privileged r d f = .next (if r.allows (s.ctx (s.wg g.wg).ctx).auth then f g (s.wg g.wg) ((s.wg g.wg).team g.team)
      else s.refuse g (s.wg g.wg) d) := State.withGroup_eq h _

/-- A register-only lane instruction that needs no other lane, with its block held and no poisoned operand. -/
theorem State.lane_eq {s : State} {g : Group} (h : s.Issues g) {o : Nat → LaneOp}
    (hx : ((o ((s.wg g.wg).team g.team).jord.order).extended && !((s.wg g.wg).team g.team).ext) = false)
    (hp : consumesPoison ((s.wg g.wg).team g.team) (g.live ((s.wg g.wg).team g.team))
      (o ((s.wg g.wg).team g.team).jord.order).reads = false)
    (hc : (o ((s.wg g.wg).team g.team).jord.order).cross = false) :
    s.lane o = .next (s.laneLocal g (s.wg g.wg) ((s.wg g.wg).team g.team) g.lanes (o ((s.wg g.wg).team g.team).jord.order)) := by
  unfold State.lane
  rw [State.withGroup_eq h]
  unfold State.laneIssue State.laneRun
  simp [hx, hp, hc]

/-! ## Steps of the device -/

theorem State.internal_eq {s : State} {ok : Bool} (hp : s.powered = true) (h : ok = true) (f : Unit → State) :
    s.internal ok f = .next (f ()) := by
  unfold State.internal
  simp [hp, h]
theorem State.internal_next {s s' : State} {ok : Bool} {f : Unit → State} (h : s.internal ok f = .next s') :
    s.powered = true ∧ ok = true ∧ s' = f () := by
  unfold State.internal at h
  split at h
  · cases h
  · split at h
    · cases h
      rename_i hp ho
      exact ⟨by simpa using hp, ho, rfl⟩
    · cases h
theorem State.outside_eq {s : State} (hp : s.powered = true) (f : Unit → State) : s.outside f = .next (f ()) := by
  unfold State.outside
  simp [hp]
theorem State.outside_next {s s' : State} {f : Unit → State} (h : s.outside f = .next s') : s.powered = true ∧ s' = f () := by
  unfold State.outside at h
  split at h
  · cases h
  · cases h
    rename_i hp
    exact ⟨by simpa using hp, rfl⟩
theorem State.found_eq {s s1 : State} (hp : s.powered = true) : s.found (some s1) = .next s1 :=
  State.internal_eq hp rfl fun _ => s1
theorem State.found_next {s s' : State} {o : Option State} (h : s.found o = .next s') : s.powered = true ∧ o = some s' := by
  unfold State.found at h
  split at h
  · obtain ⟨h1, -, h2⟩ := State.internal_next h
    exact ⟨h1, by rw [h2]⟩
  · obtain ⟨-, h2, -⟩ := State.internal_next h
    cases h2

/-! ## One workgroup, team or thread after a change -/

theorem State.wg_modWg {s : State} {u : Nat} {f : Wg → Wg} (h : (s.wg u).uid = u) (h0 : u ≠ 0) (hf : ∀ w, (f w).uid = w.uid) :
    (s.modWg u f).wg u = f (s.wg u) := by
  unfold State.wg State.modWg at *
  dsimp only
  rw [findFirst_mapWhere]
  · cases hw : findFirst (fun w => w.uid == u) s.wgs with
    | none =>
      rw [hw] at h
      exact absurd h.symm h0
    | some w => rfl
  · intro x hx
    rw [hf]; exact hx

theorem State.wg_modWg_other {s : State} {u v : Nat} {f : Wg → Wg} (h : v ≠ u) (hf : ∀ w, (f w).uid = w.uid) :
    (s.modWg u f).wg v = s.wg v := by
  unfold State.wg State.modWg
  dsimp only
  rw [findFirst_mapWhere_other]
  intro x hx
  have hx' : x.uid = u := by simpa using hx
  simp [hf, hx', Ne.symm h]

theorem State.team_modTeam {s : State} {u t : Nat} {f : Team → Team} (h : (s.wg u).uid = u) (h0 : u ≠ 0)
    (ht : t < (s.wg u).teams.length) : ((s.modTeam u t f).wg u).team t = f ((s.wg u).team t) := by
  unfold State.modTeam
  rw [State.wg_modWg (f := fun w => w.modTeam t f) h h0 (fun _ => rfl)]
  unfold Wg.modTeam Wg.team
  rw [listGet_listModify]
  simp [ht]

theorem State.team_modTeam_other {s : State} {u t t' : Nat} {f : Team → Team} (h : (s.wg u).uid = u) (h0 : u ≠ 0)
    (ht : t' ≠ t) : ((s.modTeam u t f).wg u).team t' = (s.wg u).team t' := by
  unfold State.modTeam
  rw [State.wg_modWg (f := fun w => w.modTeam t f) h h0 (fun _ => rfl)]
  unfold Wg.modTeam Wg.team
  rw [listGet_listModify]
  simp [ht]

/-- A thread of a group after a change of the group's lanes; a thread of another lane is as it was. -/
theorem Team.thread_modLanes (t : Team) (m : BitVec 64) (f : Nat → Thread → Thread) {l : Nat} (hl : l < t.threads.length) :
    (t.modLanes m f).thread l = if inMask m l then f l (t.thread l) else t.thread l := by
  unfold Team.modLanes Team.thread
  rw [listGet_mapIdxFrom _ _ _ _ _ hl]
  simp

end Sys2Proof.Machine
end

