-- ==== Sys2Proof/Machine/Object.lean ====
section
/-!
DEFINITION. The Synca object file as a loader reads it (R302, R303) and the relocations it applies (R304, R57). The loader is
a host program and no step of the machine: what it has placed reaches the machine as the host's writes of memory. A file is a
list of bytes.
-/
namespace Sys2Proof.Machine

/-- The little-endian number of `n` bytes at an offset of a file; none past its end. -/
def fileNum (f : List (BitVec 8)) (off n : Nat) : Option Nat :=
  if off + n ≤ f.length then some (((f.drop off).take n).foldr (fun b x => b.toNat + 256 * x) 0) else none

/-- One entry of the section table (R302). -/
structure ObjSection where
  kind : Nat
  off : Nat
  size : Nat
  deriving DecidableEq, Repr

/-- Are two spans of a file apart. -/
def apart (a b : Nat × Nat) : Bool := a.2 == 0 || b.2 == 0 || decide (a.1 + a.2 ≤ b.1) || decide (b.1 + b.2 ≤ a.1)

/-- A section kind that a loader takes: 1 to 9, or a tool's (R303). -/
def sectionKindOk (k : Nat) : Bool := (decide (1 ≤ k) && decide (k ≤ 9)) || (decide (0x8000 ≤ k) && decide (k ≤ 0xFFFF))

/-- The section-table entry at an offset, its version, alignment and reserved fields in order. -/
def sectionAt (f : List (BitVec 8)) (o : Nat) : Option ObjSection := do
  let kind ← fileNum f o 2
  let ver ← fileNum f (o + 2) 2
  let res0 ← fileNum f (o + 4) 4
  let off ← fileNum f (o + 8) 8
  let size ← fileNum f (o + 16) 8
  let res1 ← fileNum f (o + 24) 8
  if sectionKindOk kind && ver == 1 && res0 == 0 && res1 == 0 && off % 8 == 0 && decide (off + size ≤ f.length) then
    some { kind := kind, off := off, size := size }
  else none

/-- Entries of 16 bytes of a section. -/
def entries16 (f : List (BitVec 8)) (s : ObjSection) : List Nat :=
  (upFrom 0 (s.size / 16)).filterMap fun i => fileNum f (s.off + 16 * i) 16

/-- A relocation entry without reserved values (R303). -/
def relocOk (x : Nat) : Bool :=
  decide (1 ≤ x / 2 ^ 96 % 256) && decide (x / 2 ^ 96 % 256 ≤ 6) && x / 2 ^ 104 == 0
/-- A symbol entry without reserved values (R303). -/
def symbolOk (x : Nat) : Bool :=
  decide (1 ≤ x / 2 ^ 32 % 256) && decide (x / 2 ^ 32 % 256 ≤ 3) && decide (x / 2 ^ 40 % 256 ≤ 2) && x / 2 ^ 48 % 2 ^ 16 == 0

/-- No two of the sections overlap, and none but loop and tile records appears twice. -/
def sectionsApart : List ObjSection → Bool
  | [] => true
  | s :: rest =>
    rest.all (fun t => apart (s.off, s.size) (t.off, t.size) && (s.kind != t.kind || s.kind == 5 || s.kind == 6))
      && sectionsApart rest

/-- The sections of a file that a loader takes; none where it refuses the file (R302, R303) (DESIGN CHOICE, log 75). -/
def objSections (f : List (BitVec 8)) : Option (List ObjSection) := do
  let magic ← fileNum f 0 4
  let major ← fileNum f 4 2
  let minor ← fileNum f 6 2
  let nsect ← fileNum f 8 4
  let res0 ← fileNum f 12 4
  let table ← fileNum f 16 8
  let size ← fileNum f 24 8
  let res1 ← fileNum f 32 32
  if magic == 0x314E5953 && major == 1 && minor == 0 && decide (1 ≤ nsect) && decide (nsect ≤ 64) && res0 == 0 && res1 == 0
      && table % 8 == 0 && size == f.length && apart (0, 64) (table, 32 * nsect) then
    let ss ← (upFrom 0 nsect).mapM fun i => sectionAt f (table + 32 * i)
    let clear (s : ObjSection) : Bool := apart (0, 64) (s.off, s.size) && apart (table, 32 * nsect) (s.off, s.size)
    let clean (s : ObjSection) : Bool :=
      if s.kind == 7 then (entries16 f s).all relocOk else if s.kind == 8 then (entries16 f s).all symbolOk else true
    if ss.all clear && ss.all clean && sectionsApart ss then some ss else none
  else none

/-- A relocation of one instruction word or of 64 bits of data: the new content, none where the value does not fit and the
load fails (R57, R303). `site` is the address of the patched word, `addr` the symbol's. -/
def relocate (kind site addr old : Nat) : Option Nat :=
  let put (v : Nat) : Option Nat := some (old / 2 ^ 18 * 2 ^ 18 + v % 2 ^ 18)
  match kind with
  | 1 => put addr
  | 2 => put (addr / 2 ^ 14)
  | 3 => put (addr / 2 ^ 32)
  | 4 => put (addr / 2 ^ 46)
  | 5 =>
    let d : Int := (addr : Int) - ((site : Int) + 4)
    if d % 4 == 0 && decide (-(2 ^ 17 : Int) ≤ d / 4) && decide (d / 4 < 2 ^ 17) then put ((d / 4) % 2 ^ 18).toNat else none
  | 6 => some (addr % 2 ^ 64)
  | _ => none

/-! ## Loading (R304) -/

/-- May a relocation of a kind patch a word: a field that its operator is of (R57). -/
def relocSite (kind : Nat) (word : Nat) : Bool :=
  match kind, (decode (BitVec.ofNat 32 word)).instr? with
  | 1, some (.smovi _ _) => true
  | 1, some (.movi _ _) => true
  | 2, some (.slitA _ _) => true
  | 2, some (.movhi _ _) => true
  | 3, some (.slitB _ _) => true
  | 4, some (.slitC _ _) => true
  | 5, some (.call _) => true
  | 6, _ => true
  | _, _ => false

/-- The file with a little-endian number of `n` bytes at an offset. -/
def filePut (f : List (BitVec 8)) (off n v : Nat) : List (BitVec 8) :=
  f.take off ++ ((upFrom 0 n).map fun i => BitVec.ofNat 8 (v / 256 ^ i)) ++ f.drop (off + n)

/-- What a loader chooses and the context holds: for each section of the file its address, the ranges, and the addresses of
the other objects' symbols by symbol index. -/
structure LoadPlan where
  places : List Nat
  code : List (Nat × Nat)
  plain : List (Nat × Nat)
  externs : List (Nat × Nat)
  deriving DecidableEq, Repr

/-- Does a loader place a section: code, data, headers, table and records. -/
def ObjSection.placed (s : ObjSection) : Bool := decide (1 ≤ s.kind) && decide (s.kind ≤ 6)
/-- The alignment a placed section keeps: words 4, headers and entries 64; any section but the code that which its place in the file
has, at most the 4,096 of .align (R304; DEDUCED, log 75). -/
def ObjSection.align (s : ObjSection) : Nat :=
  let own := if s.kind == 3 || s.kind == 4 then 64 else 8
  if s.kind == 1 then 4
  else (upFrom 3 10).foldl (fun a k => if s.off % 2 ^ k == 0 then max a (2 ^ k) else a) own
/-- Does an address place a section well: aligned, inside a code range, or for the data section inside a plain one. -/
def LoadPlan.takes (p : LoadPlan) (s : ObjSection) (va : Nat) : Bool :=
  va % s.align == 0
    && (if s.kind == 2 then p.plain else p.code).any fun r => decide (r.1 ≤ va) && decide (va + s.size ≤ r.1 + r.2)

/-- The sections with their addresses. -/
def LoadPlan.zip (p : LoadPlan) (ss : List ObjSection) : List (ObjSection × Nat) := (List.zip ss p.places).filter fun x => x.1.placed
/-- The address at which the byte of a file offset is placed. -/
def placedAt (xs : List (ObjSection × Nat)) (off : Nat) : Option Nat :=
  (findFirst (fun x => decide (x.1.off ≤ off) && decide (off < x.1.off + x.1.size)) xs).map fun x => x.2 + (off - x.1.off)

/-- Replaces an address field of 64 bits, which holds a file offset; `may0` where 0 stands for an absent one. -/
def placeField (xs : List (ObjSection × Nat)) (may0 : Bool) (f : Option (List (BitVec 8))) (off : Nat) : Option (List (BitVec 8)) := do
  let g ← f
  let v ← fileNum g off 8
  if may0 && v == 0 then some g
  else
    let va ← placedAt xs v
    some (filePut g off 8 va)
/-- Replaces the address fields of the headers and entries of a section: ENTRY and FTAB (R305), ENTRY, LOOPA and TILEA (R307). -/
def placeFields (xs : List (ObjSection × Nat)) (f : Option (List (BitVec 8))) (s : ObjSection) : Option (List (BitVec 8)) :=
  let each (fields : List (Nat × Bool)) : Option (List (BitVec 8)) :=
    (upFrom 0 (s.size / 64)).foldl (fun acc i =>
      fields.foldl (fun a x => placeField xs x.2 a (s.off + 64 * i + x.1)) acc) f
  match s.kind with
  | 3 => each [(8, false), (24, true)]
  | 4 => each [(0, false), (16, true), (32, true)]
  | _ => f

/-- The address of a symbol: where its byte was placed, or what another object gives it. -/
def symbolAddr (p : LoadPlan) (xs : List (ObjSection × Nat)) (f : List (BitVec 8)) (syms : ObjSection) (i : Nat) : Option Nat := do
  if syms.size < 16 * (i + 1) then none
  let x ← fileNum f (syms.off + 16 * i) 16
  if x / 2 ^ 40 % 256 == 2 then (findFirst (fun e => e.1 == i) p.externs).map Prod.snd
  else placedAt xs (x / 2 ^ 64)

/-- Applies one relocation. -/
def applyReloc (p : LoadPlan) (xs : List (ObjSection × Nat)) (syms : ObjSection) (f : Option (List (BitVec 8))) (r : Nat) :
    Option (List (BitVec 8)) := do
  let g ← f
  let off := r % 2 ^ 64
  let kind := r / 2 ^ 96 % 256
  let n := if kind == 6 then 8 else 4
  let site ← placedAt xs off
  let old ← fileNum g off n
  let addr ← symbolAddr p xs g syms (r / 2 ^ 64 % 2 ^ 32)
  if relocSite kind old then do
    let new ← relocate kind site addr old
    some (filePut g off n new)
  else none

/-- Are no two sections placed over one another. -/
def placesApart : List (ObjSection × Nat) → Bool
  | [] => true
  | x :: rest => rest.all (fun y => apart (x.2, x.1.size) (y.2, y.1.size)) && placesApart rest
/-- Is every .extern of a symbol section resolved. -/
def LoadPlan.resolves (p : LoadPlan) (f : List (BitVec 8)) (syms : ObjSection) : Bool :=
  (mapIdxFrom (fun i x => (i, x)) 0 (entries16 f syms)).all fun y =>
    y.2 / 2 ^ 40 % 256 != 2 || p.externs.any fun e => e.1 == y.1

/-- What a load writes: each placed section's address and bytes. None where the file is refused, a section cannot be placed, an
.extern not resolved, or a relocated value does not fit: then no word is written. -/
def loadObject (f : List (BitVec 8)) (p : LoadPlan) : Option (List (Nat × List (BitVec 8))) := do
  let ss ← objSections f
  let xs := p.zip ss
  let syms := (findFirst (fun s => s.kind == 8) ss).getD { kind := 8, off := 0, size := 0 }
  let relocs := (ss.filter fun s => s.kind == 7).flatMap (entries16 f)
  if p.places.length == ss.length && xs.all (fun x => p.takes x.1 x.2) && placesApart xs && p.resolves f syms then
    let f1 := ss.foldl (placeFields xs) (some f)
    let g ← relocs.foldl (applyReloc p xs syms) f1
    some (xs.map fun x => (x.2, (g.drop x.1.off).take x.1.size))
  else none

end Sys2Proof.Machine
end

