-- ==== Sys2Proof/Tests/Slice0.lean ====
section
/-!
SUPPORT. Tests of the model: ill-formed instructions are refused, words of the spec's encodings decode, single steps give the
results the spec works out, and for every statement that has hypotheses a concrete state and operands that meet them.
-/
namespace Sys2Proof.Tests

set_option Elab.async false

open Machine Claims

/-! ## Small states -/

/-- A thread that stands at the instruction, with lane registers. -/
def at_ (vs : Sparse 32) : Thread := { Thread.init with pc := BitVec.ofNat 64 fetchBase, v := vs }
/-- A context of an authority that runs one workgroup of one team of threads, its uniform registers given. -/
def stage (auth : Nat) (ss : Sparse 64) (ts : List Thread) : State :=
  let s := State.reset.withFetchWord 32 0x34000003
  { s with agenda := [], nextId := 10, cur := some ⟨3, 0, BitVec.ofNat 64 (2 ^ ts.length - 1), BitVec.ofNat 64 fetchBase, 9⟩,
           ctxs := s.ctxs.map fun c => { c with auth := auth },
           wgs := s.wgs.map fun w => { w with nlive := ts.length, teams := [{ Team.absent with threads := ts, s := ss }] } }
/-- The group of the first n lanes. -/
def grp (n : Nat) : Group := ⟨3, 0, BitVec.ofNat 64 (2 ^ n - 1), BitVec.ofNat 64 fetchBase, 9⟩
/-- An owner's team of one thread. -/
def solo (ss : Sparse 64) (vs : Sparse 32) : State := stage 1 ss [at_ vs]
/-- The state after an instruction that completes. -/
def after (s : State) (i : Instr) : State :=
  match exec i s with
  | .next t => t
  | _ => State.reset
/-- The thread of a lane of the one team. -/
def lane (s : State) (l : Nat) : Thread := ((s.wg 3).team 0).thread l
/-- A uniform register of the one team. -/
def uniform (s : State) (r : Nat) : BitVec 64 := ((s.wg 3).team 0).sreg r

/-! ## Ill-formed terms -/

/-- One term for each check of WellFormed, each refused. -/
def illFormed : List Instr :=
  [.srd 1 0x13, .tidx 60 (own 2) 3, .tidx 8 (own 3) 3, .unpkE4m3 6 (own 1), .unpkE5m2 2 (own 1), .pkE4m3 1 2,
   .pkE5m2 1 6, .ballot 3 1, .ldG 2 1 3 .normal .b128, .stG 4 1 3 0 .b256, .ldS 1 1 3 .b64, .stS 3 1 3 0 .b64,
   .ldth 1 2 3 .b64, .ljoin 3 2 3 0 .b64, .atomAdd 1 2 3 .rlx .w64, .atomMinS 3 2 3 .rlx .w64, .atomMaxS 3 2 3 .rlx .w64, .atomMinN 3 2 3 .rlx .w64,
   .atomMaxN 3 2 3 .rlx .w64, .atomAnd 3 2 3 .rlx .w64, .atomOr 3 2 3 .rlx .w64, .atomXor 3 2 3 .rlx .w64, .atomExch 3 2 3 .rlx .w64, .atomCas 2 1 3 .rlx .w64,
   .qpop 2 false .q128 1, .qpush 1 false .q64 1, .br 7 true 5, .jmpi (.pair 3), .calli (.pair 5), .mmaRr 8 16 24 .bf16 false,
   .mmaRr 0 12 24 .bf16 false, .mmaRr 0 8 24 .bf16 false, .mmaRr 0 16 25 .bf16 false, .mmaRr 0 24 16 .mxE4m3 false, .mmaRs 0 16 3 .bf16 false, .mmaSs 0 2 3 .bf16 false,
   .maccZero 4, .maccBf16 0 4, .maccE4m3 0 2, .maccScale 8 3, .srds 1 5, .swrs 1 2 0x0E0,
   .ubr 3 .always 0, .tfetchB 3 1, .preempt 1 2 3 63, .cntrd 1 6, .strap 1 6, .bankmode 1 2 .unnamed]
theorem test_ill_formed_refused : ∀ i ∈ illFormed, i.wellFormed = false := by decide +kernel
theorem test_well_formed_accepted : ∀ i ∈ [
    Instr.srd 1 0x12, .tidx 59 (own 2) 3, .ldG 8 1 3 .normal .b256, .atomCas 4 1 3 .rlx .w64, .br 7 false 5, .mmaRr 0 16 24 .bf16 false,
    .mmaRr 16 0 32 .mxE4m3 false, .srds 1 4, .ubr 0 .always 0, .preempt 1 2 3 62, .cntrd 1 0x1F, .strap 1 5], i.wellFormed = true := by decide +kernel
theorem test_encoding_of_ill_formed_refused : (encode false (.srd 1 0x13)).map decode = some (.nonInstr .badRegister) := by decide +kernel

/-! ## Words written from the spec's encodings (R33, R38, R40, R41, and the worked words of spec/02 to spec/15) -/

theorem test_word_isub : decode 0x00040B11 = .instr (.isub 1 (own 2) (uni 4)) := by decide
theorem test_word_iadd_slot : decode 0x00290F14 = .instr (.iadd 10 ⟨.slot1, 3⟩ (uni 5)) := by decide
theorem test_word_shift : decode 0x0310130E = .instr (.isar 4 (own 4) (uni 3)) := by decide
theorem test_word_mul : decode 0x04302B1A = .instr (.imulhiN 12 (own 10) (uni 6)) := by decide
theorem test_word_ibfx : decode 0x05080F26 = .instr (.ibfx 2 (own 3) (uni 9)) := by decide
theorem test_word_icmp : decode 0x06041016 = .instr (.icmpSLt 1 (own 4) (own 5)) := by decide
theorem test_word_guarded : decode 0x080C0F1E = .instr (.psub 3 (own 3) (uni 7) 2) := by decide
theorem test_word_plogic : decode 0x0B0C0408 = .instr (.pand 3 1 2) := by decide
theorem test_word_immediate : decode 0x0C1C1FFF = .instr (.iaddi 7 (own 7) (-1)) := by decide
theorem test_word_icmpi : decode 0x0FE40C64 = .instr (.icmpi .geN 1 (own 3) 100) := by decide
theorem test_word_movi : decode 0x1017FFFE = .instr (.movi 5 (-2)) := by decide
theorem test_word_srd : decode 0x12040007 = .instr (.srd 1 7) := by decide
theorem test_word_tidx : decode 0x13200B14 = .instr (.tidx 8 (own 2) 5) := by decide
theorem test_word_float : decode 0x1420101B = .instr (.ffma 8 (own 4) (own 6)) := by decide
theorem test_word_select : decode 0x15080C11 = .instr (.fmax 2 (own 3) (own 4)) := by decide
theorem test_word_sign : decode 0x16040426 = .instr (.fcpsgn 1 (own 1) (own 9)) := by decide
theorem test_word_fcmp : decode 0x17100B05 = .instr (.fcmpLt 4 (own 2) (uni 1)) := by decide
theorem test_word_division : decode 0x18100803 = .instr (.frsq 4 (own 2)) := by decide
theorem test_word_special : decode 0x19181800 = .instr (.fexp2 6 (own 6)) := by decide
theorem test_word_sine : decode 0x1A280803 = .instr (.fcost 10 (own 2)) := by decide
theorem test_word_round : decode 0x1B0C0C02 = .instr (.frndFloor 3 (own 3)) := by decide
theorem test_word_convert : decode 0x1C080802 = .instr (.cvtI32F32 2 (own 2)) := by decide
theorem test_word_pack : decode 0x1D0C1016 = .instr (.packBf16 3 (own 4) (own 5)) := by decide
theorem test_word_bytes : decode 0x1E082002 = .instr (.pkE4m3 2 8) := by decide
theorem test_word_jet : decode 0x1F20080C = .instr (.jseedSeed 8 (own 2) (own 3)) := by decide
theorem test_word_jflg : decode 0x221C0009 = .instr (.jflgRc 7 1) := by decide
theorem test_word_ballot : decode 0x23080C00 = .instr (.ballot 2 3) := by decide
theorem test_word_redux : decode 0x24080C03 = .instr (.reduxOr 2 (own 3)) := by decide
theorem test_word_scan : decode 0x25080C01 = .instr (.scanFadd 2 (own 3)) := by decide
theorem test_word_load : decode 0x26201114 = .instr (.ldG 8 1 4 .ro .b128) := by decide
theorem test_word_store : decode 0x2718129B = .instr (.stG 6 1 10 3 .b64) := by decide
theorem test_word_scratch : decode 0x28280083 = .instr (.ldS 10 0 2 .b64) := by decide
theorem test_word_ldth : decode 0x2A102303 = .instr (.ldth 4 2 12 .b64) := by decide
theorem test_word_ljoin : decode 0x2B18230B = .instr (.ljoin 6 2 12 1 .b64) := by decide
theorem test_word_atomic : decode 0x6C083302 = .instr (.atomAdd 2 3 12 .acq .w32) := by decide
theorem test_word_cas : decode 0x2D081208 = .instr (.atomCas 2 1 8 .rlx .w32) := by decide
theorem test_word_qpop : decode 0x2E100053 = .instr (.qpop 4 true .q64 3) := by decide
theorem test_word_branch : decode 0x306FFFFE = .instr (.br 3 false (-2)) := by decide
theorem test_word_call : decode 0x31000025 = .instr (.call 37) := by decide
theorem test_word_jump : decode 0x32033801 = .instr (.calli (.uni 14)) := by decide
theorem test_word_loop : decode 0x33030E0F = .instr (.loop (uni 3) .lc2 15) := by decide
theorem test_word_exit : decode 0x34000000 = .instr (.exit) := by decide
theorem test_word_trap : decode 0x35000007 = .instr (.trap 7) := by decide
theorem test_word_barrier : decode 0x36000015 = .instr (.barWait 5) := by decide
theorem test_word_fence : decode 0x37FF9400 = .instr (.fence 0xFF .module .ar true) := by decide
theorem test_word_mma : decode 0x7A0082B0 = .instr (.mmaSs 0 8 10 .mxfp4 false) := by decide
theorem test_word_macc : decode 0x3B014010 = .instr (.maccE4m3 0 20) := by decide
theorem test_word_scalar : decode 0x800C4140 = .instr (.sadd 3 4 5) := by decide
theorem test_word_scmp : decode 0x811851C6 = .instr (.scmp 6 5 7 .ltN) := by decide
theorem test_word_saddi : decode 0x820C4FFF = .instr (.saddi 3 4 (-1)) := by decide
theorem test_word_sshri : decode 0x851C7068 = .instr (.sshri 7 7 40) := by decide
theorem test_word_slit : decode 0x88274567 = .instr (.slitB 9 0x34567) := by decide
theorem test_word_srds : decode 0x8A040002 = .instr (.srds 1 2) := by decide
theorem test_word_swrs : decode 0x8B184002 = .instr (.swrs 6 4 2) := by decide
theorem test_word_ubr : decode 0x8C190002 = .instr (.ubr 6 .nonzero 2) := by decide
theorem test_word_sld : decode 0x8D0C4008 = .instr (.sld 3 4 8) := by decide
theorem test_word_sst : decode 0x8E105011 = .instr (.sst 4 5 2 1) := by decide
theorem test_word_satom : decode 0x8F184030 = .instr (.satomAdd 6 4 .ar) := by decide
theorem test_word_xpat : decode 0x90007000 = .instr (.xpat 7) := by decide
theorem test_word_jord : decode 0x91000001 = .instr (.jord .k1) := by decide
theorem test_word_tfetch : decode 0x92106001 = .instr (.tfetchB 4 6) := by decide
theorem test_word_shpset : decode 0x93005003 = .instr (.shpset 5 3) := by decide
theorem test_word_block : decode 0x94180003 = .instr (.xtake 6) := by decide
theorem test_word_barset : decode 0x95003002 = .instr (.barset 3 2) := by decide
theorem test_word_etail : decode 0x96004001 = .instr (.etail 4 .gather) := by decide
theorem test_word_ewait : decode 0x97184000 = .instr (.ewait 6 4 .copy) := by decide
theorem test_word_cmo : decode 0x98004144 = .instr (.cmoClean 4 5 .l2) := by decide
theorem test_word_tinv : decode 0x99184140 = .instr (.tinv 6 4 5) := by decide
theorem test_word_bankmode : decode 0x9A184002 = .instr (.bankmode 6 4 .fifo) ∧ ∃ e, decode 0x9A184003 = .nonInstr e := ⟨by decide, _, rfl⟩
theorem test_word_queue : decode 0x9B183005 = .instr (.qopen 6 3 5) := by decide
theorem test_word_arm : decode 0x9C18402A = .instr (.arm 6 4 42) := by decide
theorem test_word_launch : decode 0x9D184000 = .instr (.launch 6 4) := by decide
theorem test_word_cancel : decode 0x9E184001 = .instr (.cancel 6 4 .graph) := by decide
theorem test_word_frpt : decode 0x9F209002 = .instr (.frpt 8 9 2) := by decide
theorem test_word_place : decode 0xA1184140 = .instr (.place 6 4 5) := by decide
theorem test_word_preempt : decode 0xA2184143 = .instr (.preempt 6 4 5 3) := by decide
theorem test_word_migrate : decode 0xA3184140 = .instr (.migrate 6 4 5) := by decide
theorem test_word_creset : decode 0xA5184000 = .instr (.creset 6 4) := by decide
theorem test_word_mapsync : decode 0xA6184140 = .instr (.mapsync 6 4 5) := by decide
theorem test_word_counter : decode 0xA7200000 = .instr (.cntrd 8 0) := by decide
theorem test_word_tret : decode 0xA9000000 = .instr (.tret) := by decide
theorem test_word_strap : decode 0xAA004002 = .instr (.strap 4 2) := by decide
theorem test_word_debug : decode 0xAB184141 = .instr (.dbgStep 6 4 5) := by decide
theorem test_word_shared : decode 0xAC103022 = .instr (.gadd 4 3 2) := by decide
theorem test_word_ldk : decode 0xAD184001 = .instr (.ldk 6 4 1) := by decide
theorem test_word_reserved : decode 0x3C000000 = .nonInstr .reservedOpcode := by decide
theorem test_marker_read : wM 0x6C083302 = true ∧ wM 0x2D081208 = false := by decide

/-! ## Single steps: results that the spec works out -/

/-- The lane register r of lane 0 after an instruction. -/
def gives (s : State) (i : Instr) (r : Nat) : BitVec 32 := (lane (after s i) 0).v32 r

-- R92: the worked results after the table
theorem test_imulhi : gives (solo [] [(2, 0x80000000)]) (.imulhiS 1 (own 2) (own 2)) 1 = 0x40000000 := by decide +kernel
theorem test_iabsd : gives (solo [] [(2, 3), (3, 0xFFFFFFFF)]) (.iabsd 1 (own 2) (own 3)) 1 = 0xFFFFFFFC := by decide +kernel
theorem test_ishl_by_33 : gives (solo [] [(2, 5), (3, 33)]) (.ishl 1 (own 2) (own 3)) 1 = 10 := by decide +kernel
theorem test_imad_reads_destination : gives (solo [] [(1, 7), (2, 5)]) (.imad 1 (own 2) (own 1)) 1 = 42 := by decide +kernel
-- R93: a field of width 4 at 4, read as signed; an empty field inserts nothing
theorem test_ibfx_signed : gives (solo [] [(2, 0x8F0), (3, 0x10404)]) (.ibfx 1 (own 2) (own 3)) 1 = 0xFFFFFFFF := by decide +kernel
theorem test_ibfi_empty : gives (solo [] [(1, 0x1234), (2, 0xFF), (3, 4)]) (.ibfi 1 (own 2) (own 3)) 1 = 0x1234 := by decide +kernel
-- R96, R97, R98: the worked examples
theorem test_psub_guarded : gives { solo [] [(3, 9), (7, 4)] with wgs := (stage 1 [] [{ at_ [(3, 9), (7, 4)] with preds := 0x84 }]).wgs }
    (.psub 3 (own 3) (own 7) 2) 3 = 5 := by decide +kernel
theorem test_pandn_complements : (lane (after (solo [] []) (.pandn 1 7 1)) 0).pred 1 = true := by decide +kernel
theorem test_iaddi_uniform : gives (solo [(4, 0x1FFFFFFFF)] []) (.iaddi 2 (uni 4) 16) 2 = 15 := by decide +kernel
theorem test_movhi_keeps_low : gives (solo [] [(5, 0xFFFFFFFF)]) (.movhi 5 3) 5 = 0xFFFF := by decide +kernel
-- R95: the least n32 is never at or above 100; p7 keeps reading one (R7)
theorem test_icmpi : (lane (after (solo [] [(3, 99)]) (.icmpi .geN 1 (own 3) 100)) 0).pred 1 = false := by decide +kernel
theorem test_p7_discards : (lane (after (solo [] [(3, 99)]) (.icmpi .geN 7 (own 3) 100)) 0).pred 7 = true := by decide +kernel
-- R101: RANK 3, E0 64, E1 12 and L 1,000 give 40, 3, 1, 0, 0
theorem test_tidx : (List.range 5).map (fun k => gives { solo [] [] with wgs := (solo [(4, 3)] [(2, 1000)]).wgs.map fun w =>
    { w with shapes := [(3, 3 + 64 * 2 ^ 64 + 12 * 2 ^ 96)] } } (.tidx 8 (own 2) 4) (8 + k)) = [40, 3, 1, 0, 0] := by decide +kernel
-- R102 to R105
theorem test_fadd : gives (solo [] [(2, 0x40000000)]) (.fadd 1 (own 2) (own 2)) 1 = 0x40800000 := by decide +kernel
theorem test_fmin_nan : gives (solo [] [(2, 0x7FC00001), (3, 0x3F800000)]) (.fmin 1 (own 2) (own 3)) 1 = 0x3F800000 := by decide +kernel
theorem test_fmin_zeros : gives (solo [] [(2, 0), (3, 0x80000000)]) (.fmin 1 (own 2) (own 3)) 1 = 0x80000000 := by decide +kernel
theorem test_fneg_keeps_payload : gives (solo [] [(2, 0x7FC12345)]) (.fneg 1 (own 2)) 1 = 0xFFC12345 := by decide +kernel
theorem test_fcmp_unordered : (lane (after (solo [] [(2, 0x7FC00000)]) (.fcmpUnord 1 (own 2) (own 3))) 0).pred 1 = true := by decide +kernel
-- R106: 1 divided by 0 is infinity with divide-by-zero, delivered later
theorem test_fdiv_by_zero : ((lane (after (solo [] [(2, 0x3F800000)]) (.fdiv 1 (own 2) (own 3))) 0).outs.map fun o => (o.regs, o.flags)) =
    [([(1, 0x7F800000)], 2)] := by decide +kernel
-- R110: frnd.rne of -0.4 is -0 and frnd.ceil of -0.5 is -0
theorem test_frnd_rne : gives (solo [] [(2, 0xBECCCCCD)]) (.frndRne 1 (own 2)) 1 = 0x80000000 := by decide +kernel
theorem test_frnd_ceil : gives (solo [] [(2, 0xBF000000)]) (.frndCeil 1 (own 2)) 1 = 0x80000000 := by decide +kernel
-- R111: cvt.i32.f32 of 2^31 saturates with invalid, of -2^31 it is exact
theorem test_cvt_saturates : let th := lane (after (solo [] [(2, 0x4F000000)]) (.cvtI32F32 1 (own 2))) 0
    th.v32 1 = 0x7FFFFFFF ∧ th.jst = 1 := by decide +kernel
theorem test_cvt_least : let th := lane (after (solo [] [(2, 0xCF000000)]) (.cvtI32F32 1 (own 2))) 0
    th.v32 1 = 0x80000000 ∧ th.jst = 0 := by decide +kernel
-- R152: a zero count skips a body of 16
theorem test_loop_skips : (lane (after (solo [] []) (.loop (uni 3) .lc2 15)) 0).pc = BitVec.ofNat 64 (fetchBase + 4 + 64) := by decide +kernel
-- R149, R150: the worked words: top is the word before the BR, fn lies 37 words past the word after the CALL
theorem test_branch : (lane (after (solo [] []) (.br 7 false (-2))) 0).pc = BitVec.ofNat 64 (fetchBase - 4) := by decide +kernel
theorem test_call : let th := lane (after (solo [] []) (.call 37)) 0
    th.pc = BitVec.ofNat 64 (fetchBase + 4 + 148) ∧ th.lr = BitVec.ofNat 64 (fetchBase + 4) := by decide +kernel
-- R10: v40 without an extended block
theorem test_unheld : (lane (after (stage 1 [] [{ at_ [] with tcause := 0 }]) (.iadd 40 (own 1) (own 2))) 0).v32 40 = 0 := by decide +kernel
-- R39: the constant 0x0123_4567_89AB_CDEF, word by word
theorem test_smovi : uniform (after (solo [] []) (.smovi 9 (-0x3211))) 9 = 0xFFFFFFFFFFFFCDEF := by decide +kernel
theorem test_slitA : uniform (after (solo [(9, 0xFFFFFFFFFFFFCDEF)] []) (.slitA 9 0x226AF)) 9 = 0xFFFFFFFF89ABCDEF := by decide +kernel
theorem test_slitB : uniform (after (solo [(9, 0xFFFFFFFF89ABCDEF)] []) (.slitB 9 0x34567)) 9 = 0xFFFF456789ABCDEF := by decide +kernel
theorem test_slitC : uniform (after (solo [(9, 0xFFFF456789ABCDEF)] []) (.slitC 9 0x48D)) 9 = 0x0123456789ABCDEF := by decide +kernel
-- R177: the high half of a signed product; a zero counts 64 leading zeros; a write to s0 is discarded (R7)
theorem test_smulhi : uniform (after (solo [(4, 0x8000000000000000), (5, 2)] []) (.smulhiS 3 4 5)) 3 = 0xFFFFFFFFFFFFFFFF := by decide +kernel
theorem test_sclz_zero : uniform (after (solo [] []) (.sclz 3 4)) 3 = 64 := by decide +kernel
theorem test_s0_discards : uniform (after (solo [(4, 9)] []) (.smov 0 4)) 0 = 0 := by decide +kernel
-- R180: UBR.neg reads sA as signed
theorem test_ubr_negative : (lane (after (solo [(6, 0x8000000000000000)] []) (.ubr 6 .negative 2)) 0).pc = BitVec.ofNat 64 (fetchBase + 12) := by decide +kernel
-- R186: XPAT keeps 22 bits
theorem test_xpat : ((after (solo [(7, 0xFFFFFFFF)] []) (.xpat 7)).wg 3 |>.team 0).xpat = 0x3FFFFF := by decide +kernel
-- R187: the one unit, and the end code after it
theorem test_tfetch : ((after (solo [] []) (.tfetch 4)).wg 3 |>.team 0).uouts.map UOut.regs = [[(4, 0)]] := by decide +kernel
theorem test_tfetch_end : ((after { solo [] [] with recs := (solo [] []).recs.map fun r => { r with next := 1 } } (.tfetch 4)).wg 3 |>.team 0).uouts.map
    UOut.regs = [[(4, 0xFFFFFFFFFFFFFFFF)]] := by decide +kernel
-- R190: a zero count turns the barrier off and completes its phase
theorem test_barset_zero : ((after (solo [] []) (.barset 3 2)).wg 3).barrier 2 = ⟨0, 0, 1⟩ := by decide +kernel
-- R191: GADD delivers the old value
theorem test_gadd : let s := after { solo [(3, 5)] [] with wgs := (solo [(3, 5)] []).wgs.map fun w => { w with g := [(2, 7)] } } (.gadd 4 3 2)
    uniform s 4 = 7 ∧ spGet (s.wg 3).g 2 = 12 := by decide +kernel
-- R202, R203: a handler starts with the cause and the return address; without one the thread leaves
theorem test_trap_handler : let s : State := { solo [] [] with recs := (solo [] []).recs.map fun r => { r with handlers := [(0, 0x1000)] } }
    let th := lane (after s (.trap 7)) 0
    th.pc = 0x1000 ∧ th.tcause = 0x8000000000000711 ∧ th.tepc = BitVec.ofNat 64 (fetchBase + 4) := by decide +kernel
theorem test_trap_leaves : (lane (after (solo [] []) (.trap 7)) 0).status = .exited := by decide +kernel
theorem test_tret : let th := lane (after (stage 1 [] [{ at_ [] with tcause := 0x8000000000000711, tepc := 64 }]) .tret) 0
    th.pc = 64 ∧ th.tcause = 0 := by decide +kernel
-- R153, R155: the last thread leaves and a barrier expects one arrival less
theorem test_exit : let s := after (solo [] []) .exit
    (lane s 0).status = .exited ∧ ((s.wg 3).barrier 0).expected = 0 := by decide +kernel
-- R18, R22: an owner may not PLACE: REFUSED in sD and LSTAT, counted
theorem test_place_refused : let s := after (solo [] []) (.place 6 4 5)
    uniform s 6 = 0x8000000000000001 ∧ (s.ctx 1).lstat = 0x100000001 ∧ (s.part 0).refcnt = 1 := by decide +kernel
-- R172: MACC.zero clears 16 registers and no other
theorem test_macc_zero : let th := lane (after (solo [] [(15, 5), (16, 6)]) (.maccZero 0)) 0
    th.v32 15 = 0 ∧ th.v32 16 = 6 := by decide +kernel
-- R26, R216: a step from the state in which a program's word is placed runs that word (iaddi v7, v7, -1)
theorem test_step_runs_word : (match step (State.reset.withFetchWord 32 0x0C1C1FFF) with
    | .next t => (((t.wg 3).team 0).thread 0).v32 7
    | _ => 0) = 0xFFFFFFFF := by decide +kernel

/-! ## Witnesses: lane instructions -/

/-- The one-lane group is ready for any low registers when no register is poisoned. -/
theorem witness_ready : Ready (solo [] []) (grp 1) [2, 3, 1] [1, 31] :=
  ⟨by unfold State.Issues; decide, .inl (by decide), by decide⟩
/-- With the extended block, v32 to v63 may be named. -/
theorem witness_ready_extended : Ready { solo [] [] with wgs := (solo [] []).wgs.map fun w => { w with teams := w.teams.map fun t => { t with ext := true } } }
    (grp 1) [32, 63] [40] := ⟨by unfold State.Issues; decide, .inr (by decide), by decide⟩
theorem witness_IntegerOperations : ∃ f, (integerForm (.imad 1 (own 2) (uni 3)) = some f ∨ guardedForm (.imad 1 (own 2) (uni 3)) = some f) ∧
    Ready (solo [] []) (grp 1) f.reads f.writes ∧
    ∀ a ∈ f.srcs, ownSource a :=
  ⟨_, .inl rfl, ⟨by unfold State.Issues; decide, .inl (by decide), by decide⟩, by unfold ownSource; decide⟩
theorem witness_GuardedForms : ∃ f, (integerForm (.movhi 31 3) = some f ∨ guardedForm (.movhi 31 3) = some f) ∧
    Ready (solo [] []) (grp 1) f.reads f.writes ∧ ∀ a ∈ f.srcs, ownSource a :=
  ⟨_, .inr rfl, ⟨by unfold State.Issues; decide, .inl (by decide), by decide⟩, by unfold ownSource; decide⟩
theorem witness_ComparesAndLogic : ∃ f, predForm (.icmpi .ltN 7 (own 31) 5) = some f ∧ Ready (solo [] []) (grp 1) f.reads [] ∧
    ∀ a ∈ f.srcs, ownSource a :=
  ⟨_, rfl, ⟨by unfold State.Issues; decide, .inl (by decide), by decide⟩, by unfold ownSource; decide⟩
theorem witness_SelectionSignAndJetBuild : ∃ f, bitsForm (teamOf (solo [] []) (grp 1)).jord.order (.fmin 1 (own 2) (own 3)) = some f ∧
    Ready (solo [] []) (grp 1) f.reads f.writes ∧ ∀ a ∈ f.srcs, ownSource a :=
  ⟨_, rfl, ⟨by unfold State.Issues; decide, .inl (by decide), by decide⟩, by unfold ownSource; decide⟩
/-- At jet order 7 a group of eight registers is named. -/
theorem witness_SelectionSignAndJetBuild_order : let s : State := { solo [] [] with wgs := (solo [] []).wgs.map fun w =>
      { w with teams := w.teams.map fun t => { t with jord := .k7 } } }
    ∃ f, bitsForm (teamOf s (grp 1)).jord.order (.jseedCopy 24 (own 8)) = some f ∧ Ready s (grp 1) f.reads f.writes ∧ ∀ a ∈ f.srcs, ownSource a :=
  ⟨_, rfl, ⟨by unfold State.Issues; decide, .inl (by decide), by decide⟩, by unfold ownSource; decide⟩
theorem witness_Jflg : Ready (solo [] []) (grp 1) [] [(31 : VReg).toNat] := ⟨by unfold State.Issues; decide, .inl (by decide), by decide⟩
theorem witness_Series : ∃ f, seriesForm (teamOf (solo [] []) (grp 1)).jord.order (.fdiv 1 (own 2) (uni 3)) = some f ∧
    Ready (solo [] []) (grp 1) f.reads f.writes ∧ ∀ a ∈ f.srcs, ownSource a :=
  ⟨_, rfl, ⟨by unfold State.Issues; decide, .inl (by decide), by decide⟩, by unfold ownSource; decide⟩
theorem witness_Sines : sineForm (.fcost 10 (own 2)) = some (10, own 2, (0xC90FDAA22168C235, 2 ^ 61), sfSint, sfCost, false) ∧
    Ready (solo [] []) (grp 1) (srcRegs (own 2) 1) (vregs 10 1) ∧ ownSource (own 2) :=
  ⟨rfl, ⟨by unfold State.Issues; decide, .inl (by decide), by decide⟩, by unfold ownSource; decide⟩
theorem witness_RoundingAndConversions : ∃ f, convertForm (teamOf (solo [] []) (grp 1)).jord.order (.pkE4m3 2 8) = some f ∧
    Ready (solo [] []) (grp 1) f.reads f.writes ∧ ∀ a ∈ f.srcs, ownSource a :=
  ⟨_, rfl, ⟨by unfold State.Issues; decide, .inl (by decide), by decide⟩, by unfold ownSource; decide⟩
theorem witness_Macc : ∃ f, maccForm (.maccBf16 16 0) = some f ∧ Ready (solo [] []) (grp 1) f.reads f.writes :=
  ⟨_, rfl, ⟨by unfold State.Issues; decide, .inl (by decide), by decide⟩⟩
theorem witness_SpecialRegisters : (0x012 : BitVec 10).toNat ≤ 0x012 ∧ Ready (solo [] []) (grp 1) [] [(1 : VReg).toNat] ∧
    Ready (solo [] []) (grp 1) (srcRegs (own 2) 2) (vregs 27 5) ∧ ownSource (own 2) :=
  ⟨by decide, ⟨by unfold State.Issues; decide, .inl (by decide), by decide⟩, ⟨by unfold State.Issues; decide, .inl (by decide), by decide⟩,
    by unfold ownSource; decide⟩
/-- A thread at the end of a body whose counter runs on, and at the end of one whose counter ends. -/
theorem witness_LoopCountsItsBody : Ready (solo [] []) (grp 1) (srcRegs (uni 3) 1) [] ∧ ownSource (uni 3) ∧
    (let th : Thread := { at_ [] with bodies := [(64, 1)], lc := [(1, 5)] }
     th.bodies = (64, 1) :: [] ∧ spGet th.lc 1 ≠ 1) ∧
    (let th : Thread := { at_ [] with bodies := [(64, 2), (32, 0)], lc := [(0, 3), (2, 1)] }
     th.bodies = (64, 2) :: [(32, 0)] ∧ spGet th.lc 2 = 1) :=
  ⟨⟨by unfold State.Issues; decide, .inl (by decide), by decide⟩, by unfold ownSource; decide, by decide, by decide⟩
/-- A launch that holds a power token, for MMA. -/
def tokened : State := { solo [] [] with recs := (solo [] []).recs.map fun r => { r with lease := { r.lease with held := 1 } } }
theorem witness_Mma : mmaForm (.mmaRr 0 16 24 .bf16 false) = some (0, .regs 16, .regs 24, .bf16, false) ∧
    MmaReady tokened (grp 1) 0 (.regs 16) (.regs 24) .bf16 :=
  ⟨rfl, ⟨by unfold State.Issues; decide, by decide, .inl (by decide +kernel), by decide +kernel, by decide +kernel, by decide +kernel, by decide, by decide⟩⟩
/-- Scratch operands: descriptors whose tiles lie in the workgroup's scratch. -/
theorem witness_Mma_scratch : ∃ s, MmaReady s (grp 1) 0 (.scratch 8) (.scratch 10) .bf16 :=
  ⟨{ tokened with wgs := tokened.wgs.map fun w => { w with teams := w.teams.map fun t =>
      { t with s := [(8, 32 * 2 ^ 24), (10, 0x1000 + 32 * 2 ^ 24)] } } },
   by unfold State.Issues; decide, by decide, .inl (by decide +kernel), by decide +kernel, by decide +kernel, by decide +kernel, by decide, by decide⟩
theorem witness_Unheld : ∃ o, laneOpOf (teamOf (solo [] []) (grp 1)).jord.order (.iadd 32 (own 2) (own 3)) = some o ∧
    (solo [] []).Issues (grp 1) ∧ (teamOf (solo [] []) (grp 1)).ext = false ∧ ∃ r ∈ o.reads ++ o.writes, 32 ≤ r :=
  ⟨_, rfl, by unfold State.Issues; decide, by decide, 32, by decide, by decide⟩

/-- Two lanes, XPAT naming s5 as the member mask and slot 1 the lane above; both lanes are members. -/
def paired : State := { stage 1 [(5, 3)] [at_ [(3, 7)], at_ [(3, 9)]] with wgs := (stage 1 [(5, 3)] [at_ [(3, 7)], at_ [(3, 9)]]).wgs.map fun w =>
  { w with teams := w.teams.map fun t => { t with xpat := 0x050001 } } }
theorem witness_MembersWait_cross : ∃ o, laneOpOf (teamOf paired (grp 2)).jord.order (.iadd 10 ⟨.slot1, 3⟩ (own 4)) = some o ∧
    Ready paired (grp 2) o.reads o.writes ∧ (teamOf paired (grp 2)).meetingAt (grp 2).pc = none ∧ ∃ a ∈ o.srcs, a.sel = .slot1 ∨ a.sel = .slot2 :=
  ⟨_, rfl, ⟨by unfold State.Issues; decide, .inl (by decide), by decide⟩, by decide +kernel, ⟨.slot1, 3⟩, by decide, by decide⟩
theorem witness_MembersWait_collective : collectiveOperands (.ballot 2 3) = some (2, none, 3) ∧ Ready paired (grp 2) [] [2, 3] ∧
    (teamOf paired (grp 2)).meetingAt (grp 2).pc = none ∧ (collectiveOf (.ballot 2 3)).map Collective.writes = some [2, 3] :=
  ⟨rfl, ⟨by unfold State.Issues; decide, .inl (by decide), by decide⟩, by decide +kernel, by decide⟩
/-- The same team standing at a word, all its threads waiting there; the word's translation is cached. -/
def standsAt (w : Word) (ths : List Thread) : State :=
  let s := State.reset.withFetchWord 32 w.toNat
  { s with agenda := [], nextId := 10,
           wgs := s.wgs.map fun u => { u with nlive := ths.length, teams := [{ Team.absent with threads := ths, s := [(5, 3)], xpat := 0x050001 }] } }
/-- What a thread waits with at a word: the two lanes as members, order 0, the slots of the team's XPAT. -/
def meeting (w : Word) : Meeting := { mask := 3, order := .k0, word := w, xpat := 0x050001, cross := 3 }
/-- A thread that waits so. -/
def waiting (w : Word) (v : Sparse 32) : Thread := { at_ v with status := .waiting (.rendezvous (meeting w)) }
theorem witness_Rendezvous : let s := standsAt 0x00290F14 [waiting 0x00290F14 [(3, 7)], waiting 0x00290F14 [(3, 9)]]
    ∃ o, laneOpOf JetOrder.k0.order (.iadd 10 ⟨.slot1, 3⟩ (uni 5)) = some o ∧ (∃ a ∈ o.srcs, a.sel = .slot1 ∨ a.sel = .slot2) ∧
    Gathered s 3 0 (BitVec.ofNat 64 fetchBase) (.iadd 10 ⟨.slot1, 3⟩ (uni 5)) 3 (fun _ => meeting 0x00290F14) ∧ (meeting 0x00290F14).cross = 3 ∧
    ∀ l, l < 64 → inMask 3 l = true →
      (((s.wg 3).team 0).thread l).exited = false ∧ (((s.wg 3).team 0).thread l).poison = [] :=
  ⟨_, rfl, ⟨⟨.slot1, 3⟩, by decide, by decide⟩,
   ⟨by decide, by decide +kernel, ⟨0, by decide +kernel⟩, by decide +kernel, by decide +kernel⟩, rfl, by decide +kernel⟩
/-- Lane 0 reads lane 1, which has exited. -/
theorem witness_MemberExit : let s := standsAt 0x00290F14 [waiting 0x00290F14 [(3, 7)], { at_ [] with status := .exited }]
    ∃ o, laneOpOf JetOrder.k0.order (.iadd 10 ⟨.slot1, 3⟩ (uni 5)) = some o ∧
    Gathered s 3 0 (BitVec.ofNat 64 fetchBase) (.iadd 10 ⟨.slot1, 3⟩ (uni 5)) 3 (fun _ => meeting 0x00290F14) ∧ (meeting 0x00290F14).cross = 3 ∧
    (((s.wg 3).team 0).present 3).filter (readsExited ((s.wg 3).team 0) o (meeting 0x00290F14)) ≠ [] :=
  ⟨_, rfl, ⟨by decide, by decide +kernel, ⟨0, by decide +kernel⟩, by decide +kernel, by decide +kernel⟩, rfl, by decide +kernel⟩
theorem witness_Collectives : let s := standsAt 0x24080C03 [waiting 0x24080C03 [(3, 7)], waiting 0x24080C03 [(3, 9)]]
    collectiveOperands (.reduxOr 2 (own 3)) = some (2, some (own 3), 7) ∧ (∀ a ∈ some (own 3), ownSource a) ∧
    Gathered s 3 0 (BitVec.ofNat 64 fetchBase) (.reduxOr 2 (own 3)) 3 (fun _ => meeting 0x24080C03) ∧
    ∀ l ∈ (List.range 64).filter (fun l => inMask 3 l && !(((s.wg 3).team 0).thread l).exited),
      (((s.wg 3).team 0).thread l).poison = [] :=
  ⟨rfl, by intro a h; cases h; exact .inl rfl,
   ⟨by decide, by decide +kernel, ⟨0, by decide +kernel⟩, by decide +kernel, by decide +kernel⟩, by decide +kernel⟩
theorem witness_LaneFrame : ∃ o t, laneOpOf (teamOf (solo [] []) (grp 1)).jord.order (.fadd 1 (own 2) (own 3)) = some o ∧
    Ready (solo [] []) (grp 1) o.reads o.writes ∧ (∀ a ∈ o.srcs, ownSource a) ∧ exec (.fadd 1 (own 2) (own 3)) (solo [] []) = .next t :=
  ⟨_, after (solo [] []) (.fadd 1 (own 2) (own 3)), rfl, ⟨by unfold State.Issues; decide, .inl (by decide), by decide⟩,
   by unfold ownSource; decide, by rfl⟩

/-! ## Witnesses: memory -/

/-- Ranges of a context: page 16 for code, and pages 32 to 33 under the given attributes, both led to IA of the same number. -/
def ranges (attr : BitVec 64) (c : Ctx) : Ctx :=
  { c with regs := [(0x20, 0x100000), (0x21, 0x100000), (0x22, 0x100000), (0x23, 0xB), (0x24, 0x200000), (0x25, 0x210000), (0x26, 0x200000),
                    (0x27, attr), (0x60, 0x100001), (0x61, 0x210000)] }
/-- Page 32 is published under frame 32, owned by the world; page 33 is not. -/
def paged (lattice : Bool) (d : Die) : Die :=
  { d with published := { page := 32, frame := 32, host := false, copying := false, moved := none } :: d.published,
           frames := d.frames ++ [{ FrameEntry.init 32 with owner := fetchWorld, key := 3, scrubp := false, lattice := lattice }] }
/-- A state with a data range of some attributes. -/
def ranged (attr : BitVec 64) (s : State) : State :=
  { s with ctxs := s.ctxs.map (ranges attr), dies := listModify (paged (attr.getLsbD 1)) s.dies 0 }
/-- The start of the data range, and the memory key of its first byte. -/
def dataVa : BitVec 64 := 0x200000
def dataKey : Nat := devKey 0 0x200000

theorem witness_GlobalAccesses : let s := ranged 1 (stage 1 [(4, dataVa)] [at_ [(1, 8)], at_ [(1, 16)]])
    ∃ f, globalForm (.ldG 8 1 4 .ro .b64) = some f ∧ Ready s (grp 2) f.reads f.writes ∧ (grp 2).live (teamOf s (grp 2)) ≠ [] ∧
    ∀ l ∈ (grp 2).live (teamOf s (grp 2)), Admitted (s.ctx 1) f.kind false (f.address (teamOf s (grp 2)) ((teamOf s (grp 2)).thread l)) f.bytes
      ⟨1, .plain, 0, 0, 0, 0x200008 + 8 * l⟩ :=
  ⟨_, rfl, ⟨by unfold State.Issues; decide, .inl (by decide), by decide⟩, by decide, fun l h => by
    have : l = 0 ∨ l = 1 := by
      have := (by decide +kernel : (grp 2).live (teamOf (ranged 1 (stage 1 [(4, dataVa)] [at_ [(1, 8)], at_ [(1, 16)]])) (grp 2)) = [0, 1])
      rw [this] at h; simpa using h
    rcases this with rfl | rfl <;> exact ⟨by decide +kernel, by decide +kernel, by decide +kernel, by decide +kernel⟩⟩
/-- An atomic on a global base, with a release that has nothing to wait for. -/
theorem witness_GlobalAccesses_release : let s := ranged 1 (solo [(4, dataVa)] [])
    ∃ f, globalForm (.atomAdd 2 1 4 .ar .w32) = some f ∧ f.kind = .atomic .add ∧ ((teamOf s (grp 1)).sreg f.base.toNat).getLsbD 63 = false ∧
    releases f.order ∧ ∀ l ∈ (grp 1).live (teamOf s (grp 1)), s.released 3 0 l 0xFF (scopeOfAtomic .plain) = true :=
  ⟨_, rfl, rfl, by decide +kernel, by simp [releases, atomForm], by decide +kernel⟩
/-- Each fault of the order of R129: misaligned, past 2^63, in no range, and a kind that does not take it. -/
theorem witness_AccessFaults : let c := (ranged 0xB (solo [] [])).ctx 1
    issueFault c .load false 0x200001 4 = some 0x06 ∧ issueFault c .load false (2 ^ 63) 8 = some 0x07 ∧
    issueFault c .load false 0x300000 4 = some 0x07 ∧ issueFault c .store false 0x200000 4 ≠ none := by decide +kernel
theorem witness_AccessFaults_state : let s := ranged 1 (solo [(4, dataVa)] [(1, 1)])
    ∃ f, globalForm (.ldG 8 1 4 .normal .b64) = some f ∧ Ready s (grp 1) f.reads f.writes ∧ (grp 1).live (teamOf s (grp 1)) = [0] ∧
    issueFault (s.ctx 1) f.kind false (f.address (teamOf s (grp 1)) ((teamOf s (grp 1)).thread 0)) f.bytes = some 0x06 :=
  ⟨_, rfl, ⟨by unfold State.Issues; decide, .inl (by decide), by decide⟩, by decide +kernel, by decide +kernel⟩
theorem witness_UniformAccesses : let s := ranged 1 (solo [(4, dataVa)] [])
    ∃ f, uniformForm (.sld 3 4 8) = some f ∧ s.Issues (grp 1) ∧
    Admitted (s.ctx 1) f.kind true (f.address (teamOf s (grp 1))) f.bytes ⟨1, .plain, 0, 0, 0, 0x200008⟩ :=
  ⟨_, rfl, by unfold State.Issues; decide, ⟨by decide +kernel, by decide +kernel, by decide +kernel, by decide +kernel⟩⟩
theorem witness_UniformAccesses_fault : let s := ranged 1 (solo [(4, dataVa)] [])
    ∃ f, uniformForm (.sld 3 4 (-4)) = some f ∧ issueFault (s.ctx 1) f.kind true (f.address (teamOf s (grp 1))) f.bytes = some 0x06 :=
  ⟨_, rfl, by decide +kernel⟩
/-- An atomic on scratch: bit 63 of the base is one, and both lanes lie in the workgroup's own scratch. -/
theorem witness_Scratch : let s := stage 1 [(2, 0x8000000000000000)] [at_ [(1, 8)], at_ [(1, 16)]]
    ∃ f, scratchForm (.atomAdd 2 1 2 .ar .w32) = some f ∧ Ready s (grp 2) f.reads f.writes ∧
    ((teamOf s (grp 2)).sreg f.base.toNat).getLsbD 63 = true ∧
    (∀ l ∈ (grp 2).live (teamOf s (grp 2)),
      s.scratchTarget (s.wg 3) ((teamOf s (grp 2)).sreg f.base.toNat) (((teamOf s (grp 2)).thread l).v32 f.index.toNat).toNat f.bytes = .at 3 (8 + 8 * l)) ∧
    (s.wg 3).uid = 3 ∧ (s.wg 3).poison = [] ∧ releases f.order ∧ ∀ l ∈ (grp 2).live (teamOf s (grp 2)), s.released 3 0 l 0xFF 1 = true :=
  ⟨_, rfl, ⟨by unfold State.Issues; decide, .inl (by decide), by decide⟩, by decide +kernel, by decide +kernel, by decide, by decide, by simp [releases, atomForm], by decide +kernel⟩

/-- The one lane's team with queue 3 as given. -/
def queued (q : Queue) (s : State) : State := { s with wgs := s.wgs.map fun w => { w with queues := listModify (fun _ => q) w.queues 3 } }
/-- Queue 3 filled, empty with and without a producer, full, closed, and of another width. -/
theorem witness_Queues : let q (sl : List Nat) (ps : List Nat) (o : Bool) (w : Nat) : Queue :=
      { opened := o, bank := 0, width := w, slots := sl, producers := ps, consumers := [], engineProducers := 0, poison := [] }
    let at3 (x : Queue) : Queue := ((queued x (solo [] [])).wg 3).queue 3
    Ready (queued (q [5] [] true 8) (solo [] [])) (grp 1) [] (vregs 4 2) ∧ Ready (queued (q [5] [] true 8) (solo [] [])) (grp 1) (vregs 4 2) [] ∧
    ((grp 1).live (teamOf (solo [] []) (grp 1)) = [0]) ∧
    ((at3 (q [5] [] true 8)).slots.length = 1 ∧ (at3 (q [5] [] true 8)).width = 4 * 2) ∧ (at3 (q [] [0] true 8)).producers ≠ [] ∧
    ((at3 (q [] [] true 8)).producers = [] ∧ (at3 (q [] [] true 8)).slots = []) ∧
    (at3 (q [] [] true 8)).slots.length + 1 ≤ (at3 (q [] [] true 8)).capacity ∧
    (let full := at3 (q (List.replicate 8192 7) [] true 8)
     full.capacity ≤ full.slots.length) ∧
    (at3 (q [] [] false 8)).opened = false ∧ (at3 (q [] [] true 16)).width ≠ 4 * 2 :=
  ⟨⟨by unfold State.Issues; decide, .inl (by decide), by decide⟩, ⟨by unfold State.Issues; decide, .inl (by decide), by decide⟩, by decide, by decide,
   by decide, by decide, by decide +kernel, by decide +kernel, by decide, by decide⟩

/-- An access of lane 0 at the start of the data range. -/
def part (kd : RangeKind) (lt : Nat) (v : Verdict) (x : Nat) : LaneAcc :=
  { lane := 0, va := 0x200000, kind := kd, ltype := lt, home := 0, ia := 0x200000, data := x, data2 := 0, verdict := v }
def access (k : AccKind) (n : Nat) (u : Bool) (x : LaneAcc) : Access :=
  { id := 9, wg := 3, team := 0, pc := BitVec.ofNat 64 fetchBase, kind := k, bytes := n, lanes := [x], dest := 2, uniform := u, hint := .normal,
    order := .rlx, colour := 0, limit := 0, group := 1, discarded := false, again := false }
/-- It stands alone in the machine, its thread in its region. -/
def accessing (attr : BitVec 64) (a : Access) : State :=
  let s := ranged attr (stage 1 [] [{ at_ [] with status := .region 9 }])
  { s with accs := [a], cur := none }
/-- The machine before the access. -/
abbrev before (attr : BitVec 64) : State := ranged attr (stage 1 [] [{ at_ [] with status := .region 9 }])
/-- The access of kind k is about to commit. -/
def Commits (attr : BitVec 64) (k : AccKind) (n : Nat) (u : Bool) (x : LaneAcc) : Prop :=
  Committing (accessing attr (access k n u x)) (access k n u x) x dataKey
theorem commits_at (attr : BitVec 64) (k : AccKind) (n : Nat) (u : Bool) (x : LaneAcc) (hx : x.verdict = .mapped) (hl : x.lane = 0)
    (hk : (before attr).keyOf x.home x.ia = some dataKey)
    (hn : (accessing attr (access k n u x)).linked x.kind ((accessing attr (access k n u x)).wg 3).die x.home x.ia = true)
    (h : n ∈ [1, 2, 4, 8, 16, 32]) : Commits attr k n u x :=
  ⟨rfl, rfl, rfl, hx, rfl, rfl, fun _ h => absurd h List.not_mem_nil, hn, hk, ⟨rfl, rfl, rfl, rfl⟩, ⟨rfl, Nat.succ_ne_zero 2, Nat.one_pos⟩, by rw [hl]; exact Nat.one_pos,
   ⟨h, (by decide +kernel : ∀ n ∈ [1, 2, 4, 8, 16, 32], dataKey % n = 0) n h⟩⟩
/-- The clauses of a commit: loads, a uniform load, stores, an atomic, a shape entry. -/
theorem witness_Commit : Commits 1 .load 8 false (part .plain 0 .mapped 5) ∧ Commits 1 .load 8 true (part .plain 0 .mapped 5) ∧
    Commits 1 .store 4 false (part .plain 0 .mapped 5) ∧ Commits 1 .store 4 false (part .peer 0 .mapped 5) ∧
    Commits 1 (.atomic .cas) 8 false (part .plain 0 .mapped 5) ∧ Commits 1 (.shape 3) 32 true (part .plain 0 .mapped 5) ∧
    viewOf (accessing 1 (access (.shape 3) 32 true (part .plain 0 .mapped 5))) (access .load 8 false (part .plain 0 .mapped 5))
      (part .plain 0 .mapped 5) = .raw := by
  refine ⟨?_, ?_, ?_, ?_, ?_, ?_, by decide +kernel⟩ <;>
    exact commits_at _ _ _ _ _ rfl rfl (by decide +kernel) (by decide +kernel) (by decide)
/-- A load of a format view whose sector L2 holds. -/
def viewed (x : LaneAcc) : State :=
  let s := accessing 1 (access .load 8 false x)
  { s with dies := listModify (fun d => { d with fmt := [(0x100, 0x200001)], sectors := [⟨0, 0x10000, 7⟩] }) s.dies 0 }
theorem witness_Commit_view : let x := part .plain 0 .mapped 5
    let a := access .load 8 false x
    Committing (viewed x) a x dataKey ∧ ∃ r view tn, viewOf (viewed x) a x = .view r view tn :=
  ⟨⟨rfl, rfl, rfl, rfl, rfl, rfl, fun _ h => absurd h List.not_mem_nil, by decide +kernel, by decide +kernel, ⟨rfl, rfl, rfl, rfl⟩, ⟨rfl, by decide, by decide⟩, by decide,
    by decide, by decide +kernel⟩, 0, 0x200000, Tensor.blank, by decide +kernel⟩
/-- Joins, stores and the two atomics on lattice cells; an element and a NaN of MAXF32; a slot of a counter. -/
theorem witness_Lattice : Commits 3 .join 4 false (part .lattice 5 .mapped 0x3F800000) ∧ isElement 5 0x3F800000 = true ∧
    Commits 3 .join 4 false (part .lattice 5 .mapped 0x7FC00000) ∧ isElement 5 0x7FC00000 = false ∧
    Commits 3 .store 8 false (part .lattice 1 .mapped 5) ∧ Commits 3 (.atomic .maxN) 4 false (part .lattice 0 .mapped 5) ∧
    Commits 3 (.atomic .add) 4 false (part .lattice 8 .mapped 5) ∧ 4 % unitBytes 5 = 0 ∧ 8 % unitBytes 1 = 0 ∧ 4 % unitBytes 8 = 0 ∧
    (∃ c ∈ (accessing 3 (access .join 4 false (part .lattice 5 .mapped 5))).ctxs, c.uid = 1) := by
  refine ⟨?_, by decide +kernel, ?_, by decide +kernel, ?_, ?_, ?_, by decide, by decide, by decide, by decide +kernel⟩ <;>
    exact commits_at _ _ _ _ _ rfl rfl (by decide +kernel) (by decide +kernel) (by decide)
theorem witness_Joins : isElement 5 0x3F800000 = true ∧ isElement 5 0xFF800000 = true ∧ 0x3F800000 < 2 ^ (8 * unitBytes 5) := by decide +kernel

/-- A lane's access waits for its verdict alone: the page is published, is not, and is another world's. -/
def asking (k : AccKind) (ia : Nat) (s : State) : State := { s with accs := [access k 4 false { part .plain 0 .waiting 5 with va := ia, ia := ia }], cur := none }
theorem witness_Verdicts : let s := ranged 1 (solo [] [])
    let foreign : State := { s with dies := s.dies.map fun d => { d with frames := d.frames.map fun f => { f with owner := 2 } } }
    let copied : State := { s with dies := s.dies.map fun d => { d with published := d.published.map fun m => { m with copying := true } } }
    let x : LaneAcc := { part .plain 0 .waiting 5 with va := 0x200000, ia := 0x200000 }
    (asking .load 0x200000 s).laneVerdict (s.wg 3) .load x = .mapped ∧
    (asking .load 0x210000 s).laneVerdict (s.wg 3) .load { x with ia := 0x210000 } = .page ∧
    (asking .store 0x210000 s).laneVerdict (s.wg 3) .store { x with ia := 0x210000 } = .page ∧
    (asking .load 0x200000 foreign).laneVerdict (s.wg 3) .load x = .own ∧
    (asking .load 0x200000 copied).laneVerdict (s.wg 3) .load x = .waiting ∧ (s.wg 3).frozen = false ∧ s.slog = [] ∧ (s.wg 3).uid = 3 ∧ 0 < (s.wg 3).teams.length ∧
    0 < ((s.wg 3).team 0).threads.length ∧ 0 < s.dies.length ∧ ∃ c ∈ s.ctxs, c.uid = (s.wg 3).ctx := by decide +kernel

/-! ## Witnesses: flow and the uniform strand -/

theorem witness_Branches : let s := solo [(14, BitVec.ofNat 64 fetchBase)] [(6, BitVec.ofNat 32 fetchBase)]
    s.Issues (grp 1) ∧ targetHeld (teamOf s (grp 1)) (.uni 14) ∧ targetHeld (teamOf s (grp 1)) (.pair 6) ∧
    (∀ l ∈ (grp 1).live (teamOf s (grp 1)), goodTarget s (grp 1) (jumpTarget (teamOf s (grp 1)) (.pair 6) ((teamOf s (grp 1)).thread l))) :=
  ⟨by unfold State.Issues; decide, trivial, .inl (by decide), by unfold goodTarget; decide +kernel⟩
/-- RET needs a good lr; the block lets a pair lie in v62 and v63. -/
theorem witness_Branches_ret : let s := stage 1 [] [{ at_ [] with lr := BitVec.ofNat 64 fetchBase }]
    (∀ l ∈ (grp 1).live (teamOf s (grp 1)), goodTarget s (grp 1) ((teamOf s (grp 1)).thread l).lr) ∧
    targetHeld { Team.absent with ext := true } (.pair 62) := ⟨by unfold goodTarget; decide +kernel, .inr rfl⟩
/-- Targets that are misaligned, and that lie in no code range. -/
theorem witness_JumpTargets : let s (x : BitVec 64) := solo [(14, x)] []
    (s 6).Issues (grp 1) ∧ (grp 1).live (teamOf (s 6) (grp 1)) = [0] ∧ targetHeld (teamOf (s 6) (grp 1)) (.uni 14) ∧
    ¬ goodTarget (s 6) (grp 1) 6 ∧ ¬ goodTarget (s 8) (grp 1) 8 ∧ ((teamOf (s 6) (grp 1)).thread 0).outs = [] :=
  ⟨by unfold State.Issues; decide, by decide, trivial, by unfold goodTarget; decide +kernel, by unfold goodTarget; decide +kernel, by decide⟩
/-- Lane 0 alone issues. -/
def led (s : State) : State := { s with cur := some (grp 1) }
/-- A pending result of a thread. -/
def out9 : Out := { id := 8, ready := false, regs := [], p6 := none, flags := 0 }
theorem witness_Traps : let s := solo [] []
    let held : State := { s with ctxs := s.ctxs.map fun c => { c with halted := true } }
    let busy := stage 1 [] [{ at_ [] with outs := [out9] }]
    let raised := stage 1 [] [{ at_ [] with status := .trapping (plainTrap 0x11 0) }]
    s.Issues (grp 1) ∧ (grp 1).live (teamOf s (grp 1)) = [0] ∧ ((teamOf s (grp 1)).thread 0).outs = [] ∧ (s.ctx 1).halted = false ∧
    (held.ctx (held.wg 3).ctx).halted = true ∧ ((teamOf busy (grp 1)).thread 0).outs ≠ [] ∧
    ((teamOf raised (grp 1)).thread 0).status = .trapping (plainTrap 0x11 0) ∧ raised.powered = true ∧ (raised.wg 3).frozen = false :=
  ⟨by unfold State.Issues; decide, by decide, by decide, by decide, by decide, by decide, by decide, by decide, by decide⟩
theorem witness_Handlers : let s := solo [(4, 0x1000), (5, 6)] []
    let inside := stage 1 [] [{ at_ [] with tcause := 0x8000000000000011 }]
    s.Issues (grp 1) ∧ ((teamOf s (grp 1)).sreg 4).toNat % 4 = 0 ∧ ((teamOf s (grp 1)).sreg 5).toNat % 4 ≠ 0 ∧
    (∀ l ∈ (grp 1).live (teamOf inside (grp 1)), ((teamOf inside (grp 1)).thread l).tcause.getLsbD 63 = true) ∧
    (∃ l ∈ (grp 1).live (teamOf s (grp 1)), ((teamOf s (grp 1)).thread l).tcause.getLsbD 63 = false) :=
  ⟨by unfold State.Issues; decide, by decide, by decide, by decide, by decide⟩
theorem witness_Exit : let s := led (stage 1 [] [at_ [], { at_ [] with status := .exited }])
    s.Issues (grp 1) ∧ (grp 1).live (teamOf s (grp 1)) = [0] ∧ (s.wg 3).barriers.length = 16 ∧ ((teamOf s (grp 1)).thread 0).outs = [] ∧
    ((teamOf s (grp 1)).thread 0).status = .running ∧
    ∀ k, k < (teamOf s (grp 1)).threads.length → k ≠ 0 → ((teamOf s (grp 1)).thread k).status = .exited :=
  ⟨by unfold State.Issues; decide, by decide, by decide, by decide, by decide, by decide⟩
/-- Barriers off, short of the last arrival, and at it; a thread that waits on the phase; an arrival with a write not yet performed. -/
theorem witness_Barriers : let s := led (stage 1 [] [at_ [], { at_ [] with status := .waiting (.barrier 5 0) }])
    let w (x : Barrier) : Wg := { (s.wg 3) with barriers := listModify (fun _ => x) (s.wg 3).barriers 5 }
    let late : State := { s with unacked := [{ wg := 3, team := 0, lanes := 1, colour := 0, kind := 0, die := 0, cluster := 0, key := dataKey, bytes := 4, data := 7 }] }
    s.Issues (grp 1) ∧ (grp 1).live (teamOf s (grp 1)) = [0] ∧ (s.wg 3).barriers.length = 16 ∧ ((teamOf s (grp 1)).thread 0).status = .running ∧
    s.released 3 0 0 0xFF 1 = true ∧ ((w ⟨0, 0, 0⟩).barrier 5).expected = 0 ∧
    ((w ⟨2, 0, 0⟩).barrier 5).count + 1 < ((w ⟨2, 0, 0⟩).barrier 5).expected ∧
    (0 < ((w ⟨2, 1, 0⟩).barrier 5).expected ∧ ((w ⟨2, 1, 0⟩).barrier 5).expected ≤ ((w ⟨2, 1, 0⟩).barrier 5).count + 1) ∧
    ((teamOf s (grp 1)).thread 1).status = .waiting (.barrier 5 ((s.wg 3).barrier 5).phase) ∧ late.released 3 0 0 0xFF 3 = false :=
  ⟨by unfold State.Issues; decide, by decide, by decide, by decide, by decide +kernel, by decide, by decide, by decide, by decide, by decide +kernel⟩
theorem witness_Fences : let s := solo [] []
    let late : State := { s with unacked := [{ wg := 3, team := 0, lanes := 1, colour := 0, kind := 0, die := 0, cluster := 0, key := dataKey, bytes := 4, data := 7 }] }
    s.Issues (grp 1) ∧ (grp 1).live (teamOf s (grp 1)) ≠ [] ∧ (∀ l ∈ (grp 1).live (teamOf s (grp 1)), s.released 3 0 l 0xFF 3 = true) ∧
    (∀ l ∈ (grp 1).live (teamOf late (grp 1)), late.released 3 0 l 0xFF 3 = false) :=
  ⟨by unfold State.Issues; decide, by decide, by decide +kernel, by decide +kernel⟩

theorem witness_UniformArithmetic : ∃ f, scalarForm (.slitC 9 0x48D) = some (9, f) ∧ (solo [] []).Issues (grp 1) :=
  ⟨_, rfl, by unfold State.Issues; decide⟩
theorem witness_UniformFrame : ∃ f t, scalarForm (.sadd 3 4 5) = some (3, f) ∧ (solo [] []).Issues (grp 1) ∧ exec (.sadd 3 4 5) (solo [] []) = .next t :=
  ⟨_, after (solo [] []) (.sadd 3 4 5), rfl, by unfold State.Issues; decide, by rfl⟩
/-- The bounds of BARSET: 0, 1,024 and 1,025; the shared registers are whole. -/
theorem witness_TeamSettings : let s := solo [(3, 0), (4, 1024), (5, 1025)] []
    s.Issues (grp 1) ∧ (s.wg 3).barriers.length = 16 ∧ 1024 < ((teamOf s (grp 1)).sreg 5).toNat ∧ ((teamOf s (grp 1)).sreg 4).toNat ≤ 1024 ∧
    ((teamOf s (grp 1)).sreg 3).toNat = 0 ∧ ∃ f, sharedForm (.gadd 4 3 2) = some (4, 2, f, true) ∧ (2 : GReg).toNat ∉ (s.wg 3).gpoison :=
  ⟨by unfold State.Issues; decide, by decide, by decide, by decide, by decide, _, rfl, by decide⟩
theorem witness_Units : (solo [] []).Issues (grp 1) := by unfold State.Issues; decide
/-- Without a block and with one free, with none free, with the block and nothing outstanding in it, and with something; a team to give it
to, one that has one, and numbers of no other team. -/
theorem witness_Blocks : let s := solo [(3, 1)] []
    let two (f : Team → Team) : State := { s with wgs := s.wgs.map fun w => { w with teams := w.teams.map f ++ [{ Team.absent with threads := [at_ []] }] } }
    let held := two fun t => { t with ext := true }
    let out : State := { held with wgs := held.wgs.map fun w => { w with teams := w.teams.map fun t =>
      { t with threads := t.threads.map fun th => { th with outs := [{ out9 with ready := true, regs := [(40, 1)] }] } } } }
    let full : State := { s with wgs := s.wgs ++ (upFrom 20 16).map fun n => { fetchWg n 1 2 with teams := [{ Team.absent with ext := true }] } }
    s.Issues (grp 1) ∧ (teamOf s (grp 1)).ext = false ∧ s.blockNow (s.wg 3) (teamOf s (grp 1)) = true ∧
    full.blockNow (full.wg 3) (teamOf full (grp 1)) = false ∧ (teamOf held (grp 1)).ext = true ∧
    held.outsExtended 3 0 (teamOf held (grp 1)) = false ∧ out.outsExtended 3 0 (teamOf out (grp 1)) = true ∧
    (1 < (held.wg 3).teams.length ∧ ((held.wg 3).team 1).ended = false ∧ ((held.wg 3).team 1).ext = false ∧ ((held.wg 3).team 1).extReserved = false) ∧
    (s.wg 3).teams.length ≤ ((teamOf s (grp 1)).sreg 3).toNat % 2 ^ 4 :=
  ⟨by unfold State.Issues; decide, by decide, by decide +kernel, by decide +kernel, by decide, by decide +kernel, by decide +kernel, by decide +kernel, by decide⟩

/-! ## Witnesses: control registers and authority -/

theorem witness_Privilege : rightsOf (.fopr 8 9 1) = some (8, [0], true) ∧ rightsOf (.ldk 6 4 0) = some (6, [1], false) ∧ (solo [] []).Issues (grp 1) ∧
    (ctxOf (solo [] []) (grp 1)).auth < 3 ∧ (ctxOf (solo [] []) (grp 1)).auth ∉ [0] ∧ (ctxOf (stage 0 [] [at_ []]) (grp 1)).auth ∉ [1] :=
  ⟨rfl, rfl, by unfold State.Issues; decide, by decide, by decide, by decide⟩
/-- A register the owner reads, one whose cells he may not read, and an index no row lists; the rows' ends. -/
theorem witness_Srds : let s := solo [] []
    readIndex (.srds 1 0x060) = some (1, 0x060) ∧ s.Issues (grp 1) ∧ (ctxOf s (grp 1)).auth < 3 ∧
    (∃ row ∈ readRows s (grp 1), row.index = 0x060 ∧ (ctxOf s (grp 1)).auth ∈ row.readers) ∧
    ((∃ row ∈ readRows s (grp 1), row.index = 0x070) ∧ ∀ row ∈ readRows s (grp 1), row.index = 0x070 → (ctxOf s (grp 1)).auth ∉ row.readers) ∧
    (∀ row ∈ readRows s (grp 1), row.index ≠ 0x005 ∧ row.index ≠ 0x110) ∧ ∃ row ∈ readRows s (grp 1), row.index = 0x10F :=
  ⟨rfl, by unfold State.Issues; decide, by decide, by decide +kernel, by decide +kernel, by decide +kernel, by decide +kernel⟩
theorem witness_RegisterWrites : let s := solo [(4, 2)] []
    writeIndex (.swrs 6 4 0x001) = some (6, 4, 0x001) ∧ s.Issues (grp 1) ∧ (ctxOf s (grp 1)).auth < 3 ∧ (ctxOf s (grp 1)).uid = (s.wg 3).ctx ∧
    ∃ row ∈ writeRows s (grp 1) ((teamOf s (grp 1)).sreg 4), row.index = 0x001 ∧ (ctxOf s (grp 1)).auth ∈ row.writers ∧ row.free :=
  ⟨rfl, by unfold State.Issues; decide, by decide, by decide, _, by
    unfold writeRows
    exact List.mem_append_left _ (List.mem_append_left _ (List.mem_append_left _ (List.mem_append_left _ (List.mem_append_left _
      (List.mem_append_left _ (List.mem_append_left _ (List.Mem.head _))))))), rfl, by decide, trivial⟩
/-- What must not stand against some of the writes: PLPOL below 3, a range that is off, an engine at rest, a format view that is off. -/
theorem witness_RegisterWrites_free : let s := ranged 0 (solo [] [])
    (2 : BitVec 64).toNat % 4 ≠ 3 ∧ (ctxOf s (grp 1)).rangeEnabled 1 = false ∧ (s.engFor (s.wg 3) .copy).state ≠ 1 ∧
    (s.engFor (s.wg 3) .copy).state ≠ 2 ∧ (64 : BitVec 64).toNat % 64 = 0 ∧ (spGet (dieOf s (grp 1)).fmt 0x10E).getLsbD 0 = false := by decide +kernel
/-- Each judgement: refused, trap, frozen, and proceeds. -/
theorem witness_Judged : judged 0x070 1 false = .refused ∧ judged 0x003 1 false = .trap ∧ judged 0x088 1 false = .trap ∧ judged 0x100 1 true = .frozen ∧
    judged 0x10F 1 false = .proceeds ∧ judged 0x0A0 0 true = .frozen ∧ judged 0x0B7 0 false = .proceeds ∧ judged 0x0B8 0 false = .trap ∧
    judged 0x088 1 true = .frozen := by decide
/-- The clauses of a write that is turned away: an enabled range, a kind there is not, bounds out of order, PLPOL 3, a misaligned engine
address, a running engine, an enabled view, a quota out of bounds, a draining die, an exchange entry below its bounds. -/
theorem witness_JudgedClauses : let s := ranged 1 (solo [] [])
    let c := ctxOf s (grp 1)
    let running : Eng := { Eng.init .copy 0 0 with state := 1 }
    c.rangeEnabled 1 = true ∧ c.rangeEnabled 2 = false ∧ 6 ≤ field (0xC : BitVec 64) 1 3 ∧
    (ranges 0 { c with regs := [] }).rangeEnabled 1 = false ∧ (3 : BitVec 64).toNat % 4 = 3 ∧ (32 : BitVec 64).toNat % 64 ≠ 0 ∧ (4 : BitVec 64).toNat % 8 ≠ 0 ∧
    (({ s with ctxs := s.ctxs.map fun k => { k with engines := [running] } } : State).engFor (s.wg 3) .copy).state = 1 ∧
    (spGet [(0x100, (1 : BitVec 64))] 0x100).getLsbD 0 = true ∧ field (0x70000 : BitVec 64) 16 16 < 8 ∧ 1024 < field (0x4010000 : BitVec 64) 16 16 ∧
    (({ dieOf s (grp 1) with dstate := 1 } : Die)).dstate = 1 ∧ within 0x087 0x080 8 = true ∧ (0x80 : BitVec 64).getLsbD 7 = true ∧
    field (0x80 : BitVec 64) 16 16 = 0 := by decide +kernel

/-! ## Witnesses: configuration, engines, caches, banks -/

theorem witness_Ranges : let s := ranged 0 (solo [(4, 0xA)] [])
    writeIndex (.swrs 6 4 0x02F) = some (6, 4, 0x02F) ∧ s.Issues (grp 1) ∧ (ctxOf s (grp 1)).auth < 3 ∧ (ctxOf s (grp 1)).uid = (s.wg 3).ctx ∧
    (s.wg 3).ctx ≠ 0 ∧ (ctxOf s (grp 1)).part < s.parts.length ∧ 0x02F = 0x023 + 4 * 3 ∧
    (ctxOf s (grp 1)).rangeEnabled 3 = false ∧ (0xA : BitVec 64).getLsbD 0 = false ∧ field (0xA : BitVec 64) 1 3 < 6 :=
  ⟨rfl, by unfold State.Issues; decide, by decide, by decide, by decide, by decide, by decide, by decide +kernel, by decide, by decide⟩
/-- Range 1 stands ready and switched off, as in `ranged`, and range 2 over the message page, the pages of range 1 exported. -/
def peered : State :=
  let s := ranged 0 (solo [] [])
  { s with ctxs := s.ctxs.map fun c => { c with regs := c.regs ++ [(0x28, 0x300000), (0x29, 0x300000), (0x2A, 0xFFFFFFFFF0000),
      (exportKey 0 0x90, 0x200001), (exportKey 0 0x91, 0x210000)] } }
/-- It may be enabled as plain memory, as a peer range over exported pages or the message page, and as a lattice range: its region is new
and no page of it published, new with a published page in it, and declared already. -/
theorem witness_MayEnable : let s := peered
    let c := s.ctx 1
    let bare := solo [] []
    let told : State := { s with parts := s.parts.map fun p => { p with regions := [regionFor c 1 0xF83] } }
    (MayEnable c 1 1 ∧ inOneWindow c (c.roff 1) 2 ∧ field (1 : BitVec 64) 1 3 ∈ [0, 3, 4, 5]) ∧
    (MayEnable c 1 5 ∧ field (5 : BitVec 64) 1 3 = 2 ∧ (partOf s (grp 1)).phys (field (5 : BitVec 64) 12 5) = some 0 ∧
      s.exported c 0 (c.roff 1) 2 = true) ∧
    (MayEnable c 2 5 ∧ 0xFFFFFFFFF ≤ c.roff 2 ∧ c.roff 2 + 1 ≤ 2 ^ 36) ∧
    (MayEnable c 1 0xF83 ∧ field (0xF83 : BitVec 64) 1 3 = 1 ∧ field (0xF83 : BitVec 64) 4 4 ≤ 8 ∧ (partOf s (grp 1)).regions = []) ∧
    (∀ e, e < 24 → ∀ y ∈ (bare.die e).published, y.page ≠ 32 ∧ y.page ≠ 33) ∧
    (let y : Mapping := { page := 32, frame := 32, host := false, copying := false, moved := none }
     y ∈ (s.die 0).published ∧ y.spot 0 = (some 0, 32) ∧ (s.frameOf 0 32).owner = (partOf s (grp 1)).world) ∧
    (regionFor (told.ctx 1) 1 0xF83 ∈ (partOf told (grp 1)).regions ∧
      ∀ r ∈ (partOf told (grp 1)).regions, r.id = (regionFor (told.ctx 1) 1 0xF83).id → r = regionFor (told.ctx 1) 1 0xF83) := by
  have h (n : Nat) (x : BitVec 64) (hn : n = 1 ∨ n = 2) (hx : x.getLsbD 0 = true) : MayEnable (peered.ctx 1) n x :=
    { off := by rcases hn with rfl | rfl <;> decide +kernel, sets := hx, order := by rcases hn with rfl | rfl <;> decide +kernel,
      apart := fun m hm _ => by
        rcases hn with rfl | rfl
        · exact (by decide +kernel : ∀ m, m < 16 → (peered.ctx 1).rangeEnabled m = true →
            (peered.ctx 1).rlim m < (peered.ctx 1).rbase 1 ∨ (peered.ctx 1).rlim 1 < (peered.ctx 1).rbase m) m hm
        · exact (by decide +kernel : ∀ m, m < 16 → (peered.ctx 1).rangeEnabled m = true →
            (peered.ctx 1).rlim m < (peered.ctx 1).rbase 2 ∨ (peered.ctx 1).rlim 2 < (peered.ctx 1).rbase m) m hm }
  refine ⟨⟨h 1 _ (.inl rfl) (by decide), ⟨0, by decide +kernel⟩, by decide⟩, ⟨h 1 _ (.inl rfl) (by decide), by decide +kernel⟩,
    ⟨h 2 _ (.inr rfl) (by decide), by decide +kernel⟩, ⟨h 1 _ (.inl rfl) (by decide), by decide +kernel⟩, by decide +kernel, by decide +kernel,
    by decide +kernel⟩
/-- A range in use and one that is not, written with EN clear. -/
theorem witness_RangeOff : let s := ranged 1 (solo [] [])
    let c := s.ctx 1
    c.rangeEnabled 1 = true ∧ s.rangeBusy c 1 = false ∧ (0 : BitVec 64).getLsbD 0 = false ∧ field (0 : BitVec 64) 1 3 < 6 ∧
    (accessing 1 (access .load 8 false (part .plain 0 .mapped 5))).rangeBusy ((accessing 1 (access .load 8 false (part .plain 0 .mapped 5))).ctx 1) 1 = true := by
  decide +kernel
/-- Die 0 may send to logical die 31 every 4 ns or more, and one entry at most is enabled. -/
def exchanging (s : State) : State :=
  { s with dies := listModify (fun d => { d with xbound := 0x8000000000080004 }) s.dies 0 }
/-- An entry is set to a new value and to the value it has, and its EN is cleared. -/
theorem witness_Exchange : let s := exchanging (solo [(4, 0x0004009F)] [])
    let e := dieOf s (grp 1)
    let x : BitVec 64 := 0x0004009F
    writeIndex (.swrs 6 4 0x087) = some (6, 4, 0x087) ∧ s.Issues (grp 1) ∧ (ctxOf s (grp 1)).auth = 1 ∧ x.getLsbD 7 = true ∧
    (ctxOf s (grp 1)).uid = (s.wg 3).ctx ∧ (s.wg 3).die < s.dies.length ∧
    (partOf s (grp 1)).logicalOf 0 ≠ some (field x 0 5) ∧ 0 < field x 16 16 ∧ e.xbound.getLsbD (32 + field x 0 5) = true ∧
    field e.xbound 0 16 ≤ field x 16 16 ∧ ((List.range 8).countP fun k => k != 7 && (e.xreg k).getLsbD 7) < min 8 (field e.xbound 16 4) ∧
    e.xreg 7 ≠ x &&& 0xFFFF009F ∧ (Die.xreg { e with xsched := [(7, x)] } 7 = x &&& 0xFFFF009F) ∧ (0x1F : BitVec 64).getLsbD 7 = false :=
  ⟨rfl, by unfold State.Issues; decide, by decide, by decide, by decide, by decide, by decide +kernel, by decide, by decide +kernel, by decide +kernel,
   by decide +kernel, by decide +kernel, by decide +kernel, by decide⟩
/-- Exports that are off, to be set inside the world's window or with EN clear; one that is on, and used by a peer range or not. -/
theorem witness_Exports : let s := ranged 0 (solo [] [])
    let c := s.ctx 1
    let used : State := { peered with ctxs := peered.ctxs.map fun k => { k with regs := spSet k.regs 0x27 5 } }
    (c.expb 0 7).getLsbD 0 = false ∧ (1 : BitVec 64).getLsbD 0 = true ∧ (0 : BitVec 64).getLsbD 0 = false ∧
    field (0x200001 : BitVec 64) 16 36 ≤ field (0x210000 : BitVec 64) 16 36 ∧
    coveredBy (s.worldWindows c.part c.world) ((s.worldWindows c.part c.world).length + 1) (field (0x200001 : BitVec 64) 16 36)
      (field (0x210000 : BitVec 64) 16 36) = true ∧
    ((peered.ctx 1).expb 0 0).getLsbD 0 = true ∧ peered.imported 0 0 32 33 = false ∧ used.imported 0 0 32 33 = true := by decide +kernel
/-- The same with the interface not yet locked. -/
def unlocked (s : State) : State := { s with parts := s.parts.map fun p => { p with ifstate := .unlocked } }
/-- An operator's machine whose die 0 has the data page published, its frame sealed or not, and a thread that stands inside code
of page 16 or not. -/
def rooting (x : BitVec 64) (sealed_ : Bool) (inside : Bool) : State :=
  let s := ranged 1 (stage 0 [(4, x), (5, 1), (3, 0x10)] [if inside then { at_ [] with status := .region 7 } else at_ []])
  { s with dies := s.dies.map fun d => { d with frames := d.frames.map fun f => { f with isSealed := sealed_ && f.frame == 32 } },
           accs := if inside then [{ access .load 8 false (part .plain 0 .mapped 5) with id := 7 }] else [] }
theorem witness_Roots : let s := rooting 0x80000 false false
    let rooted (t : State) : State := t.modDie 0 fun y => { y with ptroot := 0 }
    writeIndex (.swrs 6 4 0x0D2) = some (6, 4, 0x0D2) ∧ s.Issues (grp 1) ∧ (ctxOf s (grp 1)).auth = 0 ∧ (ctxOf s (grp 1)).uid = (s.wg 3).ctx ∧
    (partOf (unlocked s) (grp 1)).locked = false ∧ (ctxOf s (grp 1)).part < s.parts.length ∧ (dieOf s (grp 1)).dstate = 0 ∧
    (0x80000 : BitVec 64).getLsbD 0 = false ∧ (rooted (rooting 0 false true)).publishWaits 0 0 (2 ^ 36) = true ∧
    (rooted s).publishWaits 0 0 (2 ^ 36) = false ∧ ((rooted s).publish 0 0 (2 ^ 36)).2 = 0 ∧
    (∃ m ∈ (dieOf (rooting 0 true false) (grp 1)).published, m.page < 2 ^ 36 ∧ (rooting 0 true false).sealedAt 0 m = true) ∧
    (∀ m ∈ (dieOf s (grp 1)).published, m.page < 2 ^ 36 → s.sealedAt 0 m = false) ∧
    8 ≤ field (0x80000 : BitVec 64) 16 16 ∧ field (0x4000000 : BitVec 64) 16 16 ≤ 1024 :=
  ⟨rfl, by unfold State.Issues; decide, by decide, by decide, by decide, by decide, by decide, by decide, by decide +kernel, by decide +kernel,
   by decide +kernel, by decide +kernel, by decide +kernel, by decide, by decide⟩
/-- MAPSYNC over page 32, whose tables hold nothing: a thread inside the code that goes, a frame that is sealed, and neither; the bounds of
its span; and an entry of
another world's window that names a frame of this one, which may not be published. -/
theorem witness_Mapsync : let gone (s : State) (lo n : Nat) : List Mapping :=
      (dieOf s (grp 1)).published.filter fun m => decide (lo ≤ m.page) && decide (m.page < lo + n)
    let s := rooting 0x20 false false
    s.Issues (grp 1) ∧ (dieOf s (grp 1)).dstate = 0 ∧ ((teamOf s (grp 1)).sreg 4).toNat = 32 ∧ ((teamOf s (grp 1)).sreg 5).toNat = 1 ∧
    2 ^ 36 < 2 ^ 36 + ((teamOf s (grp 1)).sreg 5).toNat ∧ ((teamOf s (grp 1)).sreg 0).toNat = 0 ∧ s.tableMappings 0 32 33 = [] ∧ s.mappingsOk 0 [] = true ∧
    (∃ m ∈ gone (rooting 0x10 false true) 16 1, (rooting 0x10 false true).insideCode 0 (m.page * 65536) (m.page * 65536 + 65536) = true) ∧
    (∀ m ∈ gone s 32 1, s.insideCode 0 (m.page * 65536) (m.page * 65536 + 65536) = false) ∧
    (∃ m ∈ gone (rooting 0x20 true false) 32 1, (rooting 0x20 true false).sealedAt 0 m = true) ∧ (∀ m ∈ gone s 32 1, s.sealedAt 0 m = false) ∧
    (let other : Ctx := { fetchCtx 20 with handle := 9, world := 2, regs := [(0x60, 0x400001), (0x61, 0x400000)] }
     let t : State := { s with ctxs := s.ctxs ++ [other] }
     t.mappingsOk 0 [{ page := 64, frame := 32, host := false, copying := false, moved := none }] = false) :=
  ⟨by unfold State.Issues; decide, by decide, by decide, by decide, by decide, by decide, by decide +kernel, by decide +kernel, by decide +kernel, by decide +kernel,
   by decide +kernel, by decide +kernel, by decide +kernel⟩

/-- A copy record at 0x200040: OPC 1, the last of its chain, LEN bytes from a source to 0x200200. -/
def copyRecord (src len : Nat) : Nat := 1 + src * 2 ^ 128 + 0x200200 * 2 ^ 192 + len * 2 ^ 256
/-- An owner's machine with the copy engine of die 0 in a state, its record written. -/
def engined (st : Nat) (src len : Nat) : State :=
  let s := ranged 1 (solo [(3, 5), (4, 0x200040), (5, 0x200044)] [])
  let y : Eng := { Eng.init .copy 0 0 with head := 0x200040, tail := 0x200040, seqa := 0x200000, state := st, wg := 3 }
  { s with mem := writeLE s.mem (devKey 0 0x200040) 64 (copyRecord src len), ctxs := s.ctxs.map fun c => { c with engines := [y] } }
/-- ETAIL: misaligned, ready, and with a write outstanding; EWAIT: passed, stopped or without a limit, and waiting. -/
theorem witness_EngineInstructions : let s := engined 1 0x200100 16
    let y := s.engFor (s.wg 3) .copy
    let limited : State := { s with wgs := s.wgs.map fun w => { w with teams := w.teams.map fun t => { t with waitlim := 0 } } }
    s.Issues (grp 1) ∧ ((teamOf s (grp 1)).sreg 5).toNat % 64 ≠ 0 ∧ ((teamOf s (grp 1)).sreg 4).toNat % 64 = 0 ∧ allReleased s (grp 1) 3 ∧
    ¬ allReleased { s with unacked := [⟨3, 0, 1, 0, 0, 0, 0, dataKey, 4, 0⟩] } (grp 1) 3 ∧ y.state = 1 ∧
    (0 ≤ y.seq.toNat ∧ y.seq.toNat < ((teamOf s (grp 1)).sreg 3).toNat ∧ (teamOf s (grp 1)).waitlim ≠ 0 ∧ (teamOf limited (grp 1)).waitlim = 0) :=
  ⟨by unfold State.Issues; decide, by decide, by decide, by unfold allReleased; decide +kernel, by unfold allReleased; decide +kernel, by decide +kernel, by decide +kernel⟩
/-- A wait for the fifth record, its limit passed. -/
def engineWaiter : Waiter :=
  { id := 9, wg := 3, team := 0, lane := 0, cell := false, pc := 0, bytes := 8, home := 0, ia := 0, ltype := 0, threshold := 5, dest := 6,
    start := 0, limit := 7, polling := false, nextPoll := 0, engine := .copy,
    va := 0, abandoned := false }
theorem witness_EngineWaits : let s : State := { engined 1 0x200100 16 with waiters := [engineWaiter] }
    let reached : State := { s with ctxs := s.ctxs.map fun c => { c with engines := c.engines.map fun e => { e with seq := 5 } } }
    s.powered = true ∧ s.waitersOf 9 false = [engineWaiter] ∧ (s.engFor (s.wg 3) .copy).seq.toNat < 5 ∧ (s.engFor (s.wg 3) .copy).state ≠ 3 ∧
    5 ≤ (reached.engFor (reached.wg 3) .copy).seq.toNat ∧ (s.ctx (s.wg 3).ctx).uid = (s.wg 3).ctx ∧ s.expires engineWaiter = true := by
  decide +kernel
/-- A record that is moved, one whose length is no multiple of 16, and one whose source is not published. -/
def worked (s : State) : Except EngHalt (State × Nat × Bool) := s.engineWork (s.engAt 1 ((s.ctx 1).eng .copy 0 0)) .copy 0x200040
theorem witness_EngineRecords : let s := engined 1 0x200100 16
    let y := (s.ctx 1).eng .copy 0 0
    y.state = 1 ∧ y.paused = false ∧ y.last = none ∧ (match s.nextRecord (s.engAt 1 y) y with | .ok a => a == 0x200040 | _ => false) = true ∧
    (match worked s with | .ok (_, 0, true) => true | _ => false) = true ∧
    (match worked (engined 1 0x200100 8) with | .error (.stop 1 _ _ _) => true | _ => false) = true ∧
    (match worked (engined 1 0x210000 16) with | .error (.page 0x210000) => true | _ => false) = true ∧ y.due = none ∧
    -- the sequence word of a record that is done may be written
    (match s.engineSeq (s.engAt 1 y) .copy 0x200040 0 with | .ok _ => true | _ => false) = true := by decide +kernel

/-- A span of the data range: empty, and one word with a write of the group outstanding in it or none. -/
theorem witness_Cmo : let s := ranged 1 (solo [(4, dataVa), (5, 4)] [])
    cmoForm (.cmoCleanInvalidate 4 5 .both) = some (4, 5, .both, true, true) ∧ s.Issues (grp 1) ∧ ((teamOf s (grp 1)).sreg 0).toNat = 0 ∧
    ((teamOf s (grp 1)).sreg 5).toNat = 4 ∧ s.cleanReady (grp 1) (teamOf s (grp 1)) 0x200000 4 = true ∧
    State.cleanReady { s with accs := [access .load 8 false (part .plain 0 .waiting 5)] } (grp 1) (teamOf s (grp 1)) 0x200000 4 = false ∧
    (ctxOf s (grp 1)).auth = 1 ∧ allReleased s (grp 1) 4 ∧ ¬ allReleased { s with unacked := [⟨3, 0, 1, 0, 0, 0, 0, dataKey, 4, 0⟩] } (grp 1) 4 :=
  ⟨rfl, by unfold State.Issues; decide, by decide, by decide, by decide +kernel, by decide +kernel, by decide, by unfold allReleased; decide +kernel,
   by unfold allReleased; decide +kernel⟩
/-- A thread inside the code of page 16 and none; a cached translation of it. -/
theorem witness_Tinv : let s := solo [] []
    let busy := accessing 1 (access .load 8 false (part .plain 0 .mapped 5))
    (0, 0x100000, 4) ∈ s.iaSpans (s.wg 3) 0x100000 4 ∧ (s.die 0).part = some (ctxOf s (grp 1)).part ∧
    s.insideCode 0 0x100000 0x100004 = false ∧ busy.insideCode 0 0x100000 0x100004 = true ∧ s.trans.length = 1 := by decide +kernel

/-- Banks: s3 names banks 0 and 3, the workgroup's all; s4 names bank 4, which one unit does not have. -/
theorem witness_Banks : let s := solo [(3, 9), (4, 16)] []
    s.Issues (grp 1) ∧ (s.wg 3).queues.length = 16 ∧ (s.wg 3).die < s.dies.length ∧ (∀ r ∈ s.recs, r.uid ≠ s.nextId) ∧
    (∃ b, (b < 64 ∧ ((teamOf s (grp 1)).sreg 4).getLsbD b = true) ∧ (32 ≤ b ∨ 4 * (s.wg 3).units.length ≤ b)) ∧
    (∀ b, b < 64 → ((teamOf s (grp 1)).sreg 3).getLsbD b = true → b < 32 ∧ b < 4 * (s.wg 3).units.length) ∧
    (∀ b, b < 64 → ((teamOf s (grp 1)).sreg 3).getLsbD b = true → s.bankBusy (s.wg 3) b = false) ∧
    (let q : Queue := { Queue.init with opened := true, bank := 3, width := 8, producers := [0] }
     let busy := queued q s
     busy.bankBusy (busy.wg 3) 3 = true) :=
  ⟨by unfold State.Issues; decide, by decide, by decide, by decide +kernel, ⟨4, by decide +kernel⟩, by decide +kernel, by decide +kernel, by decide +kernel⟩
/-- The word 0xD03: bank 3, 8-byte slots, both roles. The bank is not in queue mode, is free, holds this queue, and holds another. -/
theorem witness_QueueRoles : let s := solo [] []
    let w : Wg := { s.wg 3 with bankModes := [(3, 2)] }
    let mine : Queue := { Queue.init with opened := true, bank := 3, width := 8, producers := [0] }
    let one : Wg := { w with queues := listModify (fun _ => mine) w.queues 15 }
    roleWord 0xD03 ∧ ¬ roleWord 0xF03 ∧ ¬ roleWord 0xD23 ∧ mayOpen w 15 0xD03 ∧ mayOpen one 15 0xD03 ∧ ¬ mayOpen one 14 0xD03 ∧
    ¬ mayOpen (s.wg 3) 15 0xD03 ∧ (one.queue 15).opened = true ∧ (one.queue 14).opened = false := by
  simp only [roleWord, mayOpen]
  decide +kernel
/-- QTRY: closed, filled, empty without and with a producer. -/
theorem witness_Qtry : let q (sl : List Nat) (ps : List Nat) : Queue := { Queue.init with opened := true, slots := sl, producers := ps }
    Queue.init.opened = false ∧ (q [7] []).slots ≠ [] ∧ ((q [] []).slots = [] ∧ (q [] []).producers.length + (q [] []).engineProducers = 0) ∧
    (q [] [0]).producers.length + (q [] [0]).engineProducers ≠ 0 := by decide
/-- A launch record at 0x200040 may be armed under a tag that is free, and may be launched; 63 and 64 records stand before it. -/
def launching : State :=
  let s := ranged 1 (solo [(4, 0x200040), (5, 0x200000)] [])
  { s with mem := writeLE s.mem (devKey 0 0x200040) 128 (1 + 0x100000 * 2 ^ 128 + 1 * 2 ^ 192 + 0x200200 * 2 ^ 512) }
theorem witness_LaunchControl : let s := launching
    let c := ctxOf s (grp 1)
    let queue (n : Nat) : State := { s with recs := s.recs ++ [{ Rec.absent with uid := 5, ctx := 1, state := 1 }],
                                            dies := listModify (fun d => { d with deviceQueue := List.replicate n 5 }) s.dies 0 }
    let mine (t : State) : List Nat := (dieOf t (grp 1)).deviceQueue.filter fun u => (t.record u).ctx == 1
    s.Issues (grp 1) ∧ (∀ x ∈ (dieOf s (grp 1)).tags, x.tag ≠ 1023) ∧ s.armOk c 0 0x200040 = true ∧ s.armOk c 0 0x200000 = false ∧
    allReleased s (grp 1) 3 ∧ ¬ allReleased { s with unacked := [⟨3, 0, 1, 0, 0, 0, 0, dataKey, 4, 0⟩] } (grp 1) 3 ∧ (dieOf s (grp 1)).dstate = 0 ∧
    s.doorTest c 0 0x200040 = some .launch ∧ s.doorTest c 0 0x200000 = none ∧ (mine (queue 63)).length = 63 ∧ (mine (queue 64)).length = 64 ∧
    (match (queue 1).cancelTarget 1 0 0x200040 1 with | .error _ => true | .ok _ => false) = true :=
  ⟨by unfold State.Issues; decide, by decide +kernel, by decide +kernel, by decide +kernel, by unfold allReleased; decide +kernel,
   by unfold allReleased; decide +kernel, by decide +kernel, by decide +kernel, by decide +kernel, by decide +kernel, by decide +kernel, by decide +kernel⟩
/-- A record held under its address, accepted or running, is what CANCEL reaches. -/
theorem witness_Cancel : let held (n : Nat) : State := { launching with recs := [{ Rec.absent with uid := 5, ctx := 1, addr := 0x200040, state := n }] }
    (match (held 1).cancelTarget 1 0 0x200040 1 with | .ok u => u == 5 | _ => false) = true ∧ ((held 1).record 5).state ≠ 2 ∧
    (match (held 2).cancelTarget 1 0 0x200040 1 with | .ok u => u == 5 | _ => false) = true ∧ ((held 2).record 5).state = 2 ∧
    (match (held 3).cancelTarget 1 0 0x200000 1 with | .error _ => true | _ => false) = true := by decide +kernel

/-! ## Witnesses: fault records, placement, debugging -/

/-- Records: the owner's with index 7, the operator's with index 9; index 8 is nobody's. -/
theorem witness_FaultRecords : let rec7 : OwnerRec := ⟨7, 0x0101, false⟩
    let rec9 : OpRec := ⟨9, 1, false⟩
    let own : State := let s := solo [(3, 7), (4, 8), (5, 11), (6, 12), (7, 0x1F), (9, 0x20)] []
                       { s with ctxs := s.ctxs.map fun c => { c with recs := [rec7] } }
    let op : State := let s := stage 0 [(3, 9), (4, 8)] [at_ []]
                      { s with dies := listModify (fun d => { d with opRecs := [rec9] }) s.dies 0 }
    let aud := stage 2 [(3, 0x010), (4, 11), (5, 12), (6, 0x20)] [at_ []]
    (own.Issues (grp 1) ∧ op.Issues (grp 1) ∧ aud.Issues (grp 1)) ∧
    (own.wg 3).ctx ≠ 0 ∧ (ctxOf own (grp 1)).uid = (own.wg 3).ctx ∧ (own.wg 3).die < own.dies.length ∧ (ctxOf own (grp 1)).part < own.parts.length ∧
    (ctxOf own (grp 1)).auth = 1 ∧ rec7 ∈ (ctxOf own (grp 1)).recs ∧ rec7.index = ((teamOf own (grp 1)).sreg 3).toNat ∧
    (∀ r ∈ (ctxOf own (grp 1)).recs, r.index ≠ ((teamOf own (grp 1)).sreg 4).toNat) ∧
    (ctxOf op (grp 1)).auth = 0 ∧ rec9 ∈ (dieOf op (grp 1)).opRecs ∧ rec9.index = ((teamOf op (grp 1)).sreg 3).toNat ∧
    (∀ r ∈ (dieOf op (grp 1)).opRecs, r.index ≠ ((teamOf op (grp 1)).sreg 4).toNat) ∧
    (ctxOf aud (grp 1)).auth = 2 ∧ (((teamOf aud (grp 1)).sreg 3).toNat = 0x010 ∧ ((teamOf aud (grp 1)).sreg 4).toNat = 11) ∧
    11 < ((teamOf aud (grp 1)).sreg 5).toNat ∧ 0x01F < ((teamOf aud (grp 1)).sreg 6).toNat :=
  ⟨⟨by unfold State.Issues; decide, by unfold State.Issues; decide, by unfold State.Issues; decide⟩, by decide, by decide, by decide, by decide, by decide,
   by decide +kernel, by decide, by decide +kernel, by decide, by decide +kernel, by decide, by decide +kernel, by decide, by decide, by decide, by decide⟩

/-- An operator's context of uid 1 with the ranges of page 16 and 32, beside an owner's context of uid 20 and handle 2. -/
def operated (k : Ctx) (ss : Sparse 64) : State :=
  let s := ranged 1 (stage 0 ss [at_ []])
  { s with ctxs := s.ctxs ++ [k], nextId := 30 }
def owner : Ctx := { Ctx.absent with uid := 20, handle := 2, auth := 1, world := 1, part := 0, pinq := 64 }
/-- A workgroup of that context on core 1. -/
def ownerWg : Wg := { fetchWg 21 20 22 with core := 1, lcore := 1, scratch := [(5, 7)] }
/-- The descriptor of an auditor's context with a ring of 2^4 entries: word 0 names the authority. -/
def descriptor (auth : Nat) : Nat := auth + 4 * 2 ^ 128
def placing (auth : Nat) : State := let s := operated owner [(3, 5), (4, 0x200000), (5, 2)]
  { s with mem := writeLE s.mem (devKey 0 0x200000) 256 (descriptor auth) }
theorem witness_Place : let s := placing 2
    s.Issues (grp 1) ∧ (ctxOf s (grp 1)).uid = (s.wg 3).ctx ∧ (s.wg 3).die < s.dies.length ∧ (ctxOf s (grp 1)).auth = 0 ∧
    s.readPlain (ctxOf s (grp 1)) 0 0x200000 256 = some (descriptor 2) ∧ s.readPlain (ctxOf s (grp 1)) 0 0x210000 256 = none ∧
    s.placeStatus 5 (descriptor 2) = 0 ∧ s.placeStatus 2 (descriptor 2) ≠ 0 ∧ bitsOf (descriptor 3) 0 2 = 3 ∧ bitsOf (descriptor 2) 128 5 = 4 ∧
    bitsOf (2 + 3 * 2 ^ 128) 128 5 < 4 ∧ 16 < bitsOf (2 + 17 * 2 ^ 128) 128 5 :=
  ⟨by unfold State.Issues; decide, by decide +kernel, by decide, by decide, by decide +kernel, by decide +kernel, by decide +kernel, by decide +kernel,
   by decide, by decide, by decide, by decide⟩
/-- Handle 2 names the owner's context, handle 5 none, handle 1 the issuer's own. -/
theorem witness_Unplace : let s := operated owner []
    namedContext s (grp 1) 2 owner ∧ owner.uid ≠ (ctxOf s (grp 1)).uid ∧ noContext s (grp 1) 5 ∧ s.byHandle 0 1 = some (ctxOf s (grp 1)) :=
  ⟨⟨by decide +kernel, by decide +kernel⟩, by decide, by unfold noContext; decide +kernel, by decide +kernel⟩

/-- A kernel header at 0x108000 of the code range, its entry 0x100000; and a launch record at 0x200040 for core 1. -/
def kernelHeader (flags : Nat) : Nat := 0x3152484B + flags + 0x100000 * 2 ^ 64
def launchRecord : Nat := 1 + 0x108000 * 2 ^ 128 + 1 * 2 ^ 192 + 2 * 2 ^ 256
def loaded (flags : Nat) (s : State) : State :=
  { s with mem := writeLE (writeLE s.mem (devKey 0 0x108000) 64 (kernelHeader flags)) (devKey 0 0x200040) 128 launchRecord }
/-- Its record, accepted. -/
def accepted (c : Nat) : Rec := { Rec.absent with uid := 5, ctx := c, addr := 0x200040, state := 1 }
/-- An urgent context of uid 23 and handle 4 stands ready with that launch; the owner's workgroup lies on core 1. -/
def preempting : State :=
  let urgent : Ctx := ranges 1 { owner with uid := 23, handle := 4, urgent := true }
  let s := loaded 0 (operated { owner with state := .running } [(3, 2), (4, 4), (5, 9)])
  { s with ctxs := s.ctxs ++ [urgent], wgs := s.wgs ++ [ownerWg], recs := s.recs ++ [accepted 23] }
theorem witness_Preempt : let s := preempting
    s.Issues (grp 1) ∧ (match (s.preemptCheck 0 0 1 2 4).2 with | .ok (20, 23, 5) => true | _ => false) = true ∧
    (match (s.preemptCheck 0 0 2 2 4).2 with | .error _ => true | _ => false) = true ∧ noContext s (grp 1) 9 ∧ s.soleCore 20 = some (0, 1) :=
  ⟨by unfold State.Issues; decide, by decide +kernel, by decide +kernel, by unfold noContext; decide +kernel, by decide +kernel⟩

/-- The owner's context, saved, frozen, running on core 1, and idle; its save area is page 32. Core 2 of logical die 0 is word 2. -/
def movable (st : CtxState) : Ctx :=
  { owner with state := st, savea := 0x200000, savep := 1,
               image := if st = .saved then some ⟨0, 32, 1, 0, 0, true, [ownerWg], [], []⟩ else none }
def moving (st : CtxState) : State :=
  let s := operated (movable st) [(3, 2), (4, 2), (5, 9), (7, 0x10002)]
  { s with wgs := s.wgs ++ if st = .running ∨ st = .frozen then [ownerWg] else [],
           dies := s.dies.map fun d => { d with frames := d.frames.map fun e => { e with isSealed := st == .saved && e.frame == 32 } } }
def movesTo2 (st : CtxState) : Bool := match (moving st).moveCheck 1 0 2 2 with
  | .ok (k, 0, 2) => k == movable st
  | _ => false
theorem witness_Move : (∀ st ∈ [CtxState.idle, .running, .frozen, .saved], movesTo2 st = true ∧ (moving st).ctx 20 = movable st) ∧
    (moving .saved).Issues (grp 1) ∧ (match (moving .idle).moveCheck 1 0 2 0x10002 with | .error _ => true | _ => false) = true ∧
    noContext (moving .idle) (grp 1) 9 :=
  ⟨by decide +kernel, by unfold State.Issues; decide, by decide +kernel, by unfold noContext; decide +kernel⟩
/-- An atomic of the running context waits for a verdict on a page that is being copied. -/
def atomicBusy : State :=
  let s := moving .running
  let a : Access := { access (.atomic .add) 4 false (part .plain 0 .waiting 5) with id := 8, wg := 21 }
  { s with accs := [a], dies := s.dies.map fun d => { d with published := d.published.map fun m => { m with copying := true } } }
theorem witness_Migrate : (moving .idle).migratable (movable .idle) = false ∧
    ((moving .saved).migratable (movable .saved) = true ∧
      (moving .saved).hasRoom 0 2 (movable .saved).imageWgs (movable .saved).imageLog = true) ∧
    ((moving .running).migratable (movable .running) = true ∧ (moving .running).saveMapped (movable .running) = true ∧
      (moving .running).hasRoom 0 2 ((moving .running).wgs.filter fun w => w.ctx == 20)
        ((moving .running).slog.filter fun x => x.ctx == 20).length = true) ∧
    (∀ x ∈ (moving .running).accs, ((moving .running).wg x.wg).ctx ≠ 20) ∧
    (atomicBusy.finishAtomics 20).unfinished 20 = true := by decide +kernel
/-- RESUME: an image that is whole, one that is not, one that does not fit the core, and a frozen context. -/
theorem witness_Resume : (∃ i, (movable .saved).image = some i ∧ (moving .saved).imageSound i = true ∧ (moving .saved).imageSound { i with generation := 3 } = false ∧
      i.wgs ≠ [] ∧ (moving .saved).hasRoom 0 2 i.wgs i.slog.length = true ∧ (moving .saved).hasRoom 0 2 (List.replicate 16 ownerWg) 0 = false) ∧
    (moving .frozen).soleCore 20 ≠ none ∧
    State.hasRoom { moving .frozen with wgs := (moving .frozen).wgs.filter (fun w => w.ctx != 20), slog := [] } 0 2 [ownerWg] 0 = true ∧
    State.soleCore { moving .frozen with wgs := [] } 20 = none := ⟨⟨_, rfl, by decide +kernel⟩, by decide +kernel⟩
/-- The operator resets a context by its handle, an owner one of his own world. -/
theorem witness_Creset : ((ctxOf (moving .running) (grp 1)).auth = 0 ∧ namedContext (moving .running) (grp 1) 2 (movable .running)) ∧
    ((ctxOf (solo [] []) (grp 1)).auth = 1 ∧ (solo [] []).ownHandle (ctxOf (solo [] []) (grp 1)) 1 = some ((solo [] []).ctx 1) ∧
      (solo [] []).ctx ((solo [] []).ctx 1).uid = (solo [] []).ctx 1) :=
  ⟨⟨by decide, by decide +kernel, by decide +kernel⟩, by decide, by decide +kernel, by decide +kernel⟩
/-- An owner debugs a second context of his world, halted, whose workgroup lies on logical core 1; selector bit 16 asks for ordinal 0. -/
def debugged (h : Bool) (r : List StepReq) : State :=
  let s := solo [(3, 2), (4, 0x10001), (5, 0x10041), (7, 9)] []
  { s with ctxs := s.ctxs ++ [{ owner with halted := h, state := .running, steps := r }], wgs := s.wgs ++ [ownerWg] }
/-- A request for some sub-groups of its team, the lanes of each. -/
def asks (gs : List (BitVec 64 × BitVec 64)) : StepReq := ⟨3, 0, BitVec.ofNat 64 fetchBase, 21, 0, gs, none, false⟩
theorem witness_Debug : let s := debugged true []
    s.Issues (grp 1) ∧ (ctxOf s (grp 1)).uid = (s.wg 3).ctx ∧ (ctxOf s (grp 1)).auth = 1 ∧ (ctxOf s (grp 1)).halted = false ∧
    debugForm (.dbgStepall 6 3 4) = some (6, 3, 4) ∧ (∀ c ∈ s.ctxs, c.handle.toNat ≠ ((teamOf s (grp 1)).sreg 7).toNat) :=
  ⟨by unfold State.Issues; decide, by decide +kernel, by decide +kernel, by decide +kernel, rfl, by decide +kernel⟩
theorem witness_DebugSteps : let s := debugged true []
    let k := s.ctx 20
    s.ownHandle (s.ctx 1) 2 = some k ∧ s.ctx k.uid = k ∧ k.askedBy (grp 1) = none ∧ k.halted = true := by decide +kernel
theorem witness_DebugSelects : let s := debugged true []
    let k := s.ctx 20
    s.selected k 0x10001 = some (s.wg 21, 0) ∧ s.selected k 0x10041 = none ∧
    s.subGroupOf (s.wg 21) 0 0x10001 = some fetchBase ∧ s.subGroupOf (s.wg 21) 0 0x10401 = none := by decide +kernel
theorem witness_DebugTeam : (ownerWg.team 0).pathPcs = [fetchBase] ∧ (ownerWg.team 0).subGroup (BitVec.ofNat 64 fetchBase) ≠ 0 ∧
    ((debugged true []).stepView (asks [(BitVec.ofNat 64 fetchBase, 1)])).groups ≠ [] ∧
    ((debugged true []).stepView (asks [(0x100040, 1)])).groups = [] := by decide +kernel
theorem witness_DebugAsked : ((debugged true [asks [(0x100000, 1)]]).ctx 20).askedBy (grp 1) = some (asks [(0x100000, 1)]) ∧
    ((debugged true [asks []]).ctx 20).askedBy (grp 1) = some (asks []) ∧ ((debugged false []).ctx 20).halted = false := by decide +kernel
/-- LDK of a listed function of four words at the start of the code range: it may be translated, and pinned while the quota lasts. -/
def listing (quota : Nat) : State :=
  let s := ranged 1 (solo [(4, 0x100000), (5, 0x100004)] [])
  let h : Header := { teams := 1, live := 1, span := 0, xblk := false, order := .k0, pin := false, matrix := false, entry := 0x100000, units := 0,
                      ftab := 0x108000, nfunc := 1 }
  { s with mem := writeLE s.mem (devKey 0 0x108000) 64 (0x100000 + 4 * 2 ^ 64), recs := s.recs.map fun r => { r with header := some h },
           ctxs := s.ctxs.map fun k => { k with pinq := quota } }
def planned (quota pc : Nat) : Plan := (listing quota).plan ((listing quota).ctx 1) 0 ((listing quota).record 2) pc
def pinned (quota : Nat) : Option State :=
  ((listing quota).translateAt ((listing quota).wg 3) (teamOf (listing quota) (grp 1)) (planned quota 0x100000) 0x100000).pinFor
    ((listing quota).wg 3) (teamOf (listing quota) (grp 1)) (planned quota 0x100000).base 0 none
theorem witness_Ldk : let s := listing 64
    0x100000 % 4 = 0 ∧ (s.ctx 1).inCode 0x100000 4 = true ∧ callable (planned 64 0x100000).listed 0x100000 = true ∧
    (planned 64 0x100000).missing = [] ∧ (planned 64 0x100000).waits = false ∧ (planned 64 0x100000).foreign = none ∧ (planned 64 0x100000).poisoned = none ∧
    callable (planned 64 0x100004).listed 0x100004 = false := by decide +kernel
theorem witness_LdkPins : (pinned 64).isSome = true ∧ (pinned 0).isSome = false := by decide +kernel

/-! ## Witnesses: further steps inside a core -/

/-- A formed result of issue 9; an access that waits on page 32, which is published. -/
theorem witness_Returns : let s := stage 1 [] [{ at_ [] with outs := [⟨9, true, [(5, 7)], none, 0⟩] }]
    s.powered = true ∧ s.hasReady 9 = true ∧ s.hasReady 8 = false ∧ (threadAt s 3 0 0).outs = [⟨9, true, [(5, 7)], none, 0⟩] ∧
    (let x := part .plain 0 .page 5
     let t := accessing 1 (access .load 8 false x)
     x ∈ (t.acc 9).lanes ∧ t.unheld (t.acc 9) x = true) := by decide +kernel
/-- The oldest entry of the side log of core 0: a join in MAXU64 on page 32, once as the world's own and once as another's. -/
def logEntry : SlogEntry :=
  { order := 6, slot := 0, die := 0, core := 0, ctx := 1, wg := 3, team := 0, lane := 0, pc := 0, va := 0x200000, kind := .lattice,
    ltype := 1, home := 0, ia := 0x200000, bytes := 8, data := 5, colour := 0, join := true, lanes := 1 }
def logged (foreign : Bool) : State :=
  let s := ranged 3 (solo [] [])
  { s with slog := [logEntry], dies := s.dies.map fun d => { d with frames := d.frames.map fun f => { f with owner := if foreign then 2 else f.owner } } }
theorem witness_Replay : (logged false).nextReplay 0 0 = some logEntry ∧ logEntry.kind = .lattice ∧ logEntry.join = true ∧
    (logged false).verdict 0 0x200000 ((logged false).ctx 1).world .lattice .write ≠ .own ∧ (logged false).keyOf 0 0x200000 = some dataKey ∧
    (joinValue 1 8 0 5).isSome = true ∧ (logged true).nextReplay 0 0 = some logEntry ∧
    (logged true).verdict 0 0x200000 ((logged true).ctx 1).world .lattice .write = .own := by decide +kernel
/-- A write to the cluster cache is acknowledged at once, one to host memory once the host port is up. -/
theorem witness_Acknowledged : let x (k : Nat) : Unacked := ⟨3, 0, 1, 0, k, 0, 0, dataKey, 4, 7⟩
    let s (k : Nat) : State := { solo [] [] with unacked := [x k] }
    (s 0).unackedAt 0 = some (x 0) ∧ (s 0).ackable 0 (x 0) = true ∧ (s 2).unackedAt 0 = some (x 2) ∧ (s 2).ackable 0 (x 2) = false := by decide +kernel
/-- A thread stands outside every code range, one at a word of a listed function, one at a word on a page that is not published. -/
def missing (pc : Nat) (pages : Bool) : State :=
  let s := listing 64
  let stand (th : Thread) : Thread := { th with pc := BitVec.ofNat 64 pc, outs := [⟨9, false, [], none, 0⟩] }
  { s with trans := [], mem := writeLE s.mem (devKey 0 0x200100) 64 (0x100000 + 4 * 2 ^ 64),
           ctxs := s.ctxs.map fun c => { c with regs := spSet c.regs 0x27 0xB },
           recs := s.recs.map fun r => { r with header := r.header.map fun h => { h with ftab := 0x200100 } },
           wgs := s.wgs.map fun w => { w with teams := w.teams.map fun t => { t with threads := t.threads.map stand } },
           dies := s.dies.map fun d => { d with published := d.published.filter fun m => pages || m.page != 16 } }
theorem witness_Misses : ((missing 0x300000 true).misses 3 0 0x300000 = true ∧ ((missing 0x300000 true).ctx 1).inCode 0x300000 4 = false ∧
      (threadAt (missing 0x300000 true) 3 0 0).outs ≠ []) ∧
    ((missing 0x100000 true).misses 3 0 0x100000 = true ∧ ((missing 0x100000 true).ctx 1).inCode 0x100000 4 = true ∧
      ((missing 0x100000 true).plan ((missing 0x100000 true).ctx 1) 0 ((missing 0x100000 true).record 2) 0x100000).missing = []) ∧
    ((missing 0x100000 false).misses 3 0 0x100000 = true ∧
      ((missing 0x100000 false).plan ((missing 0x100000 false).ctx 1) 0 ((missing 0x100000 false).record 2) 0x100000).missing ≠ []) := by decide +kernel
/-- A team waits for a block and one is free; a thread waits on a queue that has closed. -/
theorem witness_Wakes : let s := solo [] []
    let b : State := { s with wgs := s.wgs.map fun w => { w with teams := w.teams.map fun t => { t with blockTurn := 4 } } }
    let q := stage 1 [] [{ at_ [] with status := .waiting (.queue 3 false) }]
    s.nextBlock 0 0 = none ∧ b.nextBlock 0 0 = some (3, 0) ∧ b.active 3 0 = true ∧ q.active 3 0 = true ∧ (q.wg 3).served 3 = [(0, 0)] ∧ (s.wg 3).served 3 = [] := by decide +kernel
/-- A thread of the workgroup waits for 5 at a cell of MAXU64 on page 32, which holds 4, or holds 5; it sleeps on the line, or polls. -/
def waiterAt (poll : Bool) : Waiter :=
  { id := 9, wg := 3, team := 0, lane := 0, cell := true, pc := 0, bytes := 8, home := 0, ia := 0x200000, ltype := 1, threshold := 5, dest := 6,
    start := 0, limit := 7, polling := poll, nextPoll := 4000, engine := .copy,
    va := 0x200000, abandoned := false }
def polling (poll : Bool) (v : Nat) : State :=
  let s := ranged 3 (solo [] [])
  { s with mem := writeLE s.mem dataKey 8 v, waiters := [waiterAt poll] }
theorem witness_CellWaits : (∀ p, (waiterAt p).id = 9 ∧ (waiterAt p).cell = true) ∧ cellWhole (polling false 4) (waiterAt false) ∧
    ((polling false 4).waitersOf 9 true).filter (fun y => !y.polling) = [waiterAt false] ∧ (polling false 4).passes (waiterAt false) = false ∧
    (polling false 5).passes (waiterAt false) = true ∧ ((polling true 4).waitersOf 9 true).filter (fun y => y.polling) = [waiterAt true] ∧
    ((polling false 4).waitersOf 9 true).filter (polling false 4).expires = [waiterAt false] :=
  ⟨fun _ => ⟨rfl, rfl⟩, ⟨dataKey, by decide +kernel, by decide +kernel⟩, by decide +kernel, by decide +kernel, by decide +kernel, by decide +kernel, by decide +kernel⟩

/-! ## Witnesses: launches, leases, lines -/

/-- A workgroup whose threads have all left, with nothing of it outstanding. -/
theorem witness_WorkgroupEnds : let s := stage 1 [] [{ at_ [] with status := .exited }]
    s.wgOver 3 = true ∧ (solo [] []).wgOver 3 = false ∧ (s.record (s.wg 3).launch).uid = (s.wg 3).launch ∧
    s.record (s.wg 3).launch ∈ s.recs := by decide +kernel
/-- A launch that runs on, one whose last workgroup has ended, and a job of no member. -/
theorem witness_Completions : let s := solo [] []
    let ended (k : RecKind) : State := { s with recs := s.recs.map fun r => { r with ending := true, kind := k } }
    ((s.record 2).uid = 2 ∧ (s.record 2).kind = .launch ∧ (s.record 2).state = 2 ∧ (s.record 2).ending = false) ∧
    ((ended .launch).record 2).ending = true ∧ (ended .job).jobFailed ((ended .job).record 2) = none ∧ (ended .graph).graphCycle 2 = false := by decide +kernel
/-- A launch accepted at 0x200040 whose header asks for no lease, or for one, and one whose record is not readable. -/
def dispatching (flags : Nat) : State :=
  let s := loaded flags (ranged 1 (solo [] []))
  { s with recs := s.recs ++ [accepted 1] }
theorem witness_LaunchStarts : let s := dispatching 0
    s.reached 5 = true ∧ s.reached 2 = false ∧ (s.record 5).kind = .launch ∧ s.mayRun (s.ctx 1) 0 = true ∧ (s.ctx 1).urgent = false ∧
    (match s.examined 5 with | some e => !e.header.matrix && e.cores.filter (s.coreExists 0) == [1] | none => false) = true ∧
    (match (dispatching (2 ^ 49)).examined 5 with | some e => e.header.matrix | none => false) = true ∧
    ((dispatching (2 ^ 49)).record 5).lease.held = 0 ∧ ((dispatching (2 ^ 49)).record 5).lease.waiting = false ∧
    (dispatching (2 ^ 50)).examined 5 = none := by decide +kernel
/-- Values written at IA of die 0: address, bytes, value. -/
def written (xs : List (Nat × Nat × Nat)) (s : State) : State :=
  xs.foldl (fun acc x => { acc with mem := writeLE acc.mem (devKey 0 x.1) x.2.1 x.2.2 }) s
/-- A graph of one launch, and a phase of two graphs of capacities 4 and 5 with a size in memory; their members name their parents, or not. -/
def grouping (k : RecKind) (good : Bool) (size : Nat) : State :=
  let s := ranged 1 (solo [] [])
  let graph (parent array cap : Nat) : Nat := 2 + array * 2 ^ 128 + 1 * 2 ^ 192 + cap * 2 ^ 256 + parent * 2 ^ 320
  let member (parent : Nat) : Nat := 1 + parent * 2 ^ 320
  let root := if good then 0x200040 else 0x200080
  let cells := if k = .phase then
      [(0x200040, 64, 3 + 0x200100 * 2 ^ 128 + 0x200140 * 2 ^ 192 + 2 * 2 ^ 256), (0x200100, 8, size), (0x200140, 16, 0x200180 + 0x2001C0 * 2 ^ 64),
       (0x200180, 64, graph root 0x200200 4), (0x2001C0, 64, graph root 0x200208 5), (0x200200, 16, 0x200280 + 0x200300 * 2 ^ 64),
       (0x200280, 128, member 0x200180), (0x200300, 128, member 0x2001C0)]
    else [(0x200040, 64, graph 0 0x200140 0), (0x200140, 8, 0x200280), (0x200280, 128, member root)]
  { written cells s with recs := s.recs ++ [{ accepted 1 with kind := k }] }
/-- What PHASE_START selects for a phase; none where it is not sound. -/
def chosen (s : State) : Option (Option Nat) :=
  let s1 := s.takeUp 5
  if s1.groupOk 5 then (s1.readPlain (s1.ctx 1) 0 0x200100 8).map fun n => s1.select n (s1.record 5).children else none
theorem witness_GroupStarts : ((grouping .graph false 0).takeUp 5).groupOk 5 = false ∧ ((grouping .graph true 0).takeUp 5).groupOk 5 = true ∧
    (grouping .graph true 0).reached 5 = true ∧ (grouping .phase true 5).reached 5 = true ∧ ((grouping .phase false 5).takeUp 5).groupOk 5 = false ∧
    (∀ y ∈ (grouping .phase true 5).recs, y.uid < (grouping .phase true 5).nextId ∧ ∀ k ∈ y.children, y.uid < k) ∧
    chosen (grouping .phase true 5) = some (some 11) ∧ chosen (grouping .phase true 9) = some none := by decide +kernel

/-- A started launch has room on core 1; a bell of slot 2 of a ring of 16; a message for an armed tag whose buffer is mapped, and one behind it. -/
theorem witness_Placement : let h : Header := { teams := 1, live := 1, span := 0, xblk := false, order := .k0, pin := false, matrix := false, entry := 0x100000,
                                                units := 0, ftab := 0, nfunc := 0 }
    let r : Rec := { accepted 1 with state := 2, header := some h, cores := [1], total := 1 }
    let s : State := { solo [] [] with recs := [r] }
    (s.record 5).header = some h ∧ s.canPlace 5 1 h = true := by decide +kernel
theorem witness_Doorbell : let s := operated { owner with ringlog := 4, ring := 0x200000 } []
    owner.handle.toNat % 1024 = 2 ∧ (∃ c ∈ s.ctxsOn 0, c.handle.toNat % 1024 = 2 ∧ s.ctx c.uid = c ∧ c.ringlog = 4 ∧ c.ringlog ≤ 16 ∧
      (∀ q ∈ s.ctxsOn 0, q.handle.toNat % 1024 = 2 → q = c) ∧ (spGet c.ringHeads 0).toNat < 2 ^ c.ringlog) ∧
    (∀ c ∈ s.ctxsOn 0, c.handle.toNat % 1024 ≠ 1023) ∧ (15 : BitVec 32).toNat < 2 ^ 4 ∧ 2 ^ 4 ≤ (16 : BitVec 32).toNat := by decide +kernel
def message (world : BitVec 16) (source : Nat) : Msg := { source := source, target := 0, world := world, payload := 1023 }
def tagged : State :=
  let s := ranged 1 (solo [] [])
  { s with mem := writeLE s.mem (devKey 0 0x200040) 128 (1 + 0x200200 * 2 ^ 512), recs := s.recs ++ [{ accepted 1 with tag := some 1023 }],
           dies := listModify (fun d => { d with tags := [⟨1023, 5, 1⟩] }) s.dies 0, msgs := [message 1 2, message 1 2, message 7 3] }
theorem witness_Messages : tagged.msgAt 0 = some (message 1 2) ∧ tagged.msgFirst 0 (message 1 2) = true ∧ tagged.deliverable (message 1 2) = true ∧
    tagged.firedTag (message 1 2) = some ⟨1023, 5, 1⟩ ∧ (tagged.record 5).uid = 5 ∧ tagged.record 5 ∈ tagged.recs ∧ 0 < tagged.dies.length ∧
    tagged.msgAt 1 = some (message 1 2) ∧ tagged.msgFirst 1 (message 1 2) = false ∧ tagged.firedTag (message 7 3) = none ∧
    (message 0 24).source = 24 ∧
    (message 0 24).world = tagged.sessionWorld 0 9 ∧ (∀ y ∈ tagged.msgs, y.source = 24 → y.target ≠ 0) ∧
    -- a message that another from outside precedes
    ¬ (∀ y ∈ ({ tagged with msgs := [message 1 24] } : State).msgs, y.source = 24 → y.target ≠ 0) := by decide +kernel

/-- A launch that holds a lease, that waits for one alone, that waits beside a rival; and one with a token at cluster 0. -/
def leasing (l : Lease) (rival : Bool) : State :=
  { solo [] [] with recs := { accepted 1 with lease := l } :: if rival then [{ accepted 1 with uid := 6, lease := { Lease.init with waiting := true, since := 9 } }] else [] }
theorem witness_Leases : let asks : Lease := { Lease.init with asked := 15, waiting := true }
    let holds : Lease := { Lease.init with held := 15, captured := [(0, 1, 1)] }
    (((leasing holds true).record 5).uid = 5 ∧ (0, 1, 1) ∈ ((leasing holds true).record 5).lease.captured ∧
      ∀ x ∈ ((leasing holds true).record 5).lease.captured, x.1 ≠ 1) ∧
    (((leasing asks true).record 5).lease.waiting = true ∧
      (∀ q ∈ (leasing asks true).leaseWaiters 0, q.uid = 5 ∨ (leasing asks true).leaseBefore ((leasing asks true).record 5) q = true) ∧
      min 15 ((leasing asks true).die 0).pool ≤ (leasing asks true).tokensFree 0) ∧
    (((leasing holds true).record 5).lease.held ≠ 0 ∧ (leasing holds true).leaseWaiters 0 ≠ [] ∧ (leasing holds false).leaseWaiters 0 = []) ∧
    -- the launch of 3, whose workgroup stands at an MMA on cluster 0, while a token of it idles at cluster 2; and a pool that has shrunk
    (let s := standsAt 0x3A008300 [at_ []]
     let t : State := { s with recs := s.recs.map fun r => { r with lease := { r.lease with held := 1, captured := [(2, 1, 1)] } } }
     t.mmaWaitsAt 2 0 = true ∧ t.mmaWaitsAt 2 1 = false ∧ ¬ (t.die 0).pool < t.tokensHeld 0 ∧
       (let u := t.modDie 0 fun d => { d with pool := 0 }
        (u.die 0).pool < u.tokensHeld 0)) := by decide +kernel
/-- A path that others have been chosen before 1,024 times, and 1,023. -/
def aged (n : Nat) : State := let s := solo [] []
  { s with wgs := s.wgs.map fun w => { w with teams := w.teams.map fun t => { t with ages := [(fetchBase, BitVec.ofNat 64 n)] } } }
theorem witness_Ageing : (aged 1024).active 3 0 = true ∧ 1024 ≤ (((aged 1024).wg 3).team 0).age fetchBase ∧
    (aged 1024).issuePc 3 0 = some (BitVec.ofNat 64 fetchBase).toNat ∧ (((aged 1023).wg 3).team 0).age fetchBase < 1024 := by decide +kernel
/-- An accepted pre-emption of core 1, its urgent launch not yet placed. -/
theorem witness_Freeze : let s := preempting
    let t : State := { s with dies := listModify (fun d => { d with preempts := [⟨0, 1, 20, 23, 5, false⟩] }) s.dies 0 }
    0 < t.dies.length ∧ t.preemptOn 0 2 = none ∧ t.preemptOn 0 1 = some ⟨0, 1, 20, 23, 5, false⟩ ∧ t.reached 5 = true ∧ t.examined 5 ≠ none := by decide +kernel

/-- Dies 0 and 1 make up partition 0 of a module whose links are up; entry 7 of die 0 sends to logical die 1, and a line of the lattice region
of page 32 is marked. -/
def sends (d : Die) : Die := { d with xsched := [(7, 0x00040081)], marks := [⟨7, 0x2000⟩] }
def receives (d : Die) : Die :=
  { d with part := some 0, published := { page := 32, frame := 32, host := false, copying := false, moved := none } :: d.published,
           frames := [{ FrameEntry.init 32 with owner := 1, key := 3, scrubp := false, lattice := true }] }
def exchange : State :=
  let s := ranged 3 (solo [] [])
  let ds := s.dies.map fun d => { d with boot := 6, links := [2, 2, 2, 2] }
  { s with dies := listModify receives (listModify sends ds 0) 1,
           parts := listModify (fun p => { p with diemap := [(0, 32), (1, 33)], regions := [⟨0, 0x200000, 0x10000, 1⟩] }) s.parts 0 }
theorem witness_Boundary : wholeModule exchange ∧ exchange.powered = true ∧ exchange.boundary 0 6 = none ∧
    exchange.boundary 0 7 = some (1000, 0x00040081) ∧ (exchange.die 0).part = some 0 ∧ exchange.peerOf 0 0x00040081 = some 1 ∧
    (exchange.sendable 0 7).length = 1 ∧ ∀ m ∈ exchange.sendable 0 7, exchange.markedLine 0 m = some (⟨0, 0x200000, 0x10000, 1⟩, dataKey) ∧
      exchange.poisoned dataKey 256 = false := by
  unfold wholeModule; decide +kernel
def line (held : Bool) (region : Nat) (ia : Nat) : Line :=
  { source := 0, target := 1, part := 0, region := region, ltype := 1, base := 0x200000, size := 0x10000, ia := ia, data := 5, held := held }
/-- Lines that travel and one that is held: to a region that lives, to one that does not, to a page that is not published, of another world. -/
theorem witness_Lines : let t (l : Line) : State := { exchange with lines := [l] }
    let s := t (line false 0 0x200000)
    s.lines[0]? = some (line false 0 0x200000) ∧ s.carries 0 1 = true ∧ s.lineLives (line false 0 0x200000) = true ∧
    s.lineLives (line false 3 0x200000) = false ∧ s.walk 1 0x200000 = .local 1 32 ∧ s.walk 1 0x210000 = .unmapped ∧
    ((s.die 1).frame 32).owner = (s.part 0).world ∧ s.poisoned (devKey 1 (32 * 65536)) 256 = false := by decide +kernel
/-- A port that is up, one that is down and can train, and one without a neighbour to train with. -/
theorem witness_Ports : portUp exchange 0 3 ∧ ¬ portUp (solo [] []) 0 0 ∧ (exchange.die 0).boot = 6 ∧
    (let s : State := { exchange with dies := listModify (fun d => { d with links := [0, 1, 3, 2] }) exchange.dies 0 }
     s.linkState 0 1 < 2 ∧ s.canTrain 0 1 = true ∧ s.linkState 0 0 < 2) ∧
    (solo [] []).canTrain 0 1 = false ∧ (solo [] []).linkState 0 1 < 2 := by unfold portUp; decide +kernel

/-! ## Witnesses: errors, the module, trust, the step -/

/-- After errors, parts that may be tested, one that no error calls for, one that is retired; spare rows that are left and that are used up. -/
theorem witness_Tests : let s : State := { exchange with dies := listModify (fun d => { d with suspects := [.anywhere, .port 3, .core 62] }) exchange.dies 0 }
    let rows (n : Nat) (v : BitVec 8) (t : State) : State := { t with dies := listModify (fun d => { d with spareRows := [(n, v)] }) t.dies 0 }
    let gone : State := { s with dies := listModify (fun d => { d with retired := [.bank 0 31] }) s.dies 0 }
    s.testable (.bankRow 0 0 31 false) = true ∧ s.testable (.bankRow 0 15 28 false) = false ∧ gone.testable (.bankRow 0 0 31 false) = false ∧
    s.testable (.sliceRow 0 79 false) = true ∧ s.testable (.sliceRow 0 80 false) = false ∧ s.testable (.port 0 3 0) = true ∧
    s.testable (.registerFile 0 62 false) = true ∧ exchange.testable (.sliceRow 0 79 false) = false ∧ s.testable (.readOnlyRow 0 15 false) = true ∧
    s.testable (.translationRow 0 15 false) = true ∧ 8 ≤ (spGet ((rows 0x300F 8 s).die 0).spareRows (0x3000 + 15)).toNat ∧ s.accs = [] ∧ (spGet ((rows 31 7 s).die 0).spareRows (64 * 0 + 31)).toNat < 8 ∧
    8 ≤ (spGet ((rows 31 8 s).die 0).spareRows (64 * 0 + 31)).toNat ∧ 8 ≤ (spGet ((rows 0x104F 8 s).die 0).spareRows (0x1000 + 79)).toNat ∧
    4 ≤ (spGet ((rows 0x203E 4 s).die 0).spareRows (0x2000 + 62)).toNat ∧ ∀ w ∈ s.wgs, ∃ c ∈ s.ctxs, c.uid = w.ctx := by decide +kernel
theorem witness_Errors : (exchange.die 0).part = some 0 ∧ 0 < exchange.parts.length ∧ exchange.active 3 0 = true ∧ (exchange.wg 3).uid = 3 ∧
    (let s : State := { exchange with dies := listModify (fun d => { d with scrubPending := [15] }) exchange.dies 0 }
     s.scrubDue 0 15 = true ∧ s.scrubDue 0 0 = false) := by decide +kernel
/-- Die 0 drains with a mark; then with no mark and one frame left that another die can take, and that is being copied, or that none can
take; and with nothing left. -/
def draining (ms : List Mark) (copying : Bool) (frames : List FrameEntry) (takers : Bool) : State :=
  let page : Mapping := { page := 40, frame := 40, host := false, copying := copying, moved := none }
  { exchange with wgs := [], dies := mapIdxFrom (fun n d => if n = 0 then { d with dstate := 1, marks := ms, published := [page], frames := frames }
                                                 else { d with dstate := if takers then 0 else 2 }) 0 exchange.dies }
theorem witness_Drains : let f : FrameEntry := { FrameEntry.init 40 with owner := 1, key := 3, scrubp := false }
    let page (c : Bool) : Mapping := { page := 40, frame := 40, host := false, copying := c, moved := none }
    (((draining [⟨7, 0x2000⟩] false [f] true).die 0).dstate = 1 ∧ (draining [⟨7, 0x2000⟩] false [f] true).drainStalled 0 = false ∧
      ((draining [⟨7, 0x2000⟩] false [f] true).die 0).marks ≠ []) ∧
    (((draining [] false [f] true).die 0).marks = [] ∧ (draining [] false [f] true).replicaPages 0 = [] ∧
      (draining [] false [f] true).framesLeft 0 = [(0, page false)] ∧ (draining [] false [f] true).drainTarget 0 = some (some 1, 0)) ∧
    ((draining [] false [f] true).toSeal 0 = [] ∧ State.toSeal { draining [] false [f] true with wgs := exchange.wgs, cur := none } 0 ≠ []) ∧
    (draining [] true [f] true).framesLeft 0 = [(0, page true)] ∧ (draining [] false [f] false).drainTarget 0 = none ∧
    (draining [] false [] true).framesLeft 0 = [] ∧ ((draining [] false [] false).die 1).dstate = 2 := by decide +kernel

/-- The module's witnesses: a step without power, a header that the keyed service would turn away for its MAC or its number, and one that it
accepts whatever its key is. -/
def keyed (h : CfgHeader) (code : Nat) (ops : List (BitVec 8)) (s : State) : CfgHeader := { h with mac := requestMac s code h ops }
def managed : State :=
  { exchange with hallkey := 5,
                  dies := listModify (fun d => { d with sessions := [⟨9, .management, true, none⟩] }) exchange.dies exchange.mgmtDie }
theorem accepts_keyed (h : CfgHeader) (code : Nat) (ops : List (BitVec 8)) (hs : 0 < h.seq.toNat) :
    accepts managed code (keyed h code ops managed) ops := ⟨.inr (by decide), hs, rfl⟩
theorem witness_Module : poweredStep .modulePowerOff = true ∧ managed.powered = true ∧ (managed.die managed.mgmtDie).boot = 6 ∧
    managed.parts.length = 24 ∧ (managed.part 0).configured = true ∧ (managed.part 1).configured = false ∧ managed.cfgseq = 0 ∧
    inManagement managed ⟨9, 1, 0⟩ ∧ ¬ inManagement managed ⟨8, 1, 0⟩ :=
  ⟨rfl, by decide, by decide +kernel, by decide, by decide, by decide, by decide, ⟨⟨9, .management, true, none⟩, by decide +kernel⟩,
   fun ⟨x, hx, he⟩ => absurd he.1 ((by decide +kernel : ∀ x ∈ (managed.die managed.mgmtDie).sessions, x.id ≠ 8) x hx)⟩
theorem witness_Service : let h : CfgHeader := ⟨9, 1, 0⟩
    accepts managed 1 (keyed h 1 (leBytes 32 7) managed) (leBytes 32 7) ∧ accepts managed 3 (keyed h 3 (leBytes 1 0) managed) (leBytes 1 0) ∧
    accepts managed 4 (keyed h 4 [] managed) [] ∧ accepts managed 5 (keyed h 5 (leBytes 16 9 ++ leBytes 1 31) managed) (leBytes 16 9 ++ leBytes 1 31) ∧
    accepts managed 9 (keyed h 9 [] managed) [] ∧ ¬ accepts managed 4 ⟨9, 0, 0⟩ [] ∧ ¬ accepts { managed with hallkey := 0 } 4 h [] :=
  ⟨accepts_keyed _ _ _ (by decide), accepts_keyed _ _ _ (by decide), accepts_keyed _ _ _ (by decide), accepts_keyed _ _ _ (by decide),
   accepts_keyed _ _ _ (by decide), fun h => absurd h.2.1 (by decide), fun h => absurd h.1 (by decide)⟩
/-- Die 2 has booted and is free: a partition over it, its tables empty; a quantum of 7 is out of bounds. -/
def request (quant : BitVec 16) : ConfigureReq :=
  { part := 1, mask := 4, world := 2, rank := 15, cap := 100, quant := quant, dies := [⟨0, 0, 0, [], none⟩] }
theorem witness_Configure : accepts managed 2 (keyed ⟨9, 1, 0⟩ 2 (configureBytes (request 64)) managed) (configureBytes (request 64)) ∧
    State.configureOk { managed with cfgseq := 1 } (request 7) = false ∧ (State.configure { managed with cfgseq := 1 } (request 64)).2.1 = 0 :=
  ⟨accepts_keyed _ _ _ (by decide), by decide +kernel, by decide +kernel⟩
/-- A hall frame: of the wrong kind, not newer than the last, and one for group 0 that is well formed but for its MAC. -/
theorem witness_Hall : field (0x4C4C4148 : BitVec 512) 0 32 = 0x4C4C4148 ∧ field (0 : BitVec 512) 0 32 ≠ 0x4C4C4148 ∧
    field (0x4C4C4148 : BitVec 512) 64 64 ≤ managed.hallseq.toNat := by decide +kernel

/-- An established session on die 0 bound to nothing, and one that is not established; the die's window is free, then full. -/
def attesting (busy : Bool) (st : IfState) : State :=
  let sessions : List Session := [⟨9, .message, true, none⟩, ⟨10, .window, false, none⟩]
  { exchange with dies := listModify (fun d => { d with sessions := sessions, response := if busy then [0x04] else [] }) exchange.dies 0,
                  parts := listModify (fun p => { p with ifstate := st, nonce := 3 }) exchange.parts 0 }
theorem witness_Spdm : let s := attesting false .unlocked
    s.powered = true ∧ 0 < s.dies.length ∧ s.parts.length = 24 ∧ s.dies.length = 24 ∧ heard s 0 .window ∧ heard s 0 .message ∧ heard s 0 .management ∧
    ¬ heard (attesting true .unlocked) 0 .window ∧ s.chain 0 7 = none ∧ s.chain 0 0 ≠ none ∧ (s.die 0).cert 0 = none ∧ s.hasSession 0 .message 9 true = true ∧
    s.hasSession 0 .window 10 false = true ∧ s.hasSession 0 .window 11 false = false ∧ s.awaiting 0 7 = false := by
  refine ⟨rfl, by decide, by decide, by decide, ⟨by decide, by decide, by decide⟩, ⟨by decide, by decide⟩, ⟨by decide, trivial⟩, fun h => absurd h.2.2 (by decide), ?_⟩
  refine ⟨by decide, nofun, by decide, by decide, by decide, by decide, by decide⟩
theorem witness_Tdisp : inSession (attesting false .unlocked) 0 9 .message ∧ heard (attesting false .unlocked) 0 .message ∧
    (∀ x ∈ ((attesting false .unlocked).die 0).sessions, x.id = 10 → x.established = false) ∧
    ((attesting false .unlocked).part 0).configured = true ∧ ((attesting false .unlocked).part 23).configured = false ∧
    (((attesting false .unlocked).part 0).ifstate = .unlocked ∧ ∀ d ∈ (attesting false .unlocked).diesOf 0, ((attesting false .unlocked).die d).dstate = 0) ∧
    (((attesting false .locked).part 0).ifstate = .locked ∧ ((attesting false .locked).part 0).nonce = 3) ∧
    (attesting false .run).report 0 ≠ [] := by
  exact ⟨⟨⟨9, .message, true, none⟩, by decide⟩, ⟨by decide, by decide⟩, by decide, by decide, by decide, by decide +kernel, by decide,
    by decide +kernel⟩
/-- An established session of the window while its buffer is full. -/
theorem witness_Tdisp_unheard : let s := (attesting true .unlocked).modDie 0 fun d => { d with sessions := [⟨9, .window, true, none⟩] }
    inSession s 0 9 .window ∧ ¬ heard s 0 .window := ⟨⟨⟨9, .window, true, none⟩, by decide⟩, fun h => absurd h.2.2 (by decide)⟩

/-- A team that issues: the word at its program counter is IADDI v1, v1, 3. -/
theorem witness_Step : let s := State.reset.withFetchWord 32 0x0C040403
    let s0 : State := { s with agenda := [] }
    s.agenda = [.issue 3 0] ∧ s.powered = true ∧ s0.issuePc 3 0 = some fetchBase ∧
    s0.fetchAt (s0.wg 3) ((s0.wg 3).team 0) (BitVec.ofNat 64 fetchBase) = some (0x0C040403, 0) ∧ decode 0x0C040403 = .instr (.iaddi 1 (own 1) 3) ∧
    (s0.beginIssue 3 0 (BitVec.ofNat 64 fetchBase) 0x0C040403).consumesUniform 3 0 (.iaddi 1 (own 1) 3) = false ∧
    s0.outranked 3 0 = false ∧ s0.stallsMma 3 0x0C040403 0 = false := by decide +kernel
/-- A path that another team's path at top priority precedes; and an MMA without a token. -/
theorem witness_Step_waits : let s := aged 5
    let t : State := { s with agenda := [], wgs := s.wgs.map fun w => { w with teams := w.teams ++ w.teams.map fun t =>
      { t with ages := [(fetchBase, 1024)] } } }
    let m : State := { standsAt 0x7A0082B0 [at_ []] with recs := (standsAt 0x0C040403 [at_ []]).recs }
    t.issuePc 3 0 = some fetchBase ∧ (t.fetchAt (t.wg 3) ((t.wg 3).team 0) (BitVec.ofNat 64 fetchBase)).isSome = true ∧ t.outranked 3 0 = true ∧
    m.issuePc 3 0 = some fetchBase ∧ m.fetchAt (m.wg 3) ((m.wg 3).team 0) (BitVec.ofNat 64 fetchBase) = some (0x7A0082B0, 0) ∧
    m.outranked 3 0 = false ∧ m.stallsMma 3 0x7A0082B0 0 = true := by decide +kernel
/-- `withFetchWord` gives an MMA its token, so that the step runs it. -/
theorem test_step_runs_mma : (match step (State.reset.withFetchWord 32 0x7A0082B0) with
    | .next t => ((t.record 2).lease.at 0 || decide ((((t.wg 3).team 0).thread 0).pc ≠ BitVec.ofNat 64 fetchBase)
        || decide ((((t.wg 3).team 0).thread 0).status ≠ .running))
    | _ => false) = true := by decide +kernel
theorem witness_Step_notReady : let s := stage 1 [] [{ at_ [] with status := .exited }]
    State.issuePc { s with agenda := [] } 3 0 = none ∧ s.powered = true := by decide +kernel
theorem witness_DecodeOfEncode : (Instr.atomCas 4 1 3 .ar .w64).wellFormed = true ∧ (encode true (.atomCas 4 1 3 .ar .w64)).isSome = true ∧
    (Instr.mmaRr 16 0 32 .mxE4m3 true).wellFormed = true ∧ (encode false (.mmaRr 16 0 32 .mxE4m3 true)).isSome = true := by decide
theorem witness_Inv : (State.reset.withFetchWord 32 0x0C040403).Inv ∧
    (match step (State.reset.withFetchWord 32 0x0C040403) with | .next _ => true | _ => false) = true :=
  ⟨by unfold State.Inv; decide +kernel, by decide +kernel⟩

/-- An object file of one empty section of a kind (R302, R303): a code section is taken, kind 10 is refused. -/
def objectOf (kind : Nat) : List (BitVec 8) :=
  leBytes 96 (0x314E5953 + 2 ^ 32 + 2 ^ 64 + 64 * 2 ^ 128 + 96 * 2 ^ 192 + (kind + 2 ^ 16 + 96 * 2 ^ 64) * 2 ^ 512)
theorem test_object_sections : objSections (objectOf 1) = some [⟨1, 96, 0⟩] ∧ objSections (objectOf 10) = none := by decide +kernel
/-- smovi s6 with %l18 of an address (R57), and a CALL over three words. -/
theorem test_relocations : relocate 1 0 0x40012345 0x86180000 = some 0x86192345 ∧ relocate 5 0x1000 0x1010 0x31000000 = some 0x31000003 ∧
    relocate 5 0 (2 ^ 20) 0x31000000 = none := by decide

/-! ## Witnesses: what waits, what is settled, what is poisoned -/

/-- A thread that receives its fault at once, one with a result outstanding, and one behind a lower lane that has still to receive one. -/
theorem witness_TrapOrder : let s := solo [] []
    let busy := stage 1 [] [{ at_ [] with outs := [out9] }]
    let g1 : Group := { grp 1 with lanes := 2 }
    let behind : State := { stage 1 [] [{ at_ [] with status := .trapping (plainTrap 0x11 0) }, at_ []] with cur := some g1 }
    receivesNow (teamOf s (grp 1)) 0 ∧ ¬ receivesNow (teamOf busy (grp 1)) 0 ∧
    behind.Issues g1 ∧ g1.live (teamOf behind g1) = [1] ∧ ¬ receivesNow (teamOf behind g1) 1 :=
  ⟨⟨by decide, fun m _ h => absurd h (Nat.not_lt_zero m)⟩, fun h => absurd h.1 (by decide), by unfold State.Issues; decide, by decide,
   fun h => h.2 0 _ Nat.one_pos (by decide) rfl rfl⟩

/-- A waiter of the barrier in another team, and an arrival while an access of the thread is in flight. -/
theorem witness_BarrierTeams : let s := solo [] []
    let two : State := { s with wgs := s.wgs.map fun w =>
      { w with teams := w.teams ++ [{ Team.absent with threads := [{ at_ [] with status := .waiting (.barrier 5 0) }] }],
               barriers := listModify (fun _ => ⟨1, 0, 0⟩) w.barriers 5 } }
    let late : State := { s with accs := [{ access .store 4 false (part .plain 0 .waiting 5) with order := .rlx }] }
    two.Issues (grp 1) ∧ (grp 1).live (teamOf two (grp 1)) = [0] ∧ two.released 3 0 0 0xFF 1 = true ∧ 1 < (two.wg 3).teams.length ∧
    0 < ((two.wg 3).team 1).threads.length ∧ (((two.wg 3).team 1).thread 0).status = .waiting (.barrier 5 0) ∧
    ((two.wg 3).barrier 5).expected ≤ ((two.wg 3).barrier 5).count + 1 ∧ 0 < ((two.wg 3).barrier 5).expected ∧
    ((two.wg 3).barrier 5).phase = 0 ∧ late.Issues (grp 1) ∧ late.released 3 0 0 0xFF 1 = false :=
  ⟨by unfold State.Issues; decide, by decide, by decide +kernel, by decide, by decide, by decide, by decide, by decide, by decide,
   by unfold State.Issues; decide, by decide +kernel⟩

/-- Uniform forms of a store and an atomic about to commit, and a store to host memory with the port up. -/
theorem witness_CommitForms : Commits 1 .store 4 true (part .plain 0 .mapped 5) ∧ Commits 1 (.atomic .add) 4 true (part .plain 0 .mapped 5) ∧
    Commits 3 (.atomic .add) 4 false (part .lattice 8 .mapped 0x80000000) ∧ (2 ^ 31 ≤ 0x80000000 ∧ 5 < 2 ^ 31) ∧
    (let s := accessing 1 (access .store 4 false (part .host 0 .mapped 5))
     let up : State := { s with dies := s.dies.map fun d => { d with links := [2, 2, 2, 2] } }
     Committing up (access .store 4 false (part .host 0 .mapped 5)) (part .host 0 .mapped 5) dataKey) := by
  refine ⟨?_, ?_, ?_, by decide, ?_⟩
  · exact commits_at _ _ _ _ _ rfl rfl (by decide +kernel) (by decide +kernel) (by decide)
  · exact commits_at _ _ _ _ _ rfl rfl (by decide +kernel) (by decide +kernel) (by decide)
  · exact commits_at _ _ _ _ _ rfl rfl (by decide +kernel) (by decide +kernel) (by decide)
  · exact ⟨rfl, rfl, rfl, rfl, rfl, rfl, fun _ h => absurd h List.not_mem_nil, by decide +kernel, by decide +kernel, ⟨rfl, rfl, rfl, rfl⟩,
      ⟨rfl, by decide, by decide⟩, by decide, by decide, by decide +kernel⟩

/-- A frozen write, by the operator to the die map and by an owner to a format view: what it says of the writer's group, of contexts that are
not reset, and of an interface in ERROR already. -/
theorem witness_FrozenWrites : let s := rooting 0x80000 false false
    let locked : State := { s with parts := s.parts.map fun p => { p with ifstate := .locked } }
    let failed : State := { s with parts := s.parts.map fun p => { p with ifstate := .error } }
    judged 0x0A0 0 (partOf locked (grp 1)).locked = .frozen ∧ (ctxOf locked (grp 1)).auth = 0 ∧ (locked.ctxs.map Ctx.uid).Nodup ∧
    (locked.wgs.map Wg.uid).Nodup ∧ judged 0x100 1 (partOf failed (grp 1)).locked = .frozen ∧ (partOf failed (grp 1)).ifstate = .error ∧
    ((solo [] []).ctx 1).auth = 1 := by decide +kernel

/-- MAPSYNC over code in which a thread stands and over code in which none does; a frame that no window's entry names, and one that an entry
names. -/
theorem witness_MapsyncReleases : let m : Mapping := { page := 32, frame := 32, host := false, copying := false, moved := none }
    let s := rooting 0x20 true false
    let bare : State := { s with ctxs := s.ctxs.map fun c => { c with regs := [] } }
    (rooting 0x10 false true).insideCode 0 (16 * 65536) (17 * 65536) = true ∧ s.insideCode 0 (32 * 65536) (33 * 65536) = false ∧
    m ∈ (dieOf s (grp 1)).published ∧ s.sealedAt 0 m = true ∧ unheld bare 0 m ∧ ¬ unheld s 0 m :=
  ⟨by decide +kernel, by decide +kernel, by decide +kernel, by decide +kernel, ⟨0, 32, by decide, by decide +kernel, by decide +kernel⟩,
   fun ⟨h, f, hs, _, hn⟩ => by
     have hk : (some 0, 32) = ((some h, f) : Option Nat × Nat) := hs
     cases hk
     exact absurd (hn 0 (by decide) { page := 32, frame := 32, host := false, copying := false, moved := none } (by decide +kernel) rfl
       ((rooting 0x20 true false).ctx 1) (by decide +kernel) (by decide +kernel) (by decide +kernel)) (by decide +kernel)⟩

/-- An engine at rest, one whose record's sequence word is due, one that works the record that ETAIL names, and one whose source is poisoned. -/
theorem witness_EngineStates : let s := engined 1 0x200100 16
    let y := (s.ctx 1).eng .copy 0 0
    let dued : State := { s with ctxs := s.ctxs.map fun c => { c with engines := c.engines.map fun e => { e with due := some (0x200040, 0) } } }
    let bad : State := { s with poison := [devKey 0 0x200100 / 8] }
    ((engined 0 0x200100 16).ctx 1).eng .copy 0 0 = { Eng.init .copy 0 0 with head := 0x200040, tail := 0x200040, seqa := 0x200000, state := 0, wg := 3 } ∧
    ((dued.ctx 1).eng .copy 0 0).due = some (0x200040, 0) ∧
    (match dued.engineSeq (dued.engAt 1 ((dued.ctx 1).eng .copy 0 0)) .copy 0x200040 0 with | .ok _ => true | _ => false) = true ∧
    s.recordNow 1 y = some ((teamOf s (grp 1)).sreg 4).toNat ∧ y.completed = [] ∧
    (match worked bad with | .error (.poison ..) => true | _ => false) = true := by decide +kernel

/-- A dirty word of the issuing cluster in the span of a CMO, which no other cluster holds. -/
theorem witness_CmoDirty : let c : CWord := { die := 0, cluster := 0, word := dataKey / 4, value := 7, dirty := 3, owned := true, peer := false }
    let s : State := { ranged 1 (solo [(4, dataVa), (5, 4)] []) with cwords := [c] }
    c ∈ s.cwords ∧ c.die = (s.wg 3).die ∧ c.cluster = clusterOf (s.wg 3).core ∧ (∀ y ∈ s.cwords, y.word = c.word → y = c) ∧
    c.dirty.getLsbD 0 = true ∧ meetsAny ((s.iaSpans (s.wg 3) 0x200000 4).flatMap s.keySpans) (4 * c.word) 4 = true ∧
    meetsAny ((s.iaSpans (s.wg 3) 0x200000 4).flatMap s.keySpans) (4 * (c.word + 1)) 4 = false := by decide +kernel

/-- A context with nothing on its cores, whose cancels are done at once; one whose workgroup runs on, whose cancels are not; and one in which
nothing is outstanding. -/
theorem witness_Cancels : let idle := operated owner []
    let runs := moving .running
    cancelsDone (idle.cancelCtx 20) 20 ∧ ¬ cancelsDone (runs.cancelCtx 20) 20 ∧ settledIn runs 20 ∧ settledIn (moving .frozen) 20 ∧
    (movable .running).uid ≠ (ctxOf runs (grp 1)).uid :=
  ⟨by unfold cancelsDone; decide +kernel,
   fun h => absurd (h.1 { ownerWg with core := 1 } (by decide +kernel) (by decide)) (by decide),
   by
     refine ⟨by decide +kernel, by decide +kernel, fun w hw hc y hy th ht b => ?_⟩
     exact (by decide +kernel : ∀ w ∈ (moving .running).wgs, w.ctx = 20 → ∀ y ∈ w.teams, ∀ th ∈ y.threads, th.status = .running) w hw hc y hy th ht ▸ nofun,
   by
     refine ⟨by decide +kernel, by decide +kernel, fun w hw hc y hy th ht b => ?_⟩
     exact (by decide +kernel : ∀ w ∈ (moving .frozen).wgs, w.ctx = 20 → ∀ y ∈ w.teams, ∀ th ∈ y.threads, th.status = .running) w hw hc y hy th ht ▸ nofun,
   by decide +kernel⟩
/-- A MIGRATE under way: by the group that asks, with an atomic outstanding and with none, and by a group that still waits or is gone. -/
theorem witness_MigrateUnderWay : let m (u : Nat) : Move := ⟨u, 0, BitVec.ofNat 64 fetchBase, 0, 2⟩
    let under (s : State) (u : Nat) : State := s.modCtx 20 fun c => { c with moving := some (m u) }
    (under (moving .running) 3).movedBy (grp 1) = some (20, m 3) ∧ ((under (moving .running) 3).finishAtomics 20).unfinished 20 = false ∧
    ((under atomicBusy 3).finishAtomics 20).unfinished 20 = true ∧ (moving .running).movedBy (grp 1) = none ∧
    (some (m 3)).any (moving .frozen).moverWaits = true ∧ (some (m 7)).any (moving .frozen).moverWaits = false ∧
    -- the atomic is outstanding in the context as MIGRATE holds it, and as RESUME finds it frozen
    (State.finishAtomics (((atomicBusy.freezeCtx 20).freeVictim 20).modCtx 20 fun y => { y with moving := some (m 3) }) 20).unfinished 20 = true ∧
    (movable .frozen).moving = none := by decide +kernel
/-- The issuer's own context, reset by itself. -/
theorem witness_ResetSelf : let s := solo [] []
    (s.ctx 1).uid = (ctxOf s (grp 1)).uid ∧ (grp 1).live (teamOf s (grp 1)) = [0] ∧ (∀ c ∈ s.ctxs, c.resetting = false) := by decide +kernel

/-- LDK of a listed function whose text holds a poisoned word, whose text lies on a page that is not published, and one whose place in its code range is past its end. -/
theorem witness_LdkPlans : let s : State := { listing 64 with poison := [devKey 0 0x100000 / 8] }
    let p := s.plan (s.ctx 1) 0 (s.record 2) 0x100000
    let bare := missing 0x100000 false
    (p.missing = [] ∧ p.waits = false ∧ p.foreign = none ∧ p.poisoned ≠ none ∧ callable p.listed 0x100000 = true) ∧
    (bare.plan (bare.ctx 1) 0 (bare.record 2) 0x100000).missing ≠ [] := by decide +kernel

/-- A write to a peer that may be acknowledged, one behind another of its kind, and one to a host whose port is up. -/
theorem witness_AcknowledgedBytes : let x (k : Nat) : Unacked := ⟨3, 0, 1, 0, k, 0, 0, dataKey, 4, 7⟩
    let s (l : List Unacked) : State := { exchange with unacked := l }
    (s [x 1]).unackedAt 0 = some (x 1) ∧ (s [x 1]).ackable 0 (x 1) = true ∧ (s [x 1, x 1]).ackable 1 (x 1) = false ∧
    (s [x 2]).ackable 0 (x 2) = true := by decide +kernel
/-- Two threads wait at QPOP s of queue 3, which holds one slot and has a producer. -/
def poppers (w : BitVec 32) : State :=
  let s := State.reset.withFetchWord 32 w.toNat
  { s with agenda := [], nextId := 10, wgs := s.wgs.map fun u =>
      { u with nlive := 2, teams := [{ Team.absent with threads := List.replicate 2 { at_ [] with status := .waiting (.queue 3 false) } }],
               queues := listModify (fun q => { q with opened := true, width := 8, slots := [5], producers := [0] }) u.queues 3 } }
theorem witness_QueueWake : let s := poppers ((encode false (.qpop 4 false .q64 3)).getD 0)
    s.powered = true ∧ s.active 3 0 = true ∧ (s.wg 3).served 3 = [(0, 0), (0, 1)] ∧ (s.ctx (s.wg 3).ctx).halted = false ∧
    (∀ x ∈ (s.wg 3).served 3, s.instrAt (s.wg 3) ((s.wg 3).team x.1) (((s.wg 3).team x.1).thread x.2).pc = some (.qpop 4 false .q64 3)) ∧
    3 < (s.wg 3).queues.length ∧ ((s.wg 3).queue 3).opened = true ∧ ((s.wg 3).queue 3).width = 4 * 2 ∧ ((s.wg 3).queue 3).poison = [] ∧
    ((s.wg 3).queue 3).producers ≠ [] := by decide +kernel

/-- A launch of the second die's core, no context of which is being reset; rows of the read-only and translation caches with no spare left. -/
theorem witness_RowsRetire : let s : State := { exchange with dies := listModify (fun d => { d with suspects := [.anywhere], spareRows := [(0x300F, 8), (0x400F, 8)] }) exchange.dies 0 }
    s.testable (.readOnlyRow 0 15 false) = true ∧ s.testable (.translationRow 0 15 false) = true ∧
    8 ≤ (spGet (s.die 0).spareRows (0x3000 + 15)).toNat ∧ 8 ≤ (spGet (s.die 0).spareRows (0x4000 + 15)).toNat ∧
    (∀ c ∈ s.ctxs, c.resetting = false) ∧ (s.die 0).boot = 6 := by decide +kernel

/-- A slot whose response stands out and one whose rewrite goes on; a request that fits the window and one that does not; a partition that is
stopped with a frame of its world. -/
theorem witness_Slots : let s := (attesting false .run).modDie 0 fun d => { d with certs := [⟨1, [7], false, true⟩, ⟨2, [7], true, false⟩] }
    heard s 0 .message ∧ s.hasSession 0 .message 9 true = true ∧ s.awaiting 0 1 = true ∧ s.awaiting 0 2 = false ∧ s.rewriting 0 2 = true ∧
    s.chain 0 2 = some [7] ∧ fits .window 0x7F0 ∧ ¬ fits .window 0x7F1 ∧ (s.part 0).ifstate = .run ∧ (s.part 0).world ≠ 0 ∧
    0 ∈ s.diesOf 0 ∧ (s.frameOf 0 32).owner = (s.part 0).world :=
  ⟨⟨by decide +kernel, by decide +kernel⟩, by decide +kernel, by decide +kernel, by decide +kernel, by decide +kernel, by decide +kernel,
   by unfold fits; decide, by unfold fits; decide, by decide +kernel, by decide +kernel, by decide +kernel, by decide +kernel⟩

/-- The example of the hash standards: the message "abc" (FIPS 180-4). -/
theorem test_sha256 : bigEndian (sha256 [0x61, 0x62, 0x63]) = (0xba7816bf8f01cfea414140de5dae2223b00361a396177a9cb410ff61f20015ad : BitVec 256) := by decide +kernel
theorem test_sha384 : bigEndian (sha384 [0x61, 0x62, 0x63]) = (0xcb00753f45a35e8bb5a03d699ac65007272c32ab0eded1631a8b605a43ff5bed8086072ba1e7cc2358baeca134c825a7 : BitVec 384) := by decide +kernel

end Sys2Proof.Tests
end

section
/-!
SUPPORT. Lists by index and folds of steps: what a map over an indexed list gives, and what a fold of steps keeps that
each step keeps.
-/
namespace Sys2Proof.Machine

/-! ## Lists by index -/

theorem listGet_map {α β : Type} (g : α → β) (d : α) : ∀ (l : List α) (n : Nat), listGet (g d) (l.map g) n = g (listGet d l n)
  | [], _ => rfl
  | _ :: _, 0 => rfl
  | _ :: t, n + 1 => listGet_map g d t n

/-- A list made by a function of the index reads as the function, beyond its end too. -/
theorem listGet_map_upFrom {α : Type} (f : Nat → α) : ∀ (k a n : Nat), listGet (f (a + n)) ((upFrom a k).map f) n = f (a + n)
  | 0, _, _ => rfl
  | _ + 1, _, 0 => rfl
  | k + 1, a, n + 1 => by
    have h : a + (n + 1) = a + 1 + n := by omega
    rw [h]
    exact listGet_map_upFrom f k (a + 1) n

/-- Within the list, whatever the default is. -/
theorem listGet_map_upFrom_of_lt {α : Type} (d : α) (f : Nat → α) : ∀ (k a n : Nat), n < k → listGet d ((upFrom a k).map f) n = f (a + n)
  | 0, _, _, h => absurd h (Nat.not_lt_zero _)
  | _ + 1, _, 0, _ => rfl
  | k + 1, a, n + 1, h => by
    have e : a + (n + 1) = a + 1 + n := by omega
    rw [e]
    exact listGet_map_upFrom_of_lt d f k (a + 1) n (Nat.lt_of_succ_lt_succ h)

theorem mem_upFrom : ∀ (k a n : Nat), a ≤ n → n < a + k → n ∈ upFrom a k
  | 0, a, n, hl, hu => absurd hl (by omega)
  | k + 1, a, n, hl, hu => by
    by_cases h : n = a
    · subst h
      exact List.mem_cons_self
    · exact List.mem_cons_of_mem _ (mem_upFrom k (a + 1) n (by omega) (by omega))

theorem listGet_of_length_le {α : Type} (d : α) : ∀ (l : List α) (n : Nat), l.length ≤ n → listGet d l n = d
  | [], _, _ => rfl
  | _ :: _, 0, h => absurd h (by simp)
  | _ :: t, n + 1, h => listGet_of_length_le d t n (by simpa using h)

theorem listGet_ne_of_notMem {α : Type} {d x : α} (hd : d ≠ x) : ∀ {l : List α} (n : Nat), x ∉ l → listGet d l n ≠ x
  | [], _, _ => hd
  | _ :: _, 0, h => fun e => h (e ▸ List.mem_cons_self)
  | _ :: _, n + 1, h => listGet_ne_of_notMem hd n fun m => h (List.mem_cons_of_mem _ m)

/-- What every changed element keeps, the list keeps. -/
theorem map_listModify {α β : Type} {g : α → β} {f : α → α} (h : ∀ x, g (f x) = g x) : ∀ (l : List α) (n : Nat),
    (listModify f l n).map g = l.map g
  | [], _ => rfl
  | x :: t, 0 => by simp [listModify, h]
  | x :: t, n + 1 => by simp [listModify, map_listModify h t n]

theorem map_mapIdxFrom {α β : Type} {g : α → β} {f : Nat → α → α} (h : ∀ n x, g (f n x) = g x) : ∀ (l : List α) (n : Nat),
    (mapIdxFrom f n l).map g = l.map g
  | [], _ => rfl
  | x :: t, n => by simp [mapIdxFrom, h, map_mapIdxFrom h t (n + 1)]

theorem map_map_kept {α β : Type} {g : α → β} {f : α → α} (h : ∀ x, g (f x) = g x) (l : List α) : (l.map f).map g = l.map g := by
  rw [List.map_map]
  exact List.map_congr_left fun x _ => h x

/-- A filtered store reads as it did at the keys that pass and as zero elsewhere. -/
theorem spGet_filter {w : Nat} (p : Nat → Bool) (k : Nat) : ∀ m : Sparse w,
    spGet (m.filter fun e => p e.1) k = if p k = true then spGet m k else 0
  | [] => by simp [spGet]
  | (j, v) :: t => by
    have ih := spGet_filter p k t
    by_cases hj : j = k
    · subst hj
      by_cases hp : p j = true
      · simp [hp, spGet]
      · simp [hp] at ih
        simp [hp, ih]
    · by_cases hp : p j = true <;> simp [hp, spGet, hj, ih]

/-! ## Folds -/

/-- What every step keeps, a fold of them keeps. -/
theorem foldl_keeps {σ α β : Type} (g : σ → β) {f : σ → α → σ} (hf : ∀ s a, g (f s a) = g s) (l : List α) :
    ∀ s : σ, g (l.foldl f s) = g s := by
  induction l with
  | nil => intro s; rfl
  | cons x t ih => intro s; exact (ih (f s x)).trans (hf s x)

/-- A fold of steps that may fail, where it does not: it began with a state, and keeps what every step keeps. -/
theorem foldl_option_keeps {σ α β : Type} (g : σ → β) {f : Option σ → α → Option σ}
    (hf : ∀ o x b, f o x = some b → ∃ a, o = some a ∧ g b = g a) (l : List α) :
    ∀ (o : Option σ) (b : σ), l.foldl f o = some b → ∃ a, o = some a ∧ g b = g a := by
  induction l with
  | nil => intro o b h; exact ⟨b, h, rfl⟩
  | cons x t ih =>
    intro o b h
    obtain ⟨c, hc, hb⟩ := ih _ b h
    obtain ⟨a, ha, hca⟩ := hf o x c hc
    exact ⟨a, ha, hb.trans hca⟩

/-- A step that begins with what stood before: where it succeeds, so did that. -/
theorem bind_keeps {σ β : Type} (g : σ → β) {f : σ → Option σ} (hf : ∀ a b, f a = some b → g b = g a) {o : Option σ} {b : σ}
    (h : o.bind f = some b) : ∃ a, o = some a ∧ g b = g a := by
  obtain ⟨a, ha, hb⟩ := Option.bind_eq_some_iff.mp h
  exact ⟨a, ha, hf a b hb⟩

end Sys2Proof.Machine
end

section
/-!
The machine at reset (R2, R268 to R270, R329, R349, R360, R376): what each die and partition reads as.
-/
namespace Sys2Proof.Machine

@[simp] theorem reset_die (d : Nat) : State.reset.die d = Die.init d := by
  have h := listGet_map_upFrom Die.init 24 0 d
  rwa [Nat.zero_add] at h

@[simp] theorem reset_part (p : Nat) : State.reset.part p = Part.init :=
  listGet_map_upFrom (fun _ => Part.init) 24 0 p

/-- Every exchange entry is off, with PERIOD 8 (R268, R271). -/
theorem spGet_xschedReset {n : Nat} (h : n < 8) : spGet xschedReset n = 0x80000 := by
  revert n
  decide

/-- The ports of a die at reset: only ports 1 and 2 can be missing (R349, R360). -/
theorem init_links (d : Nat) {p : Nat} (h : p < 4) : listGet 0 (Die.init d).links p = if portMissing d p = true then 3 else 0 :=
  match p, h with
  | 0, _ => rfl
  | 1, _ => rfl
  | 2, _ => rfl
  | 3, _ => rfl

end Sys2Proof.Machine

namespace Sys2Proof.Claims
open Machine

/-- Settles O59: the reset state is a closed term; its dies and partitions read as `Die.init` and `Part.init`. -/
theorem resetLeavesTheStatedValues : Obligations.ResetLeavesTheStatedValues := by
  unfold Obligations.ResetLeavesTheStatedValues
  refine ⟨reset_mem_wf, rfl, rfl, fun _ => rfl, rfl, rfl, rfl, rfl, rfl, rfl, rfl, rfl, rfl, rfl, ?_, ?_⟩
  · intro p
    rw [reset_part]
    exact ⟨rfl, rfl, rfl, rfl, by decide, by decide⟩
  · intro d _
    rw [reset_die]
    exact ⟨rfl, rfl, rfl, rfl, rfl, rfl, rfl, rfl, rfl, rfl, fun _ => spGet_xschedReset, rfl, fun _ => rfl, fun _ => rfl,
      fun _ => init_links d, rfl, rfl⟩

end Sys2Proof.Claims
end

section
/-!
SUPPORT. What the configuration service relies on across the operations of Percale and the front end: they give no answer,
move no die to another partition, and leave alone what a partition is. `State.tenure` gathers these, so that each operation
needs one lemma, an equation, and the equations chain.
-/
namespace Sys2Proof.Machine

/-! ## What is kept -/

/-- What a partition is: whether it is configured, its world, its interface state and its rank. -/
def Part.standing (p : Part) : Bool × BitVec 16 × IfState × BitVec 4 := (p.configured, p.world, p.ifstate, p.prank)

/-- The answers given, the partition of each die, and what each partition is. -/
def State.tenure (s : State) : List Answer × List (Option Nat) × List (Bool × BitVec 16 × IfState × BitVec 4) :=
  (s.answers, s.dies.map Die.part, s.parts.map Part.standing)

theorem State.tenure_of {s t : State} (ha : t.answers = s.answers) (hd : t.dies.map Die.part = s.dies.map Die.part)
    (hp : t.parts.map Part.standing = s.parts.map Part.standing) : t.tenure = s.tenure := by
  unfold State.tenure
  rw [ha, hd, hp]

theorem State.answers_of_tenure {s t : State} (h : t.tenure = s.tenure) : t.answers = s.answers := congrArg Prod.fst h

theorem State.homes_of_tenure {s t : State} (h : t.tenure = s.tenure) : t.dies.map Die.part = s.dies.map Die.part :=
  congrArg (fun x => x.2.1) h

theorem State.standings_of_tenure {s t : State} (h : t.tenure = s.tenure) :
    t.parts.map Part.standing = s.parts.map Part.standing := congrArg (fun x => x.2.2) h

theorem State.part_die (s : State) (d : Nat) : (s.die d).part = listGet none (s.dies.map Die.part) d :=
  (listGet_map Die.part (Die.init d) s.dies d).symm

theorem State.home_of_tenure {s t : State} (h : t.tenure = s.tenure) (d : Nat) : (t.die d).part = (s.die d).part := by
  rw [t.part_die, s.part_die, State.homes_of_tenure h]

theorem State.standing_of_tenure {s t : State} (h : t.tenure = s.tenure) (p : Nat) : (t.part p).standing = (s.part p).standing := by
  unfold State.part
  rw [← listGet_map Part.standing, ← listGet_map Part.standing, State.standings_of_tenure h]

/-- A fold of steps that keep the tenure keeps it. -/
theorem State.tenure_foldl {α : Type} {f : State → α → State} (hf : ∀ s a, (f s a).tenure = s.tenure) (l : List α) (s : State) :
    (l.foldl f s).tenure = s.tenure := foldl_keeps State.tenure hf l s

/-! ## Single changes -/

@[simp] theorem State.tenure_modCtx (s : State) (c : Nat) (f : Ctx → Ctx) : (s.modCtx c f).tenure = s.tenure := rfl

theorem State.tenure_modDie (s : State) (d : Nat) {f : Die → Die} (hf : ∀ x, (f x).part = x.part) :
    (s.modDie d f).tenure = s.tenure :=
  State.tenure_of rfl (map_listModify hf s.dies d) rfl

theorem State.tenure_modPart (s : State) (p : Nat) {f : Part → Part} (hf : ∀ x, (f x).standing = x.standing) :
    (s.modPart p f).tenure = s.tenure :=
  State.tenure_of rfl rfl (map_listModify hf s.parts p)

/-- A change of every die that moves none to another partition. -/
theorem State.tenure_mapDies (s : State) {f : Die → Die} (hf : ∀ x, (f x).part = x.part) :
    ({ s with dies := s.dies.map f } : State).tenure = s.tenure :=
  State.tenure_of rfl (map_map_kept hf s.dies) rfl

theorem State.tenure_modFrameOf (s : State) (d f : Nat) (g : FrameEntry → FrameEntry) : (s.modFrameOf d f g).tenure = s.tenure := by
  unfold State.modFrameOf
  split
  · rfl
  · exact s.tenure_modDie d fun _ => by rfl

/-! ## Caches and memory (R224, R225, R261, R354): they touch no die, no partition and no context -/

/-- What the caches and memory do not reach. -/
def State.offMemory (s : State) : List Answer × List Die × List Part × List Ctx := (s.answers, s.dies, s.parts, s.ctxs)

theorem State.tenure_of_offMemory {s t : State} (h : t.offMemory = s.offMemory) : t.tenure = s.tenure := by
  simp only [State.offMemory, Prod.mk.injEq] at h
  obtain ⟨ha, hd, hp, -⟩ := h
  exact State.tenure_of ha (by rw [hd]) (by rw [hp])

theorem State.ctxs_of_offMemory {s t : State} (h : t.offMemory = s.offMemory) : t.ctxs = s.ctxs := congrArg (fun x => x.2.2.2) h

theorem State.offMemory_writeBackAll (s : State) (p : CWord → Bool) : (s.writeBackAll p).offMemory = s.offMemory :=
  foldl_keeps State.offMemory (fun _ _ => by rfl) _ s

theorem State.offMemory_dropWords (s : State) (p : CWord → Bool) : (s.dropWords p).offMemory = s.offMemory :=
  s.offMemory_writeBackAll p

theorem State.offMemory_l2Write (s : State) (k n v : Nat) : (s.l2Write k n v).offMemory = s.offMemory :=
  foldl_keeps State.offMemory (fun _ _ => by rfl) (wordsOf k n) s

theorem State.offMemory_land (s : State) (x : Unacked) : (s.land x).offMemory = s.offMemory := by
  unfold State.land
  split
  · exact s.offMemory_l2Write x.key x.bytes x.data
  · split
    · exact s.offMemory_l2Write x.key x.bytes x.data
    · rfl

theorem State.offMemory_landWhere (s : State) (p : Unacked → Bool) : (s.landWhere p).offMemory = s.offMemory :=
  foldl_keeps State.offMemory State.offMemory_land _ s

theorem State.offMemory_writeVa (s : State) (c : Ctx) (d va n v : Nat) : (s.writeVa c d va n v).offMemory = s.offMemory := by
  unfold State.writeVa
  split
  · split
    · exact s.offMemory_l2Write _ _ _
    · rfl
  · rfl

theorem State.offMemory_bottomFrame (s : State) (d f ty : Nat) : (s.bottomFrame d f ty).offMemory = s.offMemory := by
  unfold State.bottomFrame
  dsimp only
  split <;> rfl

theorem State.offMemory_reissueWaits (s : State) (xs : List Waiter) : (s.reissueWaits xs).offMemory = s.offMemory := by
  unfold State.reissueWaits
  split
  · rfl
  · exact foldl_keeps State.offMemory (fun _ _ => by rfl) _ _

theorem State.offMemory_reissueWhere (s : State) (p : Waiter → Bool) : (s.reissueWhere p).offMemory = s.offMemory :=
  foldl_keeps State.offMemory (fun a _ => a.offMemory_reissueWaits _) _ s

/-! ## Pre-emptions and workgroups that go (R206, R215, R323) -/

theorem State.tenure_thawWg (s : State) (u : Nat) : (s.thawWg u).tenure = s.tenure :=
  State.tenure_of_offMemory (State.offMemory_reissueWhere _ _)

theorem State.tenure_continueVictim (s : State) (d c : Nat) : (s.continueVictim d c).tenure = s.tenure := by
  unfold State.continueVictim
  split
  · rfl
  · exact (State.tenure_foldl State.tenure_thawWg _ _).trans (s.tenure_modDie d fun _ => by rfl)

theorem State.tenure_touch (s : State) (w : Wg) : (s.touch w).tenure = s.tenure := by
  unfold State.touch
  split
  · exact s.tenure_modDie _ fun _ => by rfl
  · rfl

theorem State.tenure_removeWg (s : State) (u : Nat) : (s.removeWg u).tenure = s.tenure := by
  have hf : (s.forgetWg u).tenure = s.tenure := State.tenure_of_offMemory (s.offMemory_landWhere _)
  have ht : (({ s.forgetWg u with wgs := (s.forgetWg u).wgs.filter fun y => y.uid != u } : State).touch (s.wg u)).tenure = s.tenure :=
    (State.tenure_touch _ _).trans hf
  unfold State.removeWg
  dsimp only
  split
  · exact (State.tenure_continueVictim _ _ _).trans ht
  · exact ht

/-! ## Records that end (R291, R293, R344) -/

theorem State.tenure_writeHead (s : State) (u : Nat) : (s.writeHead u).tenure = s.tenure :=
  State.tenure_of_offMemory (s.offMemory_writeVa _ _ _ _ _)
theorem State.tenure_writeDone (s : State) (u : Nat) : (s.writeDone u).tenure = s.tenure :=
  State.tenure_of_offMemory (s.offMemory_writeVa _ _ _ _ _)
theorem State.tenure_unqueue (s : State) (u : Nat) : (s.unqueue u).tenure = s.tenure := s.tenure_mapDies fun _ => by rfl
theorem State.tenure_unbind (s : State) (u : Nat) : (s.unbind u).tenure = s.tenure := s.tenure_mapDies fun _ => by rfl

theorem State.tenure_childEnded (s : State) (p : Option Nat) : (s.childEnded p).tenure = s.tenure := by
  unfold State.childEnded
  split
  · rfl
  · split
    · rfl
    · exact State.tenure_writeDone _ _

theorem State.tenure_complete (s : State) (u code : Nat) : (s.complete u code).tenure = s.tenure := by
  have hl : (if (s.record u).lease.waiting then s.seeLease (s.record u).ctx else s).tenure = s.tenure := by
    split <;> rfl
  unfold State.complete
  split
  · rfl
  · exact (State.tenure_childEnded _ _).trans ((State.tenure_writeHead _ _).trans ((State.tenure_unqueue _ _).trans hl))

theorem State.tenure_dropRec (s : State) (u : Nat) : (s.dropRec u).tenure = s.tenure := by
  unfold State.dropRec
  dsimp only
  split
  · rfl
  · exact (State.tenure_complete _ _ _).trans ((State.tenure_writeDone _ _).trans (s.tenure_unbind u))

theorem State.tenure_endLaunches (s : State) (c : Nat) : (s.endLaunches c).tenure = s.tenure := by
  unfold State.endLaunches
  dsimp only
  refine (State.tenure_foldl (fun a k => State.tenure_foldl (fun b u => ?_) _ a) _ _).trans ?_
  · exact State.tenure_complete _ _ _
  · rw [State.tenure_modCtx]
    refine (State.tenure_foldl (fun a u => a.tenure_childEnded _) _ _).trans ?_
    refine (State.tenure_foldl (fun a w => ?_) _ _).trans (State.tenure_foldl State.tenure_dropRec _ s)
    exact (State.tenure_childEnded _ _).trans (a.tenure_removeWg _)

/-! ## The reset of a context and of an interface (R344, R373) -/

theorem State.tenure_sealFrames (s : State) (i : Image) (on : Bool) : (s.sealFrames i on).tenure = s.tenure := by
  unfold State.sealFrames
  refine State.tenure_foldl (fun a m => ?_) _ s
  split
  · rfl
  · exact a.tenure_modFrameOf _ _ _

theorem State.tenure_scrubImage (s : State) (c : Nat) : (s.scrubImage c).tenure = s.tenure := by
  unfold State.scrubImage
  split
  · rfl
  · refine (State.tenure_sealFrames _ _ _).trans (State.tenure_foldl (fun a m => ?_) _ s)
    split <;> rfl

theorem State.tenure_endPreempts (s : State) (c : Nat) : (s.endPreempts c).tenure = s.tenure :=
  State.tenure_foldl (fun a _ => State.tenure_foldl (fun b _ => b.tenure_continueVictim _ _) _ a) _ s

theorem State.tenure_freeRegions (s : State) (p : Nat) : (s.freeRegions p).tenure = s.tenure := by
  refine State.tenure_of rfl (map_map_kept (fun x => ?_) _) (map_listModify (fun _ => by rfl) s.parts p)
  split <;> rfl

theorem State.tenure_resetCtx (s : State) (c : Nat) : (s.resetCtx c).tenure = s.tenure := by
  have he : (((s.endLaunches c).scrubImage c).endPreempts c).tenure = s.tenure :=
    (State.tenure_endPreempts _ _).trans ((State.tenure_scrubImage _ _).trans (s.tenure_endLaunches c))
  unfold State.resetCtx
  dsimp only
  rw [State.tenure_freeRegions, State.tenure_modCtx]
  generalize ((s.endLaunches c).scrubImage c).endPreempts c = a at he ⊢
  generalize hb : State.dropWords _ _ = b
  have hs : b.tenure = s.tenure := by
    rw [← hb]
    exact (State.tenure_of_offMemory (State.offMemory_dropWords _ _)).trans he
  refine Eq.trans ?_ hs
  exact State.tenure_of rfl (map_map_kept (fun _ => by rfl) _) rfl

theorem State.tenure_eraseKey (s : State) (p : Nat) : (s.eraseKey p).tenure = s.tenure :=
  State.tenure_foldl (fun a d => a.tenure_modDie d fun _ => by rfl) _ s

theorem State.tenure_stopInterface (s : State) (p : Nat) : (s.stopInterface p).tenure = s.tenure := by
  refine (State.tenure_eraseKey _ _).trans ?_
  refine (State.tenure_foldl (fun a d => a.tenure_modDie d fun _ => by rfl) _ _).trans ?_
  refine Eq.trans (State.tenure_of_offMemory (State.offMemory_dropWords _ _)) ?_
  exact State.tenure_foldl State.tenure_resetCtx _ s

theorem State.answers_enterError (s : State) (p : Nat) : (s.enterError p).answers = s.answers := by
  unfold State.enterError
  split
  · have h : (s.stopInterface p).answers = s.answers := State.answers_of_tenure (s.tenure_stopInterface p)
    exact h
  · rfl

theorem State.tenure_unplaceAll (s : State) (p : Nat) : (s.unplaceAll p).tenure = s.tenure :=
  State.tenure_foldl State.tenure_resetCtx _ s

/-! ## Pages (R209, R266, R330) -/

theorem State.dropPages_keeps (s : State) (d lo hi : Nat) (old : List Mapping) :
    (s.dropPages d lo hi old).tenure = s.tenure ∧ (s.dropPages d lo hi old).ctxs = s.ctxs := by
  unfold State.dropPages
  dsimp only
  generalize ha : State.reissueWhere _ _ = a
  have hs : a.offMemory = s.offMemory := by
    rw [← ha]
    exact (State.offMemory_reissueWhere _ _).trans ((State.offMemory_dropWords _ _).trans (s.offMemory_landWhere _))
  refine ⟨Eq.trans ?_ (State.tenure_of_offMemory hs), State.ctxs_of_offMemory (t := a) hs⟩
  exact State.tenure_of rfl (map_listModify (fun _ => by rfl) _ d) rfl

theorem State.tenure_takeFrame (s : State) (d : Nat) (m : Mapping) : (s.takeFrame d m).tenure = s.tenure := by
  unfold State.takeFrame
  split
  · dsimp only
    split
    · refine (State.tenure_modFrameOf _ _ _ _).trans ?_
      split <;> rfl
    · rfl
  · rfl

theorem State.tenure_latticeFrame (s : State) (d : Nat) (m : Mapping) : (s.latticeFrame d m).tenure = s.tenure := by
  unfold State.latticeFrame
  split
  · split
    · rfl
    · exact (State.tenure_modFrameOf _ _ _ _).trans (State.tenure_of_offMemory (s.offMemory_bottomFrame _ _ _))
  · rfl

theorem State.tenure_dropFrame (s : State) (d : Nat) (m : Mapping) : (s.dropFrame d m).tenure = s.tenure := by
  unfold State.dropFrame
  split
  · split
    · exact s.tenure_modFrameOf _ _ _
    · rfl
  · rfl

theorem State.tenure_publish (s : State) (d lo hi : Nat) : (s.publish d lo hi).1.tenure = s.tenure := by
  unfold State.publish
  dsimp only
  split
  · rfl
  · split
    · rfl
    · refine (State.tenure_foldl (fun a m => a.tenure_dropFrame d m) _ _).trans ?_
      refine (State.tenure_foldl (fun a m => (State.tenure_latticeFrame _ d m).trans (a.tenure_takeFrame d m)) _ _).trans ?_
      exact (State.tenure_modDie _ d fun _ => by rfl).trans (s.dropPages_keeps d lo hi _).1

/-! ## Range registers (R265, R326) -/

theorem State.tenure_newReplica (w : BitVec 16) (r : Region) (s : State) (d : Nat) : (s.newReplica w r d).tenure = s.tenure := by
  refine State.tenure_foldl (fun a m => ?_) _ s
  dsimp only
  split
  · rfl
  · split
    · rfl
    · refine (State.tenure_modFrameOf _ _ _ _).trans ?_
      exact State.tenure_of_offMemory ((State.offMemory_bottomFrame _ _ _ _).trans (a.offMemory_dropWords _))

theorem State.tenure_leaveRange (s : State) (c : Ctx) (n : Nat) : (s.leaveRange c n).tenure = s.tenure :=
  State.tenure_foldl (fun _ _ => by rfl) _ s

/-- What a write of a control register comes to, where it is executed, keeps the tenure. -/
def CtlWrite.keepsTenure (w : CtlWrite) (s : State) : Prop := ∀ t st, w = .done t st → t.tenure = s.tenure

theorem State.writeRange_keepsTenure (s : State) (c : Ctx) (n k : Nat) (x : BitVec 64) : (s.writeRange c n k x).keepsTenure s := by
  intro t st h
  unfold State.writeRange at h
  split at h <;> cases h <;> rfl

theorem State.writeRattr_keepsTenure (s : State) (c : Ctx) (n : Nat) (x : BitVec 64) : (s.writeRattr c n x).keepsTenure s := by
  intro t st h
  have hp (rs : List Region) : (s.modPart c.part fun p => { p with regions := rs }).tenure = s.tenure :=
    s.tenure_modPart c.part fun _ => rfl
  unfold State.writeRattr at h
  dsimp only at h
  split at h
  · -- an enabled range: only leaving it changes anything
    split at h
    · cases h; rfl
    · split at h
      · cases h; rfl
      · split at h
        · cases h
        · cases h
          exact (State.tenure_freeRegions _ _).trans (s.tenure_leaveRange c n)
  · split at h
    · cases h; rfl
    · split at h
      · cases h; rfl
      · split at h
        · cases h; rfl
        · split at h
          · -- a lattice range declares its region
            split at h
            · cases h; rfl
            · cases h
              split
              · exact hp _
              · exact (State.tenure_foldl (State.tenure_newReplica _ _) _ _).trans (hp _)
          · cases h; rfl

/-! ## Budgets (R379) -/

theorem State.tenure_rebudget (s : State) : s.rebudget.tenure = s.tenure := by
  refine State.tenure_of rfl (map_mapIdxFrom (fun i d => ?_) _ _) (map_mapIdxFrom (fun i p => ?_) _ _)
  · split
    · split <;> rfl
    · rfl
  · split <;> rfl

/-- A budget changes a die's budget, its tokens and its clock, and nothing else of it. -/
theorem State.die_rebudget (s : State) (d : Nat) :
    ∃ b n m, s.rebudget.die d = { s.die d with budget := b, pool := n, mhz := m } := by
  by_cases hd : d < s.dies.length
  · unfold State.die State.rebudget
    dsimp only
    rw [listGet_mapIdxFrom _ _ _ _ _ hd]
    split
    · split <;> exact ⟨_, _, _, rfl⟩
    · exact ⟨_, _, _, rfl⟩
  · have h (t : State) (ht : t.dies.length = s.dies.length) : t.die d = Die.init d :=
      listGet_of_length_le _ _ _ (by omega)
    rw [h s.rebudget (length_mapIdxFrom _ _ _), h s rfl]
    exact ⟨_, _, _, rfl⟩

end Sys2Proof.Machine
end

section
/-!
Steps of a module without power (R2): every further step of the device and every outside request but the release of reset
asks for power first.
-/
namespace Sys2Proof.Machine

theorem State.internal_off {s : State} (hp : s.powered = false) (ok : Bool) (f : Unit → State) : s.internal ok f = .fault .poweredOff := by
  unfold State.internal
  simp [hp]

theorem State.outside_off {s : State} (hp : s.powered = false) (f : Unit → State) : s.outside f = .fault .poweredOff := by
  unfold State.outside
  simp [hp]

theorem State.found_off {s : State} (hp : s.powered = false) (o : Option State) : s.found o = .fault .poweredOff := by
  unfold State.found
  split <;> exact State.internal_off hp _ _

theorem State.spdm_off {s : State} (hp : s.powered = false) (d : Nat) (t : Transport) (req : List (BitVec 8)) (f : State → State × Reply) :
    s.spdm d t req f = .fault .poweredOff := State.outside_off hp _

theorem State.tdisp_off {s : State} (hp : s.powered = false) (d x : Nat) (req : List (BitVec 8)) (f : State → State × Reply) :
    s.tdisp d x req f = .fault .poweredOff := State.outside_off hp _

theorem State.tdispPart_off {s : State} (hp : s.powered = false) (d x p : Nat) (req : List (BitVec 8)) (f : State → State × Reply) :
    s.tdispPart d x p req f = .fault .poweredOff := State.tdisp_off hp d x _ _

theorem State.service_off {s : State} (hp : s.powered = false) (code : Nat) (h : CfgHeader) (ops : List (BitVec 8)) (f : CfgEffect) :
    s.service code h ops f = .fault .poweredOff := State.outside_off hp _

end Sys2Proof.Machine

namespace Sys2Proof.Claims
open Machine

/-- A step that needs power faults without it: each is an internal step, an outside request or a step found, or chooses among
internal steps by what it names. -/
theorem exec_of_poweredStep {s : State} {i : Instr} (hi : poweredStep i = true) (hp : s.powered = false) :
    exec i s = .fault .poweredOff := by
  cases i with
  | resultReturn | verdictArrival | regionCommit | heldAccessReissue | twillTranslation | workgroupEnd | workgroupPlacement | phaseStart
  | ageingTopPriority | targetedTest | linkReplay | unitWakeScrub | drainFrameCopy | linkDown | dieLostWithoutEvacuation | hbmOrFabricTestFailure | thermalProtection
  | electricalProtection =>
    unfold exec
    exact State.internal_off hp _ _
  | queueWake | ldthCellChange | ldthPoll | ldthWaitExpiry | ewaitWake | ewaitWaitExpiry | linkTrainRetry =>
    unfold exec
    dsimp only [execQueueWake, execLdthCellChange, execLdthPoll, execLdthWaitExpiry, execEwaitWake, execEwaitWaitExpiry, execLinkTrainRetry]
    exact State.internal_off hp _ _
  | rendezvousComplete | launchCompletion | launchStart | engineRecord | leaseGrant | leaseQuantumEnd | preemptFreeze | exchangeBoundary =>
    unfold exec
    exact State.found_off hp _
  | doorbellWrite | softError | modulePowerOff | capFrame | spdmResponseRelease =>
    unfold exec
    exact State.outside_off hp _
  | getVersion | getCapabilities | negotiateAlgorithms | getDigests | getCertificate | challenge | getMeasurements | keyExchange | finish
  | endSession | setCertificate | spdmUnsupportedRequest =>
    unfold exec
    exact State.spdm_off hp _ _ _ _
  | getTdispVersion | getTdispCapabilities | tdispUnsupportedRequest =>
    unfold exec
    exact State.tdisp_off hp _ _ _ _
  | lockInterfaceRequest | getDeviceInterfaceReport | getDeviceInterfaceState | startInterfaceRequest | stopInterfaceRequest =>
    unfold exec
    exact State.tdispPart_off hp _ _ _ _ _
  | setHallKey | configure | dissolve | query | setMgmt | configUnsupported =>
    unfold exec
    exact State.service_off hp _ _ _ _
  | trapDelivery | sideLogReplay | blockGrant | tokenPass | lineJoin | heldLineJoin | writeAcknowledged =>
    unfold exec
    simp only [execTrapDelivery, execSideLogReplay, execBlockGrant, execTokenPass, execLineJoin, execHeldLineJoin, execWriteAcknowledged]
    split <;> exact State.internal_off hp _ _
  | taggedMessage _ m =>
    unfold exec execTaggedMessage
    cases m
    · dsimp only
      split <;> exact State.internal_off hp _ _
    · exact State.outside_off hp _
  | _ => cases hi

end Sys2Proof.Claims
end

section
/-!
The module as a whole: bring-up and the end of power (R2, R382), cap frames (R377, R378), protection (R380).
-/
namespace Sys2Proof.Machine

/-! ## Host memory outlives the power-on span (R2) -/

theorem spGet_hostBytes (m : Sparse 8) (k : Nat) : spGet (hostBytes m) k = if k < 2 ^ 64 then spGet m k else 0 := by
  have h := spGet_filter (fun a => decide (a < 2 ^ 64)) k m
  simp only [decide_eq_true_eq] at h
  exact h

/-! ## Bring-up (R382) -/

/-- A die after the release of reset is the die as its bring-up left it, with a budget applied. -/
theorem State.die_bootModule (s : State) (b : BootOutcome) {d : Nat} (hd : d < 24) :
    ∃ w n m, (s.bootModule b).die d = { bootDie b d with budget := w, pool := n, mhz := m } := by
  have hb := listGet_map_upFrom_of_lt (Die.init d) (bootDie b) 24 0 d hd
  rw [Nat.zero_add] at hb
  rw [← hb]
  exact State.die_rebudget _ d

theorem State.part_bootModule (s : State) (b : BootOutcome) (p : Nat) : ((s.bootModule b).part p).standing = Part.init.standing := by
  have h : (s.bootModule b).parts.map Part.standing = State.reset.parts.map Part.standing :=
    State.standings_of_tenure (State.tenure_rebudget _)
  rw [State.part, ← listGet_map Part.standing, h, listGet_map]
  exact congrArg Part.standing (reset_part p)

/-- A missing port is retired, whatever bring-up found (R349, R360). -/
theorem bootDie_missing_port (b : BootOutcome) {d p : Nat} (hm : portMissing d p = true) (hp : p < 4) :
    field (listGet 0 (bootDie b d).links p) 0 2 = 3 := by
  have hl : listGet 0 (bootDie b d).links p = bootPort b d (0 + p) := listGet_map_upFrom_of_lt 0 (bootPort b d) 4 0 p hp
  rw [hl, Nat.zero_add, bootPort, if_pos hm]
  rfl

theorem core_mem_bootDie {b : BootOutcome} {d k : Nat} (h : (d, k) ∈ b.failedCores) : .core k ∈ (bootDie b d).retired :=
  List.mem_append_left _ (List.mem_append_left _ (List.mem_map.mpr ⟨(d, k), List.mem_filter.mpr ⟨h, beq_self_eq_true d⟩, rfl⟩))

theorem bank_mem_bootDie {b : BootOutcome} {d c k : Nat} (h : (d, c, k) ∈ b.failedBanks) : .bank c k ∈ (bootDie b d).retired :=
  List.mem_append_left _ (List.mem_append_right _ (List.mem_map.mpr ⟨(d, c, k), List.mem_filter.mpr ⟨h, beq_self_eq_true d⟩, rfl⟩))

theorem stack_mem_bootDie {b : BootOutcome} {d k : Nat} (h : (d, k) ∈ b.failedMemory) : .stack k ∈ (bootDie b d).retired :=
  List.mem_append_right _ (List.mem_map.mpr ⟨(d, k), List.mem_filter.mpr ⟨h, beq_self_eq_true d⟩, rfl⟩)

/-! ## Cap frames (R377, R378) -/

theorem frameValid_iff (f : BitVec 512) : frameValid f = true ↔
    field f 0 32 = 0x4C4C4148 ∧ field f 32 16 = 1 ∧ field f 48 8 ≤ 15 ∧ field f 56 8 = 0 ∧ field f 176 208 = 0 := by
  unfold frameValid
  simp only [Bool.and_eq_true, beq_iff_eq, decide_eq_true_eq, and_assoc]

theorem State.frameAccepted_iff (s : State) (f : BitVec 512) : s.frameAccepted f = true ↔
    frameValid f = true ∧ (BitVec.ofNat 32 (field f 128 32)).getLsbD s.hallgrp.toNat = true ∧ s.hallseq.toNat < field f 64 64 ∧
      BitVec.ofNat 128 (field f 384 128) = mac16 s.hallkey (leBytes 48 f.toNat) := by
  unfold State.frameAccepted
  simp only [Bool.and_eq_true, beq_iff_eq, decide_eq_true_eq, and_assoc]

theorem field_lt {w : Nat} (x : BitVec w) (lo len : Nat) : field x lo len < 2 ^ len := Nat.mod_lt _ (Nat.two_pow_pos len)

/-! ## Protection (R380) -/

theorem lowered_le (draw mhz : Nat) : lowered draw mhz ≤ mhz := Nat.le_of_lt_succ (Nat.mod_lt _ (Nat.succ_pos mhz))

theorem State.die_modDie (s : State) {d : Nat} (f : Die → Die) (hd : d < s.dies.length) : (s.modDie d f).die d = f (s.die d) := by
  unfold State.modDie State.die
  rw [listGet_listModify, if_pos ⟨rfl, hd⟩]

theorem State.die_modDie_other (s : State) {d e : Nat} (f : Die → Die) (h : e ≠ d) : (s.modDie d f).die e = s.die e := by
  unfold State.modDie State.die
  rw [listGet_listModify, if_neg fun c => h c.1]

end Sys2Proof.Machine

namespace Sys2Proof.Claims
open Machine

theorem moduleResetRelease_boots (s : State) (b : BootOutcome) : ∃ t, exec (.moduleResetRelease b) s = .next t ∧ t.powered = true ∧
    t.ctxs = [] ∧ t.recs = [] ∧ t.wgs = [] ∧ t.hallkey = 0 ∧ t.hallgrp = 0 ∧ t.time = 0 ∧ (∀ p, (t.part p).configured = false) ∧
    (∀ d, d < 24 → (t.die d).boot = (if b.verified.getLsbD d = true then 6 else 2) ∧
      (t.die d).dstate = (if b.verified.getLsbD d = true then 0 else 2) ∧ (t.die d).part = none ∧
      (∀ k, (d, k) ∈ b.failedCores → .core k ∈ (t.die d).retired) ∧ (∀ c k, (d, c, k) ∈ b.failedBanks → .bank c k ∈ (t.die d).retired) ∧
      (∀ k, (d, k) ∈ b.failedMemory → ∀ f, frameStack f = k → (t.die d).absentFrame f = true) ∧
      ∀ p, portMissing d p = true → p < 4 → t.linkState d p = 3) ∧
    (∀ k, spGet t.mem k = if k < 2 ^ 64 then spGet s.mem k else 0) := by
  refine ⟨s.bootModule b, rfl, rfl, rfl, rfl, rfl, rfl, rfl, rfl, fun p => congrArg Prod.fst (s.part_bootModule b p), fun d hd => ?_,
    spGet_hostBytes s.mem⟩
  obtain ⟨w, n, m, h⟩ := s.die_bootModule b hd
  unfold State.linkState Die.absentFrame
  rw [h]
  refine ⟨rfl, rfl, rfl, fun k => core_mem_bootDie, fun c k => bank_mem_bootDie, fun k hk f hf => ?_, fun p => bootDie_missing_port b⟩
  rw [hf]
  exact List.contains_iff_mem.mpr (stack_mem_bootDie hk)

theorem modulePowerOff_ends {s : State} (hp : s.powered = true) : ∃ t, exec .modulePowerOff s = .next t ∧ t.powered = false ∧
    t.ctxs = [] ∧ t.wgs = [] ∧ ∀ k, spGet t.mem k = if k < 2 ^ 64 then spGet s.mem k else 0 :=
  ⟨_, (State.outside_eq hp _ : execModulePowerOff s = _), rfl, rfl, rfl, spGet_hostBytes s.mem⟩

/-- A cap frame counts when the management die has booted and the frame is accepted; else nothing changes. -/
theorem exec_capFrame {s : State} (hp : s.powered = true) (f : BitVec 512) :
    exec (.capFrame f) s = .next (if (s.die s.mgmtDie).boot == 6 && s.frameAccepted f then s.takeFrameCap f else s) :=
  (State.outside_eq hp _ : execCapFrame f s = _)

theorem capFrame_counts {s : State} (hp : s.powered = true) {f : BitVec 512} (hb : (s.die s.mgmtDie).boot = 6)
    (hf : s.frameAccepted f = true) : ∃ t, exec (.capFrame f) s = .next t ∧
      t.hallCap = some (BitVec.ofNat 16 (field f 160 16), BitVec.ofNat 4 (field f 48 8)) ∧ t.hallseq.toNat = field f 64 64 := by
  refine ⟨s.takeFrameCap f, ?_, rfl, ?_⟩
  · rw [exec_capFrame hp, hb, hf]
    rfl
  · exact (BitVec.toNat_ofNat _ _).trans (Nat.mod_eq_of_lt (field_lt f 64 64))

theorem capFrame_dropped {s : State} (hp : s.powered = true) {f : BitVec 512}
    (hf : (s.die s.mgmtDie).boot ≠ 6 ∨ field f 0 32 ≠ 0x4C4C4148 ∨ field f 64 64 ≤ s.hallseq.toNat) : exec (.capFrame f) s = .next s := by
  rw [exec_capFrame hp, if_neg]
  rw [Bool.and_eq_true, beq_iff_eq, s.frameAccepted_iff, frameValid_iff]
  rintro ⟨hb, ⟨hkind, -⟩, -, hnew, -⟩
  obtain h | h | h := hf
  · exact h hb
  · exact h hkind
  · omega

theorem thermalProtection_lowers {s : State} (hp : s.powered = true) (die : Nat) (reached : Bool) (h24 : die < 24)
    (hd : die < s.dies.length) : ∃ t, exec (.thermalProtection die reached) s = .next t ∧ (t.die die).therm = reached ∧
      (reached = true → (t.die die).mhz ≤ (s.die die).mhz) ∧ ∀ e, e ≠ die → t.die e = s.die e := by
  have hdie (g : Die → Die) : (((s.seeCauses.modDie die g).drawn.seeCauses).die die) = g (s.die die) := State.die_modDie s.seeCauses g hd
  refine ⟨_, (State.internal_eq hp (decide_eq_true h24) _ : execThermalProtection die reached s = _), ?_, fun hr => ?_, fun e he => State.die_modDie_other s.seeCauses _ he⟩
  · dsimp only
    rw [hdie]
  · dsimp only
    rw [hdie, if_pos hr]
    exact lowered_le _ _

theorem electricalProtection_lowers {s : State} (hp : s.powered = true) (reached : Bool) :
    ∃ t, exec (.electricalProtection reached) s = .next t ∧ t.elec = reached ∧
      (reached = true → ∀ d, d < s.dies.length → (t.die d).mhz ≤ (s.die d).mhz) := by
  refine ⟨_, (State.internal_eq hp rfl _ : execElectricalProtection reached s = _), rfl, fun hr d hd => ?_⟩
  have hdie (g : Nat → Die → Die) : listGet (Die.init d) (mapIdxFrom g 0 s.dies) d = g (0 + d) (s.die d) := listGet_mapIdxFrom _ g _ _ _ hd
  show (listGet (Die.init d) (mapIdxFrom _ 0 s.dies) d).mhz ≤ _
  rw [hdie, if_pos hr]
  exact lowered_le _ _

end Sys2Proof.Claims
end

section
/-!
The configuration service (R384, R385): which requests it answers, and what an accepted request comes to.
-/
namespace Sys2Proof.Claims
open Machine

theorem managed_iff (s : State) (h : CfgHeader) : s.managed h.session = true ↔ inManagement s h := by
  unfold State.managed inManagement
  simp only [List.any_eq_true, Bool.and_eq_true, beq_iff_eq, and_assoc]

theorem cfgAccepted_iff (s : State) (code : Nat) (h : CfgHeader) (ops : List (BitVec 8)) :
    s.cfgAccepted code h ops = true ↔ accepts s code h ops := by
  unfold State.cfgAccepted accepts
  simp only [Bool.and_eq_true, Bool.or_eq_true, beq_iff_eq, bne_iff_ne, decide_eq_true_eq, and_assoc]
  rfl

/-- The state in which an accepted request takes effect: its number has been noted. -/
def noted (s : State) (h : CfgHeader) : State := { s with cfgseq := h.seq }

/-- A request outside an established session of the management port is not answered (R384, log 61). -/
theorem service_unheard {s : State} (hp : s.powered = true) {h : CfgHeader} (hm : ¬ inManagement s h) (code : Nat) (ops : List (BitVec 8))
    (f : CfgEffect) : s.service code h ops f = .next s := by
  have hn : s.managed h.session = false := by simpa using mt (managed_iff s h).mp hm
  unfold State.service
  rw [State.outside_eq hp, hn]
  simp

/-- One inside it is answered: with status 1 where it is not accepted, else as its effect says. -/
theorem service_heard {s : State} (hp : s.powered = true) {h : CfgHeader} (hb : (s.die s.mgmtDie).boot = 6) (hm : inManagement s h)
    (code : Nat) (ops : List (BitVec 8)) (f : CfgEffect) : s.service code h ops f = .next
      (if s.cfgAccepted code h ops = true then (f (noted s h)).1.cfgAnswer h (f (noted s h)).2.1 (f (noted s h)).2.2
       else s.cfgAnswer h 1 []) := by
  unfold State.service
  rw [State.outside_eq hp, hb, (managed_iff s h).mpr hm]
  cases s.cfgAccepted code h ops <;> rfl

/-- A state that has answered what `s` had answered says, once it answers, just that answer. -/
theorem cfgAnswer_says {s t : State} (ht : t.answers = s.answers) (h : CfgHeader) (st : Nat) (body : List Nat) :
    serviceSays s (t.cfgAnswer h st body) h st body := by
  unfold serviceSays State.cfgAnswer
  dsimp only
  rw [ht]
  exact ⟨_, rfl⟩

theorem service_refuses {s : State} (hp : s.powered = true) {h : CfgHeader} (hb : (s.die s.mgmtDie).boot = 6) (hm : inManagement s h)
    {code : Nat} {ops : List (BitVec 8)} (hn : ¬ accepts s code h ops) (f : CfgEffect) :
    ∃ t, s.service code h ops f = .next t ∧ t = { s with answers := t.answers } ∧ serviceSays s t h 1 [] := by
  refine ⟨s.cfgAnswer h 1 [], ?_, rfl, cfgAnswer_says rfl h 1 []⟩
  rw [service_heard hp hb hm, if_neg (mt (cfgAccepted_iff s code h ops).mp hn)]

theorem service_acts {s : State} (hp : s.powered = true) {h : CfgHeader} (hb : (s.die s.mgmtDie).boot = 6) (hm : inManagement s h)
    {code : Nat} {ops : List (BitVec 8)} (ha : accepts s code h ops) {f : CfgEffect} {t : State} {st : Nat} {body : List Nat}
    (hf : f (noted s h) = (t, st, body)) : s.service code h ops f = .next (t.cfgAnswer h st body) := by
  rw [service_heard hp hb hm, if_pos ((cfgAccepted_iff s code h ops).mpr ha), hf]

/-- The requests of the service, each with its code and its operands (R385). -/
theorem exec_request {i : Instr} {h : CfgHeader} {code : Nat} {ops : List (BitVec 8)}
    (hi : (∃ key, i = .setHallKey h key ∧ code = 1 ∧ ops = leBytes 32 key.toNat) ∨ (∃ r, i = .configure h r ∧ code = 2 ∧ ops = configureBytes r) ∨
      (∃ p, i = .dissolve h p ∧ code = 3 ∧ ops = leBytes 1 p) ∨ (i = .query h ∧ code = 4 ∧ ops = []) ∨
      (∃ (m : BitVec 128) (x : BitVec 5), i = .setMgmt h m x ∧ code = 5 ∧ ops = leBytes 16 m.toNat ++ leBytes 1 x.toNat) ∨
      (∃ n : BitVec 8, i = .configUnsupported h n ∧ code = n.toNat ∧ ops = [])) (s : State) :
    ∃ f, exec i s = s.service code h ops f := by
  obtain ⟨key, rfl, rfl, rfl⟩ | ⟨r, rfl, rfl, rfl⟩ | ⟨p, rfl, rfl, rfl⟩ | ⟨rfl, rfl, rfl⟩ | ⟨m, x, rfl, rfl, rfl⟩ | ⟨n, rfl, rfl, rfl⟩ := hi
  · exact ⟨_, (rfl : execSetHallKey h key s = _)⟩
  · exact ⟨_, (rfl : execConfigure h r s = _)⟩
  · exact ⟨_, (rfl : execDissolve h p s = _)⟩
  · exact ⟨_, (rfl : execQuery h s = _)⟩
  · exact ⟨_, (rfl : execSetMgmt h m x s = _)⟩
  · exact ⟨_, (rfl : execConfigUnsupported h n s = _)⟩

end Sys2Proof.Claims
end

section
/-!
CONFIGURE (R386): what makes its steps succeed, and what they leave of the partition and its dies.
-/
namespace Sys2Proof.Machine

/-- The effect of CONFIGURE answers OK only where its checks and its steps succeed. -/
theorem State.configure_ok {s : State} {r : ConfigureReq} (h : (s.configure r).2.1 = 0) : s.configureOk r = true ∧
    ∃ slot a, s.configureSteps r slot = some a ∧ s.configure r = (a.seeCauses.rebudget.seeCauses, 0, []) := by
  unfold State.configure at h ⊢
  dsimp only at h ⊢
  cases hok : s.configureOk r with
  | false =>
    rw [hok] at h
    cases h
  | true =>
    rw [hok] at h
    refine ⟨rfl, (freeKeySlot ((maskDies r.mask).map s.die)).getD 3, ?_⟩
    simp only [Bool.not_true, Bool.false_eq_true, if_false] at h ⊢
    split at h
    · cases h
    · cases h
    · rename_i a _ ha _
      exact ⟨a, ha, rfl⟩

theorem State.configure_badArg {s : State} {r : ConfigureReq} (h : s.configureOk r = false) : s.configure r = (s, cfgBadArg, []) := by
  unfold State.configure
  simp [h]

/-- Budgets that follow a change, and the causes seen before and after, leave the tenure alone. -/
theorem State.tenure_settle (s : State) : s.seeCauses.rebudget.seeCauses.tenure = s.tenure := s.seeCauses.tenure_rebudget

/-! ## Joining the dies -/

/-- After changes that each put a die into a partition, the dies changed are in it. -/
theorem State.home_foldl_modDie (p : Nat) {f : Nat → Die → Die} (hf : ∀ e x, (f e x).part = some p) (d : Nat) (ds : List Nat) :
    ∀ s : State, d < s.dies.length → d ∈ ds ∨ (s.die d).part = some p →
      ((ds.foldl (fun a e => a.modDie e (f e)) s).die d).part = some p := by
  induction ds with
  | nil => intro s _ h; exact h.resolve_left List.not_mem_nil
  | cons e t ih =>
    intro s hd h
    refine ih (s.modDie e (f e)) (by simpa [State.modDie] using hd) ?_
    by_cases he : d = e
    · subst he
      rw [s.die_modDie (f d) hd]
      exact .inr (hf d _)
    · rw [s.die_modDie_other (f e) he]
      exact h.imp_left fun hm => (List.mem_cons.mp hm).resolve_left he

theorem State.parts_foldl_modDie {f : Nat → Die → Die} (ds : List Nat) (s : State) :
    (ds.foldl (fun a e => a.modDie e (f e)) s).parts = s.parts := foldl_keeps State.parts (fun _ _ => by rfl) ds s

theorem State.answers_foldl_modDie {f : Nat → Die → Die} (ds : List Nat) (s : State) :
    (ds.foldl (fun a e => a.modDie e (f e)) s).answers = s.answers := foldl_keeps State.answers (fun _ _ => by rfl) ds s

theorem State.tenure_drawKey (s : State) (p slot : Nat) : (s.drawKey p slot).tenure = s.tenure := by
  refine (State.tenure_foldl (fun a d => a.tenure_modDie d fun _ => by rfl) _ _).trans ?_
  exact s.tenure_modPart p fun _ => by rfl

theorem State.answers_joinPart (s : State) (r : ConfigureReq) (slot : Nat) : (s.joinPart r slot).answers = s.answers :=
  (State.answers_of_tenure (State.tenure_drawKey _ _ _)).trans (State.answers_foldl_modDie _ _)

/-- A die of the mask belongs to the partition. -/
theorem State.home_joinPart (s : State) (r : ConfigureReq) (slot : Nat) {d : Nat} (hd : d < s.dies.length) (hm : d ∈ maskDies r.mask) :
    ((s.joinPart r slot).die d).part = some r.part :=
  (State.home_of_tenure (State.tenure_drawKey _ _ _) d).trans
    (State.home_foldl_modDie r.part (fun _ _ => by rfl) d _ _ hd (.inl hm))

/-- The partition takes the world and the rank of the request. -/
theorem State.standing_joinPart (s : State) (r : ConfigureReq) (slot : Nat) (hp : r.part < s.parts.length) :
    ((s.joinPart r slot).part r.part).standing = (true, r.world, .unlocked, r.rank) := by
  refine (State.standing_of_tenure (State.tenure_drawKey _ _ _) r.part).trans ?_
  unfold State.part
  rw [State.parts_foldl_modDie, State.modPart, listGet_listModify, if_pos ⟨rfl, hp⟩]
  rfl

/-! ## Tables and contexts -/

theorem State.tenure_nextTable {s a : State} {free rest : List Nat} {d t i n : Nat} (h : s.nextTable free d t i = some (a, rest, n)) :
    a.tenure = s.tenure := by
  unfold State.nextTable at h
  dsimp only at h
  split at h
  · cases h; rfl
  · split at h <;> cases h
    rfl

theorem tenure_enterMapping {d root : Nat} {o : Option (State × List Nat)} {m : CfgMapping} {b : State × List Nat}
    (h : enterMapping d root o m = some b) : ∃ a, o = some a ∧ b.1.tenure = a.1.tenure := by
  unfold enterMapping at h
  refine bind_keeps (fun x : State × List Nat => x.1.tenure) (fun a b hb => ?_) h
  obtain ⟨s, free⟩ := a
  obtain ⟨⟨s1, free1, t2⟩, h1, hb⟩ := Option.bind_eq_some_iff.mp hb
  obtain ⟨⟨s2, free2, t3⟩, h2, rfl⟩ := Option.map_eq_some_iff.mp hb
  exact (State.tenure_nextTable h2).trans (State.tenure_nextTable h1)

theorem State.tenure_configureTables {s a : State} {d : Nat} {r : CfgDie} (h : s.configureTables d r = some a) : a.tenure = s.tenure := by
  unfold State.configureTables at h
  dsimp only at h
  split at h
  · cases h
  · split at h
    · cases h
    · rename_i s2 rest hm
      obtain ⟨c, hc, h2⟩ := foldl_option_keeps (fun x : State × List Nat => x.1.tenure) (fun _ _ _ => tenure_enterMapping) _ _ _ hm
      cases hc
      split at h <;> cases h
      refine (State.tenure_publish _ _ _ _).trans ((State.tenure_modDie _ _ fun _ => by rfl).trans (h2.trans ?_))
      exact State.tenure_foldl (fun x f => (x.zeroFrame d f).tenure_modDie d fun _ => by rfl) _ s

/-- The state after a write that is executed with status OK: a range image goes on from there. -/
def CtlWrite.entered (w : CtlWrite) : Option State :=
  match w with
  | .done s st => if st == stOk then some s else none
  | _ => none

theorem CtlWrite.keepsTenure.entered {w : CtlWrite} {s t : State} (hw : w.keepsTenure s) (h : w.entered = some t) : t.tenure = s.tenure := by
  unfold CtlWrite.entered at h
  split at h
  · split at h <;> cases h
    exact hw _ _ rfl
  · cases h

/-- A range image is four writes, RATTR last (R326). -/
theorem enterRange_eq (uid : Nat) (o : Option State) (x : Nat × BitVec 256) :
    let reg (k : Nat) : BitVec 64 := BitVec.ofNat 64 (field x.2 (64 * k) 64)
    enterRange uid o x =
      (((o.bind fun s => (s.writeRange (s.ctx uid) x.1 0 (reg 0)).entered).bind
        fun s => (s.writeRange (s.ctx uid) x.1 1 (reg 1)).entered).bind
        fun s => (s.writeRange (s.ctx uid) x.1 2 (reg 2)).entered).bind
        fun s => (s.writeRattr (s.ctx uid) x.1 (reg 3)).entered := rfl

theorem tenure_enterRange {uid : Nat} {o : Option State} {x : Nat × BitVec 256} {b : State} (h : enterRange uid o x = some b) :
    ∃ a, o = some a ∧ b.tenure = a.tenure := by
  rw [enterRange_eq] at h
  obtain ⟨a3, h3, e3⟩ := bind_keeps State.tenure (fun s _ => (s.writeRattr_keepsTenure _ _ _).entered) h
  obtain ⟨a2, h2, e2⟩ := bind_keeps State.tenure (fun s _ => (s.writeRange_keepsTenure _ _ _ _).entered) h3
  obtain ⟨a1, h1, e1⟩ := bind_keeps State.tenure (fun s _ => (s.writeRange_keepsTenure _ _ _ _).entered) h2
  obtain ⟨a, ha, e⟩ := bind_keeps State.tenure (fun s _ => (s.writeRange_keepsTenure _ _ _ _).entered) h1
  exact ⟨a, ha, e3.trans (e2.trans (e1.trans e))⟩

theorem State.tenure_configureCtx {s a : State} {p : Nat} {c : CfgContext} (h : s.configureCtx p c = some a) : a.tenure = s.tenure := by
  unfold State.configureCtx at h
  dsimp only at h
  split at h
  · cases h
  · obtain ⟨b, hb, he⟩ := foldl_option_keeps State.tenure (fun _ _ _ => tenure_enterRange) _ _ _ h
    cases hb
    exact he

/-- After the dies have joined, nothing in the steps of CONFIGURE changes what the partition is. -/
theorem State.tenure_configureSteps {s a : State} {r : ConfigureReq} {slot : Nat} (h : s.configureSteps r slot = some a) :
    a.tenure = (s.joinPart r slot).tenure := by
  unfold State.configureSteps at h
  dsimp only at h
  obtain ⟨b, hb, he⟩ := foldl_option_keeps State.tenure
    (fun o x c hc => bind_keeps State.tenure (fun a b hb => by
      split at hb
      · cases hb; rfl
      · exact State.tenure_configureCtx hb) hc) _ _ _ h
  obtain ⟨c, hc, hbc⟩ := foldl_option_keeps State.tenure
    (fun o x c hc => bind_keeps State.tenure (fun a b => State.tenure_configureTables) hc) _ _ _ hb
  cases hc
  exact he.trans hbc

/-! ## The result -/

/-- Of the checks of CONFIGURE: the partition's number, and that the dies of the mask have booted. -/
theorem State.checks_of_configureOk {s : State} {r : ConfigureReq} (h : s.configureOk r = true) :
    r.part < 24 ∧ ∀ d ∈ maskDies r.mask, (s.die d).boot = 6 := by
  unfold State.configureOk at h
  simp only [Bool.and_eq_true, List.all_eq_true, beq_iff_eq, decide_eq_true_eq] at h
  obtain ⟨⟨⟨⟨⟨⟨⟨⟨⟨hpart, -⟩, -⟩, -⟩, hdies⟩, -⟩, -⟩, -⟩, -⟩, -⟩ := h
  refine ⟨hpart, fun d hd => ?_⟩
  obtain ⟨⟨-, hboot⟩, -⟩ := hdies d hd
  exact hboot

/-- A die that has booted is there: one that is not reads as a die before bring-up. -/
theorem State.lt_of_booted {s : State} {d : Nat} (h : (s.die d).boot = 6) : d < s.dies.length := by
  refine Nat.lt_of_not_le fun hd => ?_
  rw [State.die, listGet_of_length_le _ _ _ hd] at h
  cases h

theorem mem_maskDies {m : BitVec 24} {d : Nat} (hd : d < 24) (hm : m.getLsbD d = true) : d ∈ maskDies m := by
  exact List.mem_filter.mpr ⟨mem_upFrom 24 0 d (Nat.zero_le d) (by omega), hm⟩

/-- What CONFIGURE leaves: no answer yet, the partition as requested, and the dies of the mask in it. -/
theorem State.configured {s : State} {r : ConfigureReq} (h : (s.configure r).2.1 = 0)
    (hp : s.parts.length = 24) : ∃ t, s.configure r = (t, 0, []) ∧ t.answers = s.answers ∧
      (t.part r.part).standing = (true, r.world, .unlocked, r.rank) ∧
      ∀ d, d < 24 → r.mask.getLsbD d = true → (t.die d).part = some r.part := by
  obtain ⟨hok, slot, a, ha, he⟩ := State.configure_ok h
  obtain ⟨hpart, hboot⟩ := State.checks_of_configureOk hok
  have ht : (a.seeCauses.rebudget.seeCauses).tenure = (s.joinPart r slot).tenure :=
    (State.tenure_settle a).trans (State.tenure_configureSteps ha)
  refine ⟨_, he, (State.answers_of_tenure ht).trans (s.answers_joinPart r slot), ?_, fun d hd hm => ?_⟩
  · exact (State.standing_of_tenure ht r.part).trans (s.standing_joinPart r slot (by omega))
  · have hmem := mem_maskDies hd hm
    exact (State.home_of_tenure ht d).trans (s.home_joinPart r slot (State.lt_of_booted (hboot d hmem)) hmem)

end Sys2Proof.Machine
end

section
/-!
DISSOLVE (R387): nothing of the partition is left in its contexts, its dies or its messages.
-/
namespace Sys2Proof.Machine

theorem State.dissolve_badArg {s : State} {p : Nat} (h : 24 ≤ p ∨ (s.part p).configured = false) : s.dissolve p = (s, cfgBadArg, []) := by
  unfold State.dissolve
  rw [if_pos]
  obtain h | h := h
  · simp [h]
  · simp [h]

/-! The pages of every die of the partition go: contexts and tenure stay as they are. -/

theorem State.ctxs_dropTables (p : Nat) (s : State) :
    ((s.diesOf p).foldl (fun acc d => acc.dropPages d 0 (2 ^ 36) (acc.die d).published) s).ctxs = s.ctxs :=
  foldl_keeps State.ctxs (fun a d => (a.dropPages_keeps d 0 (2 ^ 36) _).2) _ s

theorem State.tenure_dropTables (p : Nat) (s : State) :
    ((s.diesOf p).foldl (fun acc d => acc.dropPages d 0 (2 ^ 36) (acc.die d).published) s).tenure = s.tenure :=
  State.tenure_foldl (fun a d => (a.dropPages_keeps d 0 (2 ^ 36) _).1) _ s

theorem State.ctxs_eraseKey (s : State) (p : Nat) : (s.eraseKey p).ctxs = s.ctxs :=
  foldl_keeps State.ctxs (fun _ _ => by rfl) _ s

/-- No context of the partition is placed any longer. -/
theorem State.part_ne_of_mem_unplaceAll (s : State) (p : Nat) : ∀ c ∈ (s.unplaceAll p).ctxs, c.part ≠ p := by
  intro c hc
  have h := (List.mem_filter.mp hc).2
  simpa using h

/-- Dies that have left a partition are not in it. -/
theorem leavePart_part_ne (p : Nat) (d : Die) : (if d.part == some p then d.leavePart else d).part ≠ some p := by
  split
  · exact nofun
  · rename_i h
    simpa using h

theorem State.part_modPart (s : State) (p : Nat) (f : Part → Part) :
    (s.modPart p f).part p = f (s.part p) ∨ (s.modPart p f).part p = Part.init := by
  unfold State.modPart State.part
  rw [listGet_listModify]
  split
  · exact .inl rfl
  · rename_i h
    exact .inr (listGet_of_length_le _ _ _ (by omega))

/-- Seeing causes changes what contexts have seen, not where they are placed. -/
theorem State.part_ne_seeCauses {s : State} {p : Nat} (h : ∀ c ∈ s.ctxs, c.part ≠ p) : ∀ c ∈ s.seeCauses.ctxs, c.part ≠ p := by
  intro c hc
  obtain ⟨x, hx, rfl⟩ := List.mem_map.mp hc
  exact h x hx

theorem State.home_ne {s : State} {p : Nat} (h : ∀ x ∈ s.dies, x.part ≠ some p) (d : Nat) : (s.die d).part ≠ some p := by
  rw [s.part_die]
  refine listGet_ne_of_notMem (Option.some_ne_none p).symm d fun hm => ?_
  obtain ⟨x, hx, he⟩ := List.mem_map.mp hm
  exact h x hx he

theorem State.dissolved {s : State} {p : Nat} (hp : p < 24) (hc : (s.part p).configured = true) :
    ∃ t, s.dissolve p = (t, 0, []) ∧ t.answers = s.answers ∧ (t.part p).configured = false ∧ (∀ c ∈ t.ctxs, c.part ≠ p) ∧
      (∀ m ∈ t.msgs, m.world ≠ (s.part p).world) ∧ ∀ d, (t.die d).part ≠ some p := by
  unfold State.dissolve
  rw [if_neg (by simp [hp, hc])]
  dsimp only
  generalize hb : State.eraseKey _ p = b
  have hanswers : b.answers = s.answers := by
    rw [← hb]
    refine (State.answers_of_tenure ((State.tenure_eraseKey _ _).trans (State.tenure_dropTables p _))).trans ?_
    exact (State.answers_of_tenure (State.tenure_unplaceAll _ p)).trans (s.answers_enterError p)
  have hctxs : ∀ c ∈ b.ctxs, c.part ≠ p := by
    rw [← hb, State.ctxs_eraseKey, State.ctxs_dropTables]
    exact State.part_ne_of_mem_unplaceAll _ p
  refine ⟨_, rfl, hanswers, ?_, State.part_ne_seeCauses (State.part_ne_seeCauses hctxs), fun m hm => ?_, fun d => ?_⟩
  · refine (congrArg Prod.fst (State.standing_of_tenure (State.tenure_settle _) p)).trans ?_
    obtain h | h := State.part_modPart _ p _
    · rw [h]
      rfl
    · rw [h]
      rfl
  · have h := (List.mem_filter.mp hm).2
    simpa using h
  · rw [State.home_of_tenure (State.tenure_settle _) d]
    refine State.home_ne (fun x hx => ?_) d
    obtain ⟨y, -, rfl⟩ := List.mem_map.mp hx
    exact leavePart_part_ne p y

end Sys2Proof.Machine
end

section
/-!
The requests of the configuration service, one by one (R385 to R387), and the module as a whole.
-/
namespace Sys2Proof.Claims
open Machine

section
variable {s : State} {h : CfgHeader} (hp : s.powered = true)
include hp

/-- Outside an established session of the management port no request changes anything. -/
theorem requests_unheard (hm : ¬ inManagement s h) : (∀ key, exec (.setHallKey h key) s = .next s) ∧
    (∀ r, exec (.configure h r) s = .next s) ∧ (∀ p, exec (.dissolve h p) s = .next s) ∧ exec (.query h) s = .next s ∧
    (∀ m x, exec (.setMgmt h m x) s = .next s) ∧ ∀ n, exec (.configUnsupported h n) s = .next s := by
  refine ⟨fun key => ?_, fun r => ?_, fun p => ?_, ?_, fun m x => ?_, fun n => ?_⟩
  · exact (service_unheard hp hm 1 _ _ : execSetHallKey h key s = _)
  · exact (service_unheard hp hm 2 _ _ : execConfigure h r s = _)
  · exact (service_unheard hp hm 3 _ _ : execDissolve h p s = _)
  · exact (service_unheard hp hm 4 _ _ : execQuery h s = _)
  · exact (service_unheard hp hm 5 _ _ : execSetMgmt h m x s = _)
  · exact (service_unheard hp hm n.toNat _ _ : execConfigUnsupported h n s = _)

variable (hb : (s.die s.mgmtDie).boot = 6) (hm : inManagement s h)
include hb hm

theorem setHallKey_acts {key : BitVec 256} (ha : accepts s 1 h (leBytes 32 key.toNat)) : ∃ t, exec (.setHallKey h key) s = .next t ∧
    t.hallkey = key ∧ t.hallseq = 0 ∧ t.cfgseq = 0 ∧ serviceSays s t h 0 [] :=
  ⟨_, (service_acts hp hb hm ha rfl : execSetHallKey h key s = _), rfl, rfl, rfl, cfgAnswer_says rfl h 0 []⟩

theorem setMgmt_acts {m : BitVec 128} {x : BitVec 5} (ha : accepts s 5 h (leBytes 16 m.toNat ++ leBytes 1 x.toNat)) :
    ∃ t, exec (.setMgmt h m x) s = .next t ∧ t.mcast = m ∧ t.hallgrp = x ∧ t.cfgseq = h.seq ∧ serviceSays s t h 0 [] :=
  ⟨_, (service_acts hp hb hm ha rfl : execSetMgmt h m x s = _), rfl, rfl, rfl, cfgAnswer_says rfl h 0 []⟩

theorem query_acts (ha : accepts s 4 h []) : ∃ t, exec (.query h) s = .next t ∧
    t = { s with cfgseq := h.seq, answers := t.answers } ∧ serviceSays s t h 0 s.queryBody :=
  ⟨_, (service_acts hp hb hm ha rfl : execQuery h s = _), rfl, cfgAnswer_says rfl h 0 s.queryBody⟩

theorem configUnsupported_acts {code : BitVec 8} (ha : accepts s code.toNat h []) : ∃ t, exec (.configUnsupported h code) s = .next t ∧
    t = { s with answers := t.answers } ∧ serviceSays s t h 0x0F [] :=
  ⟨_, (service_acts hp hb hm ha rfl : execConfigUnsupported h code s = _), rfl, cfgAnswer_says rfl h 0x0F []⟩

theorem configure_refuses {r : ConfigureReq} (ha : accepts s 2 h (configureBytes r)) (hr : (noted s h).configureOk r = false) :
    ∃ t, exec (.configure h r) s = .next t ∧ t = { noted s h with answers := t.answers } ∧ serviceSays s t h 6 [] :=
  ⟨_, (service_acts hp hb hm ha (State.configure_badArg hr) : execConfigure h r s = _), rfl, cfgAnswer_says rfl h 6 []⟩

theorem configure_acts {r : ConfigureReq} (ha : accepts s 2 h (configureBytes r)) (hr : ((noted s h).configure r).2.1 = 0)
    (hl : s.parts.length = 24) : ∃ t, exec (.configure h r) s = .next t ∧ serviceSays s t h 0 [] ∧ (t.part r.part).configured = true ∧
      (t.part r.part).world = r.world ∧ (t.part r.part).ifstate = .unlocked ∧ (t.part r.part).prank = r.rank ∧
      ∀ d, d < 24 → r.mask.getLsbD d = true → (t.die d).part = some r.part := by
  obtain ⟨t, ht, hans, hstand, hhome⟩ := State.configured hr hl
  simp only [Part.standing, Prod.mk.injEq] at hstand
  obtain ⟨hconf, hworld, hif, hrank⟩ := hstand
  exact ⟨_, (service_acts hp hb hm ha ht : execConfigure h r s = _), cfgAnswer_says hans h 0 [], hconf, hworld, hif, hrank, hhome⟩

theorem dissolve_refuses {p : Nat} (ha : accepts s 3 h (leBytes 1 p)) (hr : 24 ≤ p ∨ (s.part p).configured = false) :
    ∃ t, exec (.dissolve h p) s = .next t ∧ t = { s with cfgseq := h.seq, answers := t.answers } ∧ serviceSays s t h 6 [] :=
  ⟨_, (service_acts hp hb hm ha (State.dissolve_badArg (s := noted s h) hr) : execDissolve h p s = _), rfl, cfgAnswer_says rfl h 6 []⟩

theorem dissolve_acts {p : Nat} (ha : accepts s 3 h (leBytes 1 p)) (hlt : p < 24) (hc : (s.part p).configured = true) :
    ∃ t, exec (.dissolve h p) s = .next t ∧ serviceSays s t h 0 [] ∧ (t.part p).configured = false ∧ (∀ c ∈ t.ctxs, c.part ≠ p) ∧
      (∀ m ∈ t.msgs, m.world ≠ (s.part p).world) ∧ ∀ d, (t.die d).part ≠ some p := by
  obtain ⟨t, ht, hans, hconf, hctxs, hmsgs, hhome⟩ := State.dissolved (s := noted s h) hlt hc
  exact ⟨_, (service_acts hp hb hm ha ht : execDissolve h p s = _), cfgAnswer_says hans h 0 [], hconf, hctxs, hmsgs, hhome⟩

end

/-- Settles O54: power and bring-up, cap frames, protection, and each request of the configuration service; CONFIGURE and DISSOLVE
rest on what their steps keep (`State.tenure`). -/
theorem theModuleIsManaged : Obligations.TheModuleIsManaged := by
  unfold Obligations.TheModuleIsManaged
  refine ⟨fun s i => exec_of_poweredStep, moduleResetRelease_boots, fun s hp => ⟨modulePowerOff_ends hp, fun f => ⟨?_, capFrame_dropped hp⟩,
    thermalProtection_lowers hp, electricalProtection_lowers hp, fun h => requests_unheard hp, fun h hb hm => ?_⟩⟩
  · rintro ⟨hb, hkind, hver, hrank, hzero, hres, hgroup, hnew, hmac⟩
    exact capFrame_counts hp hb ((s.frameAccepted_iff f).mpr
      ⟨(frameValid_iff f).mpr ⟨hkind, hver, hrank, hzero, hres⟩, hgroup, hnew, hmac⟩)
  · refine ⟨fun i code ops hi hn => ?_, fun key => setHallKey_acts hp hb hm, fun m x => setMgmt_acts hp hb hm, query_acts hp hb hm,
      fun code => configUnsupported_acts hp hb hm, fun r ha => ⟨configure_refuses hp hb hm ha, configure_acts hp hb hm ha⟩,
      fun p ha => ⟨dissolve_refuses hp hb hm ha, dissolve_acts hp hb hm ha⟩⟩
    obtain ⟨f, hf⟩ := exec_request hi s
    rw [hf]
    exact service_refuses hp hb hm hn f

end Sys2Proof.Claims
end

section
/-!
SUPPORT. The joins of lattice cells (R74, R75): FP32 patterns and ARGMAX cells by the arithmetic of their order keys, the operand of
the larger key, and the laws of the join of every cell type.
-/
namespace Sys2Proof.Machine

/-! ## Order keys (R75) -/

/-- The key turns the patterns with the sign bit around and sets them below those without it. -/
theorem fpKey_eq (x : BitVec 32) : fpKey x = if 2 ^ 31 ≤ x.toNat then 2 ^ 32 - 1 - x.toNat else x.toNat + 2 ^ 31 := by
  have hsign : x.getLsbD 31 = decide (2 ^ 31 ≤ x.toNat) := BitVec.msb_eq_getLsbD_last x ▸ BitVec.msb_eq_decide x
  unfold fpKey
  rw [hsign]
  by_cases h : 2 ^ 31 ≤ x.toNat
  · rw [if_pos (by simpa using h), if_pos h, BitVec.toNat_not]
  · have hor : 2 ^ 31 + x.toNat = 2 ^ 31 ||| x.toNat := Nat.two_pow_add_eq_or_of_lt (Nat.lt_of_not_le h) 1
    rw [if_neg (by simpa using h), if_neg h, BitVec.toNat_or, Nat.or_comm, Nat.add_comm]
    exact hor.symm

theorem keyOf_eq {x : Nat} (hx : x < 2 ^ 32) : keyOf x = if 2 ^ 31 ≤ x then 2 ^ 32 - 1 - x else x + 2 ^ 31 := by
  unfold keyOf
  rw [fpKey_eq, BitVec.toNat_ofNat, Nat.mod_eq_of_lt hx]

/-- No two patterns have one key: −0 and +0 are two elements. -/
theorem eq_of_keyOf_eq {x y : Nat} (hx : x < 2 ^ 32) (hy : y < 2 ^ 32) (h : keyOf x = keyOf y) : x = y := by
  rw [keyOf_eq hx, keyOf_eq hy] at h
  split at h <;> split at h <;> omega

theorem eq_of_argKey_eq {x y : Nat} (hx : x < 2 ^ 64) (hy : y < 2 ^ 64) (h : argKey x = argKey y) : x = y := by
  unfold argKey at h
  have hkey : keyOf (x / 2 ^ 32) = keyOf (y / 2 ^ 32) := by omega
  have hscore := eq_of_keyOf_eq (by omega) (by omega) hkey
  omega

/-- The patterns beyond −∞ are NaNs. -/
theorem isNan32_of_negInf_lt {x : BitVec 32} (h : 0xFF800000 < x.toNat) : isNan32 x = true := by
  have hlt := x.isLt
  have hex : x.toNat / 2 ^ 23 % 2 ^ 8 = 255 := by omega
  have hfr : x.toNat % 2 ^ 23 ≠ 0 := by omega
  have hval : val32 x = .nan := by
    simp only [val32, decodeFp, Fmt.mbits, Fmt.ebits, hex, beq_eq_false_iff_ne.mpr hfr]
    rfl
  rw [isNan32, hval]
  rfl

/-- −∞ is lowest among the patterns that are no NaN. -/
theorem keyOf_negInf_le {x : Nat} (hx : x < 2 ^ 32) (hn : isNan32 (BitVec.ofNat 32 x) = false) : keyOf 0xFF800000 ≤ keyOf x := by
  have hle : x ≤ 0xFF800000 := by
    refine Nat.le_of_not_lt fun h => ?_
    refine Bool.false_ne_true (hn.symm.trans (isNan32_of_negInf_lt ?_))
    rwa [BitVec.toNat_ofNat, Nat.mod_eq_of_lt hx]
  have hbottom : keyOf 0xFF800000 = 0x7FFFFF := keyOf_eq (by decide)
  rw [hbottom, keyOf_eq hx]
  split <;> omega

/-! ## Elements (R75) -/

theorem isElement_maxF32 (x : Nat) : isElement 5 x = !isNan32 (BitVec.ofNat 32 x) := rfl
theorem isElement_argmax (x : Nat) : isElement 7 x = !isNan32 (BitVec.ofNat 32 (x / 2 ^ 32)) := rfl

theorem keyOf_bottom_le {x : Nat} (hx : x < 2 ^ 32) (he : isElement 5 x = true) : keyOf (unitBottom 5) ≤ keyOf x :=
  keyOf_negInf_le hx (by simpa [isElement_maxF32] using he)

theorem argKey_bottom_le {x : Nat} (hx : x < 2 ^ 64) (he : isElement 7 x = true) : argKey (unitBottom 7) ≤ argKey x := by
  have hscore : keyOf 0xFF800000 ≤ keyOf (x / 2 ^ 32) := keyOf_negInf_le (by omega) (by simpa [isElement_argmax] using he)
  calc
    argKey (unitBottom 7) = keyOf 0xFF800000 * 2 ^ 32 := by simp [argKey, unitBottom]
    _ ≤ keyOf (x / 2 ^ 32) * 2 ^ 32 := Nat.mul_le_mul_right _ hscore
    _ ≤ argKey x := Nat.le_add_right _ _

/-! ## The operand of the larger key -/

/-- The operand of the larger key, the left one where the keys are equal: the join of MAXF32 and of ARGMAX. -/
def joinByKey (key : Nat → Nat) (a b : Nat) : Nat := if key a < key b then b else a

theorem joinUnit_maxF32 : joinUnit 5 = joinByKey keyOf := rfl

/-- The branch of the table is taken by cases: left to evaluation, the keys on both sides would be computed out. -/
theorem joinUnit_argmax : joinUnit 7 = joinByKey argKey := by
  funext a b
  unfold joinUnit
  split
  case h_5 => rfl
  all_goals contradiction

section
variable {key : Nat → Nat} {a b : Nat}

theorem joinByKey_of_lt (h : key a < key b) : joinByKey key a b = b := if_pos h
theorem joinByKey_of_le (h : key b ≤ key a) : joinByKey key a b = a := if_neg (Nat.not_lt.mpr h)

theorem joinByKey_comm (hinj : key a = key b → a = b) : joinByKey key a b = joinByKey key b a := by
  obtain h | h | h := Nat.lt_trichotomy (key a) (key b)
  · rw [joinByKey_of_lt h, joinByKey_of_le (Nat.le_of_lt h)]
  · rw [hinj h]
  · rw [joinByKey_of_le (Nat.le_of_lt h), joinByKey_of_lt h]

theorem joinByKey_eq_right (hinj : key a = key b → a = b) (h : key a ≤ key b) : joinByKey key a b = b :=
  (joinByKey_comm hinj).trans (joinByKey_of_le h)

/-- What holds of both operands holds of the one taken. -/
theorem joinByKey_of_both {P : Nat → Prop} (ha : P a) (hb : P b) : P (joinByKey key a b) := by
  obtain h | h := Nat.lt_or_ge (key a) (key b)
  · rwa [joinByKey_of_lt h]
  · rwa [joinByKey_of_le h]

theorem joinByKey_self (key : Nat → Nat) (a : Nat) : joinByKey key a a = a := joinByKey_of_le (Nat.le_refl _)

/-- Either side is the leftmost of the operands whose key is largest. -/
theorem joinByKey_assoc (key : Nat → Nat) (a b c : Nat) :
    joinByKey key (joinByKey key a b) c = joinByKey key a (joinByKey key b c) := by
  obtain hab | hab := Nat.lt_or_ge (key a) (key b)
  · rw [joinByKey_of_lt hab]
    obtain hbc | hbc := Nat.lt_or_ge (key b) (key c)
    · rw [joinByKey_of_lt hbc, joinByKey_of_lt (Nat.lt_trans hab hbc)]
    · rw [joinByKey_of_le hbc, joinByKey_of_lt hab]
  · rw [joinByKey_of_le hab]
    obtain hbc | hbc := Nat.lt_or_ge (key b) (key c)
    · rw [joinByKey_of_lt hbc]
    · rw [joinByKey_of_le hbc, joinByKey_of_le hab, joinByKey_of_le (Nat.le_trans hbc hab)]

end

/-! ## The join of a cell type (R74) -/

/-- Beside MINN32, MAXF32 and ARGMAX, a type's join is the maximum or the union, its bottom is zero and each value is an element. -/
theorem joinUnit_cases (ty : Nat) : ty = 2 ∨ ty = 5 ∨ ty = 7 ∨
    (joinUnit ty = max ∨ joinUnit ty = (· ||| ·)) ∧ unitBottom ty = 0 ∧ ∀ x, isElement ty x = true := by
  match ty with
  | 2 => exact .inl rfl
  | 5 => exact .inr (.inl rfl)
  | 7 => exact .inr (.inr (.inl rfl))
  | 3 | 4 => exact .inr (.inr (.inr ⟨.inr rfl, rfl, fun _ => rfl⟩))
  | 0 | 1 | 6 | _ + 8 => exact .inr (.inr (.inr ⟨.inl rfl, rfl, fun _ => rfl⟩))

theorem joinUnit_comm {ty a b : Nat} (ha : a < 2 ^ (8 * unitBytes ty)) (hb : b < 2 ^ (8 * unitBytes ty)) :
    joinUnit ty a b = joinUnit ty b a := by
  obtain rfl | rfl | rfl | ⟨hmax | hor, -⟩ := joinUnit_cases ty
  · exact Nat.min_comm a b
  · rw [joinUnit_maxF32]
    exact joinByKey_comm (eq_of_keyOf_eq ha hb)
  · rw [joinUnit_argmax]
    exact joinByKey_comm (eq_of_argKey_eq ha hb)
  · rw [hmax, Nat.max_comm]
  · rw [hor]
    exact Nat.or_comm a b

theorem joinUnit_assoc (ty a b c : Nat) : joinUnit ty (joinUnit ty a b) c = joinUnit ty a (joinUnit ty b c) := by
  obtain rfl | rfl | rfl | ⟨hmax | hor, -⟩ := joinUnit_cases ty
  · exact Nat.min_assoc a b c
  · rw [joinUnit_maxF32]
    exact joinByKey_assoc keyOf a b c
  · rw [joinUnit_argmax]
    exact joinByKey_assoc argKey a b c
  · rw [hmax, Nat.max_assoc]
  · rw [hor]
    exact Nat.or_assoc a b c

theorem joinUnit_self (ty a : Nat) : joinUnit ty a a = a := by
  obtain rfl | rfl | rfl | ⟨hmax | hor, -⟩ := joinUnit_cases ty
  · exact Nat.min_self a
  · rw [joinUnit_maxF32]
    exact joinByKey_self keyOf a
  · rw [joinUnit_argmax]
    exact joinByKey_self argKey a
  · rw [hmax, Nat.max_self]
  · rw [hor]
    exact Nat.or_self a

/-- Where some value is no element, the join is one of its operands. -/
theorem isElement_joinUnit {ty a b : Nat} (ha : isElement ty a = true) (hb : isElement ty b = true) :
    isElement ty (joinUnit ty a b) = true := by
  obtain rfl | rfl | rfl | ⟨-, -, hall⟩ := joinUnit_cases ty
  · rfl
  · rw [joinUnit_maxF32]
    exact joinByKey_of_both (P := fun x => isElement 5 x = true) ha hb
  · rw [joinUnit_argmax]
    exact joinByKey_of_both (P := fun x => isElement 7 x = true) ha hb
  · exact hall _

theorem joinUnit_bottom {ty a : Nat} (ha : a < 2 ^ (8 * unitBytes ty)) (he : isElement ty a = true) :
    joinUnit ty (unitBottom ty) a = a := by
  obtain rfl | rfl | rfl | ⟨hmax | hor, hbottom, -⟩ := joinUnit_cases ty
  · exact Nat.min_eq_right (Nat.le_sub_one_of_lt ha)
  · rw [joinUnit_maxF32]
    exact joinByKey_eq_right (eq_of_keyOf_eq (by decide) ha) (keyOf_bottom_le ha he)
  · rw [joinUnit_argmax]
    exact joinByKey_eq_right (eq_of_argKey_eq (by decide) ha) (argKey_bottom_le ha he)
  · rw [hmax, hbottom, Nat.zero_max]
  · rw [hor, hbottom]
    exact Nat.zero_or a

end Sys2Proof.Machine

namespace Sys2Proof.Claims
open Machine

/-- Settles O22: the laws of the join of every cell type, of which commutativity and the bottom need that no two patterns have one
order key (`eq_of_keyOf_eq`, `eq_of_argKey_eq`). -/
theorem joinsAgreeInAnyOrder : Obligations.JoinsAgreeInAnyOrder := by
  unfold Obligations.JoinsAgreeInAnyOrder
  intro ty a b c _ ha hb _
  exact ⟨joinUnit_comm ha hb, joinUnit_assoc ty a b c, joinUnit_self ty a, isElement_joinUnit, joinUnit_bottom ha⟩

end Sys2Proof.Claims
end
